-- ==== Sys2Proof/Word.lean ====
section
/-! DEFINITION. The word types of the block: bytes, half-words, words, double words (R7, R12, R13), and the plain
number types of the names the manual gives its parts (R14). -/
namespace Sys2Proof

/-- A byte. -/
abbrev Byte := BitVec 8
/-- A 16-bit value. -/
abbrev W16 := BitVec 16
/-- A register word (R7). -/
abbrev W32 := BitVec 32
/-- A 64-bit value: two registers (R8). -/
abbrev W64 := BitVec 64
/-- A quadrant Q0 to Q3 (R14). -/
abbrev Quad := BitVec 2
/-- A logical port 0 to 1,023 (R14). -/
abbrev Port := BitVec 10
/-- A port group of a quadrant, 0 to 63 (R14). -/
abbrev Group := BitVec 6
/-- An optical engine, 0 to 15 (R14). -/
abbrev Engine := BitVec 4
/-- A plan slot, 0 to 4,095 (R158). -/
abbrev PlanSlot := BitVec 12
/-- An instance number, modulo 2^20 (R163). -/
abbrev InstNo := BitVec 20
/-- A command ring, 0 to 15 (R318). -/
abbrev CmdRing := BitVec 4

end Sys2Proof
end

