-- ==== Sys2Proof/Syntax.lean ====
section
/-! DEFINITION. The commands of the block: one constructor per row of spec/opcode_table.json, in the table's order, with the
operands the rules give it. A command is what comes to the block from outside (a host access, a frame on a fibre, a pin)
or one of the block's own timed or clocked steps, told by the outside when it falls. -/
namespace Sys2Proof

/-- What a read of host memory returns: the bytes, or `none` for a completion with UR, CA or poisoned data (R315).
(DESIGN CHOICE, log 7, safe) -/
abbrev DmaRead := Option (List Byte)

/-- A life-cycle record as it was read, and whether the fuses it asks for would program (R426).
(DESIGN CHOICE, log 80, safe) -/
structure LifeRead where
  record : DmaRead
  fused : Bool
  deriving DecidableEq, Repr

/-- A frame as the port's receiver hands it on: the preamble, the bytes from DA to the last byte before FCS, and whether
the FCS is good (R26, R244). -/
structure RxFrame where
  /-- The eight bytes of the preamble, in wire order (R244). -/
  pre : List Byte
  /-- Bytes from the first byte of DA to the last byte before FCS, in wire order. -/
  bytes : List Byte
  /-- The FCS is right and no codeword of the frame was uncorrectable (R243). -/
  fcsOk : Bool
  deriving DecidableEq, Repr

/-- An ordering domain (R39). -/
structure Domain where
  src : W32
  dst : W32
  flow : W16
  deriving DecidableEq, Repr

/-- The kind of a floor stream (R103). -/
inductive StreamKind | unicast | multicast | mash
  deriving DecidableEq, Repr

/-- The name of a stream of cells: SRC, SVC, KIND and DST of the cell tag (R103). `src` is the ingress port, or the
service stream's quadrant in [1:0] and index in [9:2] when `svc` is set. `dst` is the output fibre, or the quadrant. -/
structure StreamId where
  kind : StreamKind
  svc : Bool
  src : BitVec 10
  dst : BitVec 8
  deriving DecidableEq, Repr

/-- Where frames wait for admission: an ingress port, or the services of a quadrant (R101, R119). -/
inductive IngressSrc where
  | port (p : Port)
  | service (q : Quad)
  deriving DecidableEq, Repr

/-- A TRAIN frame's content (R247). -/
structure TrainInfo where
  mask : BitVec 8
  mode : BitVec 3
  k : BitVec 2
  count : W64
  echo : W64
  deriving DecidableEq, Repr

/-- Why a port goes down (R250). -/
inductive DownCause | lossOfLight | lossOfAlignment | partnerTrain
  deriving DecidableEq, Repr

/-- A transmit or receive micro-ring: fibre, side and lane (R254). -/
structure RingId where
  fibre : BitVec 8
  rx : Bool
  lane : BitVec 3
  deriving DecidableEq, Repr

/-- What the monitors of one engine show at a level measurement (R262, R264): the measured level of each laser 0 to 9 in
0.01 dB, not yet related to its reference, and per group the recalibration causes seen (bit 0 heater, bit 1 path loss, bit 2 offset).
(DESIGN CHOICE, log 80, safe) -/
structure LevelObs where
  levels : List Int
  causes : List (BitVec 3)
  deriving DecidableEq, Repr

/-- What the tone detector of a micro-ring shows (R254, R256): the tone, or none, and the measured level of the laser of the ring's
channel in 0.01 dB. (DESIGN CHOICE, log 80, safe) -/
structure ToneObs where
  tone : Option (BitVec 4)
  level : Int
  deriving DecidableEq, Repr

/-- A step of an engine's cross-fade, with the measured level of its spare in 0.01 dB (R256, R259).
(DESIGN CHOICE, log 80, safe) -/
structure FadeObs where
  engine : Engine
  level : Int
  deriving DecidableEq, Repr

/-- An MSI-X table entry as the host writes it: vector, message address and message data (R317).
(PRESUMED, log 10, unsafe) -/
structure MsixEntry where
  vector : BitVec 6
  addr : W64
  data : W32
  deriving DecidableEq, Repr

/-- What a port's receivers observed by the end of a training step (R248, R246): the lanes that have recovered their clock, and
in step 3 are aligned, the loop time in ns, and the latencies measured (R305). (DESIGN CHOICE, log 80, safe) -/
structure TrainObs where
  lanes : BitVec 8
  loopNs : Nat
  rxLat : W16
  txLat : W16
  deriving DecidableEq, Repr

/-- The signals of one flit as the receiving die sees them: valid word, data bytes and check-wire value (R275, R276). -/
structure WireFlit where
  valid : W64
  data : List Byte
  chk64 : W64
  deriving DecidableEq, Repr

/-- What a wire test of a bundle direction shows: working wires, and whether forwarded clock and valid wire work (R281). -/
structure WireObs where
  work : BitVec 34
  clockOk : Bool
  validOk : Bool
  deriving DecidableEq, Repr

/-- How the training of a bundle direction ended (R283, R289): the wires on which the receiver saw no error, the failed
verifications, whether the forwarded clock locked and whether the valid wire worked. -/
structure BundleTrain where
  work : BitVec 34
  clockOk : Bool
  validOk : Bool
  tries : BitVec 2
  deriving DecidableEq, Repr

/-- Result of an array's start test (R236). -/
inductive StartTest where
  | pass
  | spliced (row : BitVec 4) (skew : BitVec 2)
  | failed
  deriving DecidableEq, Repr

/-- How an in-service test ended (R237, R238): passed, abandoned for a tile, or failed at a vector, with the result of the
start test that then runs. -/
inductive KatResult where
  | pass
  | abandoned
  | fail (vector : BitVec 6) (retest : StartTest)
  deriving DecidableEq, Repr

/-- The blade inputs: voltages in 10 mV, currents in 10 mA (R435), and the power averaged over the last 1 ms in W (PWR_PIN).
(DESIGN CHOICE, log 80, safe) -/
structure InputObs where
  vinA : W16
  vinB : W16
  iinA : W16
  iinB : W16
  pinW : W16
  deriving DecidableEq, Repr

/-- What the receivers of one port counted in one millisecond (R393): codewords corrected and uncorrectable. -/
structure FecObs where
  port : Port
  corrected : Nat
  uncorrectable : Nat
  deriving DecidableEq, Repr

/-- What the environment shows at the end of a release step (R348): start tests of the arrays that did not plainly pass
(step 10, R236), the fuse actions, and the bundles' training (step 9) are told by their own commands.
(DESIGN CHOICE, log 80, safe) -/
structure StepObs where
  /-- Arrays (256q + a) whose start test did not simply pass, with the result; every other array passed. -/
  arrays : List (BitVec 10 × StartTest)
  /-- Engines whose first copy of the non-volatile record fails its CRC, and those whose second copy does (R368). -/
  nvFirst : BitVec 16
  nvSecond : BitVec 16
  deriving DecidableEq, Repr

/-- Units of critical state (R350, RST_ERRSRC). -/
inductive CritUnit | resetController | cellarController | floorRotation | rootPll
  deriving DecidableEq, Repr

/-- Why a PMBus frame is refused (R447). -/
inductive PmbusBad | unsupported | readOnlyWrite | badPec
  deriving DecidableEq, Repr

/-- The commands of the block: the rows of spec/opcode_table.json, in its order. (DESIGN CHOICE, log 1, safe) -/
inductive Instr where
  | registerWrite (addr : BitVec 24) (v : W32)
  | bar0BadAccess (addr : BitVec 24)
  | reg64LowRead (addr : BitVec 24)
  | reg64HighRead (addr : BitVec 24)
  | reg64LowWrite (addr : BitVec 24) (v : W32)
  | reg64HighWrite (addr : BitVec 24) (v : W32)
  | frameReceive (p : Port) (rx : RxFrame)
  | remoteCacheReply (h q : Quad)
  | invalidate (h q : Quad)
  | learnRequestApply (h : Quad)
  | moveRequestApply (h : Quad)
  | refreshMessage (h : Quad)
  | hostRecordApply (h : Quad)
  | sweeperVisit (q : Quad)
  | rehashBucketVisit (q : Quad)
  | rehashWalkEnd (q : Quad)
  | birthDeadline (q : Quad) (d : Domain)
  | domainIdleRelease (q : Quad) (d : Domain)
  | fenceHoldTimeout (q : Quad) (d : Domain) (seq : W32)
  | packWaitExpiry (st : StreamId)
  | stage1Slot (q : Quad) (g : Group)
  | stage2LaneStart (x y : Quad)
  | crossbarJoin (q : Quad) (lane : Group)
  | cellResequence (st : StreamId)
  | cellLossTimeout (st : StreamId)
  | frameAdmit (src : IngressSrc) (vc : BitVec 3)
  | groupCopyAdmit (q : Quad)
  | frameBoundary (p : Port) (late : Bool)
  | shaperCalendarSlot (p : Port) (n : BitVec 3)
  | refillBoundary
  | shaperCommit (p : Port) (n : BitVec 3) (v : W32)
  | policerCommit (p : Port) (t : BitVec 3) (v : W32)
  | mashFrame (q : Quad)
  | tunService (q : Quad) (tun : BitVec 6)
  | chunkSelfOpen (slot : PlanSlot) (n : InstNo)
  | contextTimerExpiry (slot : PlanSlot) (n : InstNo)
  | waitTimerExpiry (slot : PlanSlot) (n : InstNo)
  | resultRetryTimeout (slot : PlanSlot) (n : InstNo) (c : BitVec 43) (r : BitVec 12)
  | resultAck (q : Quad)
  | resultNack (q : Quad)
  | queuedPlanLoad
  | planUnloadComplete (slot : PlanSlot)
  | kilnPartialHandover (slot : PlanSlot) (n : InstNo) (c : BitVec 43)
  | kilnTileIssue (q : Quad) (a : BitVec 8)
  | kilnTileOutput (q : Quad) (a : BitVec 8)
  | dutyStep (q : Quad) (a : BitVec 8)
  | currentHoldExpiry (q : Quad) (a : BitVec 8)
  | inServiceTest (q : Quad) (a : BitVec 8)
  | forcedTest (q : Quad) (a : BitVec 8)
  | inServiceTestResult (q : Quad) (a : BitVec 8) (r : KatResult)
  | trainFrameReceive (p : Port) (t : TrainInfo)
  | trainingStepComplete (p : Port) (o : TrainObs)
  | trainingTimeout (p : Port)
  | portDown (p : Port) (c : DownCause)
  | widthReceive (p : Port) (mask : BitVec 8) (lsn : W16)
  | widthAckReceive (p : Port) (mask : BitVec 8) (lsn : W16)
  | widthAckTimeout (p : Port)
  | creditFrameReceive (p : Port) (limits : List W32)
  | creditFrameTimer (p : Port)
  | retryReqReceive (p : Port) (lsn : W16)
  | linkAckReceive (p : Port) (lsn : W16)
  | linkAckTimer (p : Port)
  | flapEvaluation
  | ringLightPresent (r : RingId)
  | ringResonance (r : RingId)
  | ringSweepEnd (r : RingId)
  | ringToneResult (r : RingId) (o : ToneObs)
  | ringStep (r : RingId)
  | ringToneLost (r : RingId)
  | ringLightLost (r : RingId)
  | levelMeasurement (o : Engine) (obs : LevelObs)
  | handoverStep (o : Engine) (onlyTone : Bool)
  | crossFadeStep (o : FadeObs)
  | handoverStepTimeout (o : Engine)
  | laserFailure (o : Engine) (n : BitVec 4)
  | recalComplete (o : Engine) (m : BitVec 2)
  | meshSettleCheck (o : Engine) (m : BitVec 2) (bad : Option (BitVec 3))
  | laserEnLow
  | laserEnHigh
  | txOnWrite (o : Engine) (on : Bool)
  | flitReceive (x y : Quad) (b : BitVec 6) (w : WireFlit)
  | d2dRetryRequest (x y : Quad) (b : BitVec 6) (slot : BitVec 12)
  | d2dRetryRepeat (x y : Quad) (b : BitVec 6)
  | d2dReplayWindowExpiry (x y : Quad) (b : BitVec 6)
  | mseqGapTimeout (x y : Quad)
  | marginSample (x y : Quad) (b : BitVec 6) (widths : List (BitVec 6))
  | flitErrorWindow (x y : Quad) (b : BitVec 6)
  | quietPointEnd (x y : Quad) (b : BitVec 6) (o : WireObs)
  | bundleTrainingComplete (x y : Quad) (b : BitVec 6) (o : BundleTrain)
  | testAccessInstruction (code : Nat)
  | ppsEdge (d : BitVec 1)
  | domainEdgeTimeout (d : BitVec 1)
  | servoApply
  | ppsOutCrossing
  | ppsOutPulseEnd
  | stepGo
  | stepRearm
  | snap
  | timeIncrWrite (v : W64)
  | activeWrite (d : BitVec 1)
  | launchTime (p : Port)
  | doorbell (r : Fin 34) (v : W32) (aligned : Bool)
  | descriptorFetch (c : CmdRing) (d : List Byte)
  | writeBackTimer (r : Fin 34)
  | interruptTimer (r : Fin 34)
  | ringEnable (r : Fin 34)
  | ringDisable (r : Fin 34)
  | busMasterEnable
  | msixUnmask (e : MsixEntry)
  | nop (c : CmdRing)
  | portArm (c : CmdRing)
  | portDisarm (c : CmdRing)
  | sheafSet (c : CmdRing) (rec : DmaRead)
  | groupSet (c : CmdRing) (rec : DmaRead)
  | tableLoad (c : CmdRing) (buf : DmaRead)
  | tableDump (c : CmdRing)
  | tableRehash (c : CmdRing)
  | endpointFence (c : CmdRing)
  | caskLayout (c : CmdRing)
  | planLoad (c : CmdRing) (img : DmaRead)
  | planUnload (c : CmdRing)
  | instanceAbort (c : CmdRing)
  | identityMove (c : CmdRing)
  | laserCommission (c : CmdRing)
  | groupRecal (c : CmdRing)
  | meshSet (c : CmdRing)
  | bundleQuiesce (c : CmdRing)
  | bundleRelease (c : CmdRing)
  | blockReset (c : CmdRing)
  | blockResetComplete (ty : BitVec 8) (ix : BitVec 16) (arrays : List (BitVec 10 × StartTest))
  | powerState (c : CmdRing)
  | powerStateComplete
  | schedLaunch (c : CmdRing) (frame : DmaRead)
  | pitchOpen (c : CmdRing) (rec : DmaRead)
  | pitchSeal (c : CmdRing) (rec : DmaRead)
  | pitchDrop (c : CmdRing) (rec : DmaRead)
  | pitchStatus (c : CmdRing) (rec : DmaRead)
  | pitchPut (q : Quad)
  | pitchGet (q : Quad) (poisoned : Bool)
  | tapSetRule (c : CmdRing) (rec : DmaRead)
  | tapSetFilter (c : CmdRing) (rec : DmaRead)
  | tapStart (c : CmdRing) (rec : DmaRead)
  | tapStop (c : CmdRing) (rec : DmaRead)
  | tapRead (c : CmdRing) (rec : DmaRead)
  | tapRecordDrain (q : Quad)
  | fwStage (c : CmdRing) (img : DmaRead)
  | fwActivateTrial (c : CmdRing) (rec : DmaRead)
  | fwActivateNextBoot (c : CmdRing) (rec : DmaRead)
  | fwSvnCommit (c : CmdRing) (rec : DmaRead)
  | keySlotRevoke (c : CmdRing) (rec : DmaRead)
  | attestReport (c : CmdRing) (req : DmaRead)
  | attestCertificate (c : CmdRing) (req : DmaRead)
  | lifecycle (c : CmdRing) (o : LifeRead)
  | recoveryGo (img : DmaRead)
  | porNAssert
  | porNRelease
  | porSupplyLow
  | porSupplyRelease
  | sysRstNAssert
  | sysRstNRelease
  | perstNAssert
  | perstNRelease
  | coreReset (v : W32)
  | sysReset (v : W32)
  | releaseStepComplete (n : BitVec 4) (o : StepObs)
  | criticalError (u : CritUnit) (q : Quad)
  | refOkLoss (offset : W16)
  | refOkRestored
  | sclStuckLow
  | errAck (seq : W32)
  | errHeadRead
  | overflowClear
  | watchdogExpiry
  | firmwareRestartComplete
  | healthTick (obs : List FecObs)
  | expelHoldExpiry (p : Port)
  | readmitHoldExpiry (p : Port)
  | cntClear (v : W32)
  | bar4Read (off : BitVec 18) (size : Nat)
  | bar4Write (off : BitVec 18)
  | modeWrite (m : BitVec 2)
  | recoveryExit
  | samplerEnWrite
  | inputFaultSet (o : InputObs)
  | inputFaultClear (o : InputObs)
  | sensorSample (i : Fin 57) (t : BitVec 12)
  | warnClear
  | thermalTrip (i : Fin 57)
  | cellarThermalTrip
  | tripClear
  | clearFaults
  | capability
  | statusWord
  | statusInput
  | statusTemperature
  | readVin
  | readIin
  | readTemperature1
  | readTemperature2
  | readPin
  | pmbusRevision
  | pmbusReject (why : PmbusBad)
  | fwStageComplete (ok : Bool)
  | ageDiscardWaiting (src : IngressSrc) (vc : BitVec 3)
  | aerUncorrectable
  | peakWRead
  deriving DecidableEq, Repr

end Sys2Proof
end

