-- ==== Sys2Proof/Decode.lean ====
section
/-! DEFINITION. The commands that a word spells by the table's bits: the table of this block gives no row any bits (its
commands are events on pins, buses and fibres), so no word spells a command. -/
namespace Sys2Proof

/-- The command a word of `nbits` bits spells: none, since no row of the table has bits. (DESIGN CHOICE, log 3, safe) -/
def decodeTableWord (_nbits _w : Nat) : Option Instr := none

end Sys2Proof
end

