-- ==== Sys2Proof/Config.lean ====
section
/-! DEFINITION. What one module fixes and the manual does not (the fused identity), the values the manual leaves open, as
constants without a body (free values), and the fixed sizes of the device. -/
namespace Sys2Proof.Config

/-- The fused module serial number before the rule that it is never 0 is applied (R339): free. -/
opaque serialRaw : W64
/-- The fused stepping of IDENT_IDCODE before the rule that the first one is 0x1 is applied (R339): free. -/
opaque versionRaw : BitVec 4
/-- IDENT_SERIAL: any non-zero value (R339). -/
def serial : W64 := if serialRaw = 0 then 1 else serialRaw

/-- VERSION of IDENT_IDCODE: 0x1 or higher (R339). -/
def version : BitVec 4 := if versionRaw = 0 then 1 else versionRaw

/-- The class code of the function: network controller, other (R313). -/
def classCode : BitVec 24 := 0x028000

/-- A fresh 64-bit value each time, by the state's counter: draws of the random source (R421, R424), and other values the
manual says exist but does not state. (DESIGN CHOICE, log 5, safe) -/
opaque free : Nat → W64
/-- Which way a penalty's decay is rounded, by penalty and DAMP_HALF_MS (R252): the manual gives the real number and no
rounding. -/
opaque flapUp : Nat → Nat → Bool
/-- Whether a quotient that is no whole number of units is taken as the unit above it, by numerator and denominator: rates,
offsets, residence times and corrections, for which the manual gives no rounding (R301, R302, R307). -/
opaque roundUp : Int → Nat → Bool
/-- Which of the exponents that fit the Linear11 word of a reading takes, by numerator and denominator (R447): the manual fixes none. -/
opaque linearExp : Int → Nat → Nat
/-- SB_ADDR, the straps of the PMBus address (R447). -/
opaque sbAddr : BitVec 3
/-- SHA-256, named by the manual and not defined by it (R414). (DESIGN CHOICE, log 76, safe) -/
opaque sha256 : List Byte → List Byte
/-- RSASSA-PSS verification with the parameters of R414: modulus, signature, message. (DESIGN CHOICE, log 76, safe) -/
opaque pssVerify : List Byte → List Byte → List Byte → Bool
/-- The 384-byte signature the identity key makes over a message (R422); the last argument is the fresh-value counter
(the salt). (DESIGN CHOICE, log 76, safe) -/
opaque idSign : List Byte → Nat → List Byte
/-- SHA-256 of the identity public modulus (R422). (DESIGN CHOICE, log 76, safe) -/
opaque idKeyHash : List Byte
/-- The DER identity certificate (R421). (DESIGN CHOICE, log 76, safe) -/
opaque certificate : List Byte
/-- The key hashes of the two fuse slots (R414). (DESIGN CHOICE, log 76, safe) -/
opaque keyHash : BitVec 1 → List Byte
/-- The initial value of CHK64's register: R276 names the polynomial only. -/
opaque chk64Init : W64
/-- Whether the frames of an outcome write's bitmaps are cut before a 64-byte unit (R181): bytes of the two bitmaps, unit. -/
opaque outcomeCut : Nat → Nat → Nat → Bool
/-- The OFFSET in the host's copy of a status slot (R182): plan slot and instance; the manual gives each contributor its own. -/
opaque hostOffset : Nat → Nat → W64
/-- The FCS bytes of a frame as a tap record shows them (R407): the frame's bytes, and the count of free values drawn when it is
seen; the manual gives the FCS no rule, and a frame dropped for its FCS carries another. -/
opaque frameFcs : List Byte → Nat → BitVec 32
/-- The test block's entries, row by row, and from 256 on the elements of the in-service test's 64 vectors, as BF16 (R236, R237):
small integers the manual does not list. -/
opaque testBlock : Nat → W16
/-- The numbers but `x`, in order. -/
def past (x n : Nat) : Nat := if n < x then n else n + 1
/-- The instruction code of BYPASS at the test access port, which the manual does not number (R292). -/
opaque tapBypass : Nat
/-- Which of the other codes is that of IDCODE. -/
opaque tapIdcodeAt : Nat
/-- The instruction code of IDCODE, another than that of BYPASS (R292). (DESIGN CHOICE, log 5, safe) -/
def tapIdcode : Nat := past tapBypass tapIdcodeAt
/-- Which of the codes left is that of the wire measurement of assembly test. -/
opaque tapMeasureAt : Nat
/-- The instruction code that runs the wire measurement, a third one (R282, R291).
(DESIGN CHOICE, log 5, safe; DESIGN CHOICE, log 81, safe) -/
def tapMeasure : Nat := past (max tapBypass tapIdcode) (past (min tapBypass tapIdcode) tapMeasureAt)
/-- The n-th number, from 0, that a list does not hold. -/
def outside (l : List Nat) (n : Nat) : Nat := (((List.range (n + l.length + 1)).filter fun k => !l.contains k)[n]?).getD 0
/-- Which of the codes left is that of the writing of fuses, and which of those left then is that of the certificate. -/
opaque tapFusesAt : Nat
opaque tapCertificateAt : Nat
/-- The instruction code that writes the fuses of assembly test (R236, R291). (DESIGN CHOICE, log 81, safe) -/
def tapFuses : Nat := outside [tapBypass, tapIdcode, tapMeasure] tapFusesAt
/-- The instruction code that writes the identity certificate (R421). (DESIGN CHOICE, log 81, safe) -/
def tapCertificate : Nat := outside [tapBypass, tapIdcode, tapMeasure, tapFuses] tapCertificateAt
/-- What assembly test writes into the fuses of array 256q + a: nothing, or the row its spare takes and the trim (R236). -/
opaque arrayFuse : Nat → Option (Option (BitVec 4) × BitVec 2)
/-- What that measurement finds on a bundle direction, (4x + y) × 64 + b: bit w for a bad wire w (R282).
(DESIGN CHOICE, log 81, safe) -/
opaque wireBad : Nat → BitVec 34
end Sys2Proof.Config
end

