-- ==== Sys2Proof/Machine/State.lean ====
section
/-! DEFINITION. The state of the block as plain data: every register, buffer, queue, counter, mode and pin the manual gives
the device, with the reset value of each as its default. Times are counts of CLK_CORE cycles (0.5 ns) unless a name says
otherwise. A `SMap` is a sparse table by a natural number key. -/
namespace Sys2Proof.Machine

/-- A sparse table: keys strictly rising (`SMap.wf`), a key not listed reads as the table's default. -/
abbrev SMap (α : Type) := List (Nat × α)

/-- Reset reaches, narrowest first (R344). -/
inductive Reach | core | system | powerOn
  deriving DecidableEq, Repr

/-- Sources of a reset, in the bit order of RST_CAUSE. -/
inductive RstSource | porPin | porSupply | sysPin | sysHost | sysPerst | sysError | sysLifecycle | coreHost | coreP3
  deriving DecidableEq, Repr

/-- The response the last host access drew from the block. -/
inductive Reply where
  | none
  | data (v : W64)
  | unsupported
  | noResponse
  deriving DecidableEq, Repr

/-- Completion status codes (R331). -/
inductive Status
  | success | resourcesPending | refused | insufficient | notOpen | notIdle | checkFailed | missed | bufferShort
  | badDescriptor | dmaError | fwRestarted | resetAborted
  deriving DecidableEq, Repr

/-- Refusal causes (R332). -/
inductive Cause
  | state | range | cls | setting | arming | paths | lanes | share | inUse | image | full | ownEid | window | buffer
  deriving DecidableEq, Repr

/-- A descriptor that was fetched and whose command has not completed (R320, R324). (DESIGN CHOICE, log 15, safe) -/
structure Fetched where
  index : W32
  /-- How often its ring had been enabled when it was fetched: a count repeats after the ring is enabled again (R321). -/
  era : Nat := 0
  opcode : Byte
  serial : Bool
  irqNow : Bool
  tag : W32
  /-- The descriptor's 64 bytes. -/
  bytes : List Byte
  /-- The command has started (R328). -/
  started : Bool := false
  /-- Completions still reserved for it on the paired ring (R320). -/
  reserved : Nat := 1
  /-- The ring on which they are reserved: the paired ring when it was fetched. -/
  pair : Nat := 16
  /-- Its completion is discarded: the host interface was reset under PERST_MODE 1 (R346). -/
  mute : Bool := false
  deriving DecidableEq, Repr

/-- Names a fetched command: its command ring, its count on that ring, and how often the ring had been enabled.
(DESIGN CHOICE, log 15, safe) -/
structure CmdRef where
  ring : CmdRing
  index : W32
  era : Nat
  deriving DecidableEq, Repr

/-- A ring (R318 to R322). BASE, WB, LOG2_SIZE, PAIR, VECTOR and the moderation fields are registers. -/
structure RingSt where
  enabled : Bool := false
  prod : W32 := 0
  cons : W32 := 0
  stalled : Bool := false
  /-- The descriptor content read while the paired ring lacks room (R320). -/
  heldDesc : Option (List Byte) := none
  armed : Bool := false
  /-- When the moderation timer started (R335). -/
  timer : Option Nat := none
  /-- The count last written back (R319). -/
  wbCount : W32 := 0
  /-- A write-back waits for Bus Master Enable (R315). -/
  wbDue : Bool := false
  cmds : List Fetched := []
  /-- How often the ring has been enabled. -/
  era : Nat := 0
  /-- Completions reserved on this completion ring (R320). -/
  reservedHere : Nat := 0
  deriving DecidableEq, Repr

/-- The host interface beside its rings (R315, R335, R334, R374). (PRESUMED, log 10, unsafe) -/
structure HifSt where
  busMaster : Bool := false
  /-- The MSI-X enable of the configuration space (R450). -/
  msixEn : Bool := false
  fwReady : Bool := false
  dbBad : Nat := 0
  /-- PBA bit of each vector. -/
  pba : W64 := 0
  /-- Mask bit of each vector's MSI-X table entry: set at reset, as PCI Express gives. -/
  mask : W64 := BitVec.allOnes 64
  /-- Message address and data of each vector's table entry (R317); reset to 0. -/
  msix : SMap (W64 × W32) := []
  /-- Events discarded since the last EVENTS_LOST event (R334). -/
  eventsLost : Nat := 0
  /-- The command ring fetched from last (R328). -/
  lastFetch : CmdRing := 15
  linkUp : Bool := false
  /-- Ring entries that wait for Bus Master Enable, oldest first: ring, bytes, IRQ_NOW (R315). -/
  waitEntries : List (Nat × List Byte × Bool) := []
  /-- Writes to host memory that wait for it, oldest first: address and bytes. -/
  waitWrites : List (Nat × List Byte) := []
  /-- A GO of SEC_RECOV that waits for it, with what its read will return (R315, R416). -/
  waitGo : Option DmaRead := none
  deriving DecidableEq, Repr

/-- An error record (R369). -/
structure ErrRec where
  cls : Byte
  sev : Byte
  quad : Byte
  seq : W32
  timeNs : W64
  lastNs : W64
  count : Nat
  /-- Bytes 32 to 63. -/
  detail : List Byte
  deriving DecidableEq, Repr

/-- A detected error: the CLK_TIME cycle and device time at which it was detected, CLASS, severity, QUAD and DETAIL. -/
structure Detected where
  cycle : Nat
  ns : W64
  cls : Byte
  sev : Byte
  quad : Byte
  detail : List Byte
  deriving DecidableEq, Repr

/-- The ERR block (R369 to R374). -/
structure ErrSt where
  /-- Corrected errors of the present second of FREE, by instance 64q + k: the second, the count, a record written (R363). -/
  corrected : SMap (Nat × Nat × Bool) := []
  queue : List ErrRec := []
  nextSeq : W32 := 1
  overflow : Bool := false
  lost : Nat := 0
  lockedWrite : Bool := false
  fwHeld : Bool := false
  ignored : Nat := 0
  badAccess : Nat := 0
  /-- The sixteen words latched by the last read of ERR_HEAD word 0. -/
  head : List W32 := []
  /-- Errors detected and not yet recorded, oldest first: those of the present CLK_TIME cycle, at whose end they are taken (R370),
  and in the release of an error-raised reset all of them, as the CRITICAL record is the first (R373). -/
  found : List Detected := []
  deriving DecidableEq, Repr

/-- The reset controller (R344 to R352). (DEDUCED, log 23, unsafe) -/
structure RstSt where
  /-- Sources held asserted. -/
  held : List RstSource := [.porSupply]
  /-- The reach asserted or being released. -/
  reach : Option Reach := some .powerOn
  /-- Release step in progress, 0 none (R348). -/
  step : Nat := 0
  cause : BitVec 9 := 0x002
  last : BitVec 4 := 2
  heldSys : Bool := false
  errUnit : BitVec 4 := 0
  errQuad : BitVec 2 := 0
  /-- Times of the error-raised resets of the current 10 s window. -/
  recent : List Nat := []
  /-- The system reset now released was raised by an error (R373). -/
  errRaised : Bool := false
  /-- PERST_N recognised low. -/
  perstLow : Bool := false
  /-- PERST_MODE as sampled at the assertion (R451). -/
  perstSampled : Bool := false
  caskWiped : Bool := false
  /-- The release adds steps 6 and 7 (leaving P3, R361). -/
  fromP3 : Bool := false
  /-- PITCH events a reset owes: slot, image, chunks present (R385, R386). -/
  pitchTell : List (Nat × W32 × Nat) := []
  quadInReset : BitVec 4 := 0
  deriving DecidableEq, Repr

/-- A counter (R400): its word, and the CLK_CORE cycle of its last increment, the word before that cycle and what the cycle has
added: a clear of the same cycle takes effect before them (R404). -/
structure Ctr where
  word : BitVec 49 := 0
  cycle : Nat := 0
  before : BitVec 49 := 0
  added : Nat := 0
  deriving DecidableEq, Repr

/-- The clock monitor (R343). -/
structure ClkSt where
  pllLock : Bool := false
  refOk : Bool := false
  holdover : Bool := false
  refLost : Bool := false
  refOffset : W16 := 0
  deriving DecidableEq, Repr

/-- Domain states (R300). -/
inductive DomState | absent | acquiring | valid | lost
  deriving DecidableEq, Repr

/-- One time domain (R299 to R301). -/
structure TimeDom where
  state : DomState := .absent
  good : Nat := 0
  lastFree : Option Nat := none
  /-- FREE and the whole second index of the last accepted edges, newest first, at most eight. -/
  edges : List (Nat × Nat) := []
  capNs : W64 := 0
  capFrac : W32 := 0
  offset : Int := 0
  /-- rate_d in 2^-32 ns per cycle. -/
  rate : Nat := 0x100000000
  freqPpb : Int := 0
  accepted : W16 := 0
  rejected : Nat := 0
  deriving DecidableEq, Repr

/-- The time unit (R293 to R304). -/
structure TimeSt where
  /-- CLK_CORE cycle count, the model's clock. -/
  core : Nat := 0
  free : W64 := 0
  ns : W64 := 0
  frac : W32 := 0
  incr : W64 := 0x100000000
  stepOk : Bool := true
  domA : TimeDom := {}
  domB : TimeDom := {}
  activeNow : BitVec 1 := 0
  switching : Bool := false
  holdover : Bool := false
  clamped : Bool := false
  ppsSkip : Bool := false
  ppsHigh : Bool := false
  /-- This CLK_TIME cycle's own advance has crossed a whole second plus OUT_OFFSET_NS, and FREE when PPS_OUT rose (R304). -/
  ppsDue : Bool := false
  ppsSince : Nat := 0
  /-- INCR staged by the servo, with the FREE count at which it applies (R302). -/
  staged : Option (Nat × W64) := none
  snapNs : W64 := 0
  snapFrac : W32 := 0
  snapFree : W64 := 0
  deriving DecidableEq, Repr

/-- An output queue entry (R134, R119). -/
structure QEntry where
  fid : Nat
  bytes : List Byte
  src : IngressSrc
  stampUs : Nat
  free : W64
  cells : Nat
  /-- Cells released at the output group so far, of `cells` (R116). -/
  released : Nat
  cut : Bool := false
  /-- A fault was found after its cut-through had begun: it ends with an inverted FCS (R29). -/
  faulty : Bool := false
  /-- The members a multicast copy serves (R128). -/
  members : List W32 := []
  group : Bool := false
  /-- A Mash result: plan slot, instance, chunk (R128). -/
  result : Option (Nat × Nat × Nat) := none
  deriving DecidableEq, Repr

/-- An egress queue with its shaper and samples (R134 to R154). -/
structure QueueSt where
  entries : List QEntry := []
  depth : Nat := 0
  /-- NET in picoseconds with 16 fractional bits (R142). -/
  net : Int := 0
  rate : Nat := 0
  burst : Nat := 16
  /-- Committed shaper entries waiting for the refill boundary (R145): RATE_MBPS, BURST_256 and FREE at the commit; a second
  one stands only where it was committed in the cycle of a boundary. -/
  pend : List (Nat × Nat × Nat) := []
  cal : Option Nat := none
  maxDepth : Nat := 0
  maxDelay : Nat := 0
  deriving DecidableEq, Repr

/-- A policer's entry in force or committed (R145, R149). -/
structure PolCfg where
  cir : Nat := 0
  en : Bool := false
  aware : Bool := false
  redAct : Bool := false
  pir : Nat := 0
  cbs : Nat := 0x400
  pbs : Nat := 0x800
  deriving DecidableEq, Repr

/-- A policer (R148). Buckets start full. -/
structure PolSt where
  cfg : PolCfg := {}
  /-- Committed entries waiting for the refill boundary, with FREE at the commit (R145). -/
  pend : List (PolCfg × Nat) := []
  tc : Nat := 262144000
  tp : Nat := 524288000
  deriving DecidableEq, Repr

/-- Deficit round robin of a port (R138 to R141). -/
structure DrrSt where
  cur : Option Nat := none
  last : Nat := 5
  deficit : List Nat := [0, 0, 0, 0, 0, 0]
  gcur : Option Nat := none
  glast : Nat := 2
  gdef : List Nat := [0, 0, 0]
  deriving DecidableEq, Repr

/-- A frame kept for link retry (R245): LSN, bytes, VC, cells. -/
structure RetryEntry where
  lsn : W16
  bytes : List Byte
  vc : BitVec 3
  cells : Nat
  /-- A service or a launch of the device sent it, and the egress queue it left (0xFF without one): what the taps see of its
  replay (R407). -/
  own : Bool := false
  queue : Nat := 0xFF
  deriving DecidableEq, Repr

/-- Link control frames a port has to send (R247). -/
inductive LinkCtl where
  | credit
  | retryReq (lsn : W16)
  | linkAck (lsn : W16)
  | train
  | width (mask : BitVec 8) (lsn : W16)
  | widthAck (mask : BitVec 8) (lsn : W16)
  deriving DecidableEq, Repr

/-- Health states (R394). -/
inductive HState | healthy | suspect | degraded | expelled
  deriving DecidableEq, Repr

/-- A logical port: arming, training, credits, retry, service order and health. -/
structure PortSt where
  armed : Bool := false
  up : Bool := false
  /-- Training step in progress, 0 none (R248). -/
  trainStep : Nat := 0
  trainAgree : Nat := 0
  /-- The last TRAIN frame heard in this training names another mode or k, and the trainings that failed so (R248). -/
  trainBad : Bool := false
  mismatches : Nat := 0
  partnerCount : W64 := 0
  width : BitVec 8 := 0
  partnerMask : BitVec 8 := 0xFF
  /-- The width first trained after arming (R393). -/
  firstWidth : BitVec 8 := 0
  retryOn : Bool := false
  suppressed : Bool := false
  /-- Flap penalty P, in units of 2^-32 (R252). -/
  penalty : Nat := 0
  /-- WIDTH frames sent and not yet answered, oldest first: mask, LSN, when (R251). -/
  widthPend : List (BitVec 8 × W16 × Nat) := []
  /-- Width changes to make when the port sends this LSN, and those to make when it receives this LSN. -/
  widthAt : List (BitVec 8 × W16) := []
  widthIn : List (BitVec 8 × W16) := []
  limitHeld : List W32 := [0, 0, 0, 0, 0, 0]
  sent : List W32 := [0, 0, 0, 0, 0, 0]
  freed : List W32 := [0, 0, 0, 0, 0, 0]
  advertised : List W32 := [0, 0, 0, 0, 0, 0]
  received : List W32 := [0, 0, 0, 0, 0, 0]
  creditAt : Nat := 0
  creditDue : Bool := false
  lsnNext : W16 := 0
  lsnExpect : W16 := 0
  lsnSeen : Bool := false
  retryBuf : List RetryEntry := []
  replay : List RetryEntry := []
  reqPending : Bool := false
  ctl : List LinkCtl := []
  lastNack : Option Nat := none
  /-- Learn tokens in halves of a millionth of a request (R82). -/
  learnTok : Nat := 128000000
  learnAt : Nat := 0
  /-- Cells of the ingress share in use (R118). -/
  ingUsed : Nat := 0
  drr : DrrSt := {}
  /-- Health penalty D (R393). -/
  hd : Nat := 0
  hstate : HState := .healthy
  /-- When it became SUSPECT, and DEGRADED. -/
  suspectAt : Nat := 0
  degradedAt : Nat := 0
  /-- When SCORE came to READMIT_LVL and stayed. -/
  readmitAt : Option Nat := none
  /-- Time of the last credit frame or frame with a good FCS. -/
  aliveAt : Nat := 0
  retryPoints : Nat := 0
  silentMs : Bool := false
  rxLat : W16 := 0
  txLat : W16 := 0
  wireRx : Nat := 0
  wireTx : Nat := 0
  inReset : Bool := false
  deriving DecidableEq, Repr

/-- A frame inside the device with what is remembered of its arrival. (DESIGN CHOICE, log 40, safe) -/
structure FrameCtx where
  fid : Nat
  /-- DA to the last byte before FCS. -/
  bytes : List Byte
  src : IngressSrc
  /-- Arrival stamp in microseconds of the free-running count (R122). -/
  stampUs : Nat
  free : W64
  /-- The charge to return under R52: VC and cells. -/
  vcIn : BitVec 3
  cellsIn : Nat
  /-- Cells of the ingress share it holds (0 once freed). -/
  share : Nat
  yellow : Bool := false
  result : Option (Nat × Nat × Nat) := none
  /-- A Mash status or outcome write, and the quadrant that counts it when it fails (R182, R449). -/
  outcome : Option Nat := none
  /-- A word of it in the packet buffer is poisoned, so many bytes before its end (R364). -/
  poison : Option Nat := none
  deriving DecidableEq, Repr

/-- One copy of a group frame: result sheaf and the members behind it (R126). -/
structure Copy where
  sheaf : Nat
  members : List W32
  deriving DecidableEq, Repr

/-- Where a frame goes once its route is chosen. -/
inductive Target where
  | unicast (sheaf : Nat) (port : Nat)
  | copies (cs : List Copy)
  | mash (q : Quad)
  | pitch (q : Quad)
  deriving DecidableEq, Repr

/-- A frame waiting for admission on an ingress VC (R119). -/
structure Waiting where
  ctx : FrameCtx
  target : Target
  deriving DecidableEq, Repr

/-- A held fenced frame (R99, R100). -/
structure Held where
  quad : Quad
  dom : Domain
  seq : W32
  precnt : W32
  wait : Waiting
  /-- The copy of a group frame held per copy, and the port its spray chose (R127). -/
  copy : Option (Copy × Nat) := none
  /-- When the hold began (R44). -/
  since : Nat
  deriving DecidableEq, Repr

/-- A scoreboard record (R95). -/
structure DomRec where
  quad : Quad
  dom : Domain
  l : W32
  map : BitVec 512
  slipHi : Option W32
  birth : Option (Nat × W32)
  lastDep : Nat
  deriving DecidableEq, Repr

/-- A piece of a frame in a cell (R101, R102). -/
structure Frag where
  fid : Nat
  len : Nat
  first : Bool
  last : Bool
  /-- A word of the piece is poisoned (R364). -/
  poisoned : Bool := false
  deriving DecidableEq, Repr

/-- A cell: its stream, number and content (R103). -/
structure Cell where
  st : StreamId
  cseq : BitVec 14
  frags : List Frag
  fill : Nat
  fstart : Option Nat
  poisoned : Bool := false
  /-- The bits of its tag that are in error (R103). -/
  tagFlip : W64 := 0
  deriving DecidableEq, Repr

/-- A stream at its source: the open cell and the numbering (R101, R104, R113). -/
structure StreamSt where
  frags : List Frag := []
  used : Nat := 0
  fstart : Option Nat := none
  /-- When the last frame ended in the open cell. -/
  endedAt : Option Nat := none
  next : BitVec 14 := 0
  /-- Cells sent and not yet released. -/
  flying : Nat := 0
  /-- Full cells that the window of R113 holds back. -/
  held : List Cell := []
  deriving DecidableEq, Repr

/-- A stream at its destination (R112, R114). -/
structure ReseqSt where
  expect : BitVec 14 := 0
  cells : List Cell := []
  missingAt : Option Nat := none
  /-- Discarded cells not yet passed by, with the frames they hold (R114). -/
  lost : List (BitVec 14 × List Nat) := []
  /-- Frames dropped with a lost cell whose later cells still come. -/
  skip : List Nat := []
  /-- Frames whose last cell is still to come and that a poisoned cell touched (R364). -/
  bad : List Nat := []
  deriving DecidableEq, Repr

/-- A frame in flight through the floor, until its last cell is released (R112). -/
structure Flying where
  ctx : FrameCtx
  target : Target
  /-- Output queue number at the port, for unicast. -/
  queue : Nat
  cells : Nat
  released : Nat := 0
  cut : Bool := false
  /-- A fault was found after its cut-through had begun (R29). -/
  faulty : Bool := false
  /-- A cut-through frame that stands in its queue already (R116). -/
  queued : Bool := false
  dropped : Bool := false
  /-- Output quadrants still to receive the frame (multicast). -/
  quads : Nat := 1
  deriving DecidableEq, Repr

/-- A multicast frame at an output quadrant's replicator (R127). -/
structure ReplItem where
  ctx : FrameCtx
  copies : List Copy
  /-- Its cells are charged to the egress region: a copy has been admitted. -/
  charged : Bool := false
  deriving DecidableEq, Repr

/-- The floor of one quadrant. -/
structure FloorSt where
  weights : List Nat := [16, 16, 16, 16]
  table : List Quad := []
  /-- Bit y: the direction to quadrant y was found without a working bundle, and no reset has trained it again (R132). -/
  cut : BitVec 4 := 0
  underCap : Bool := false
  /-- Bit y: a transit hold raised for quadrant y (R109). -/
  hold : BitVec 4 := 0
  /-- The holds of each other quadrant as its messages have told them here (R109, R278). -/
  seen : List (BitVec 4) := [0, 0, 0, 0]
  /-- Cells charged to the egress region. -/
  used : Nat := 0
  repl : List ReplItem := []
  /-- Die-to-die lanes already taken toward each quadrant in the cycle shown. -/
  laneCycle : Nat := 0
  lanes : List Nat := [0, 0, 0, 0]
  /-- The port groups that have used their stage-1 slot in that cycle. -/
  slotUsed : List Nat := []
  deriving DecidableEq, Repr

/-- A learn or move request queued at its home: key, ingress sheaf and port (R82). -/
structure LearnReq where
  key : W64
  sheaf : Nat
  move : Bool
  port : Nat
  /-- When it reached the update engine (R73). -/
  since : Nat
  deriving DecidableEq, Repr

/-- The table side of one quadrant. -/
structure TableSt where
  /-- Learn and move requests queued at this home (R82). -/
  queue : List LearnReq := []
  /-- Refresh messages received (R81). -/
  refresh : List W64 := []
  sweepPos : Nat := 0
  /-- A sweep period in force for the present pass. -/
  sweepMs : Nat := 10000
  failures : Nat := 0
  lastRehashEv : Option Nat := none
  /-- The rehash walk: next bucket, seeds outgoing, moved, written, counted, command (R77). -/
  rehash : Option (Nat × W16 × W16) := none
  rehashMoved : Nat := 0
  rehashWritten : Nat := 0
  rehashCounted : Nat := 0
  rehashCmd : Option CmdRef := none
  /-- The seed set number (SEEDSEL) of the active set. -/
  seedSel : Bool := false
  /-- The CLK_CORE cycle of the last change, and the keys changed in it with the rank of R73 of what changed them. -/
  changedAt : Nat := 0
  changed : List (W64 × Nat) := []
  /-- The CLK_CORE cycle of the last refresh, and the keys refreshed in it with HIT as it stood before (R84). -/
  refreshedAt : Nat := 0
  refreshed : List (W64 × Bool) := []
  /-- Short frames looked up in the CLK_CORE cycle shown (R15). -/
  shortAt : Nat := 0
  short : Nat := 0
  deriving DecidableEq, Repr

/-- What a home sends to another quadrant on their ordered channel (R71, R81). -/
inductive TblMsg where
  | reply (key : W64) (entry : Option (BitVec 128))
  /-- The host command whose completion awaits it, if one does (R72). -/
  | invalidate (key : W64) (cmd : Option CmdRef)
  deriving DecidableEq, Repr

/-- A frame waiting for a remote-cache reply (R70). -/
structure LookupWait where
  quad : Quad
  key : W64
  ctx : FrameCtx
  stale : Bool := false
  deriving DecidableEq, Repr

/-- A remote-cache line (R69, R81). -/
structure CacheLine where
  entry : BitVec 128
  refreshed : Bool := false
  deriving DecidableEq, Repr

/-- A host record of a TABLE_LOAD waiting at its home (R87). -/
structure HostRec where
  entry : BitVec 128
  /-- Address of the record in host memory. -/
  addr : Nat
  cmd : CmdRef
  /-- When it reached the update engine (R73). -/
  since : Nat
  deriving DecidableEq, Repr

/-- What an ENDPOINT_FENCE has changed at its home: the key, and FENCED and STATIC of its entry as they stood, none where it had
no entry. A command that ends FW_RESTARTED has applied none of its change (R331). -/
structure FenceUndo where
  home : Nat
  key : W64
  was : Option (Bool × Bool)
  deriving DecidableEq, Repr

/-- A sheaf (R90). -/
structure Sheaf where
  trunk : Bool
  minWidth : Nat
  ports : List Nat
  deriving DecidableEq, Repr

/-- A multicast group record (R125). KIND 1 row, 2 column, 3 flood. -/
structure GroupRec where
  kind : Nat
  jobAny : Bool
  base : W32
  mask : W64
  job : W16
  vid : Nat
  sheaves : List Nat
  deriving DecidableEq, Repr

/-- An element slot (R191): ten segments, nine pending carries, the count and the special flags. -/
structure Elem where
  segs : List W32 := [0, 0, 0, 0, 0, 0, 0, 0, 0, 0]
  /-- CARRY1 to CARRY9. -/
  carry : List Int := [0, 0, 0, 0, 0, 0, 0, 0, 0]
  count : Nat := 0
  nan : Bool := false
  pinf : Bool := false
  ninf : Bool := false
  /-- Infinite contributions counted (R195). -/
  infs : Nat := 0
  /-- A finite value has reached the element (R201, R202). -/
  fin : Bool := false
  deriving DecidableEq, Repr

/-- A contributor entry (R157). -/
structure Contrib where
  eid : W32
  statusWin : W64
  statusAddr : W64
  offset : Nat
  count : Nat
  deriving DecidableEq, Repr

/-- A receiver-line entry (R157). -/
structure Line where
  kind : Nat
  base : W32
  mask : W64
  resultWin : W64
  resultAddr : W64
  statusWin : W64
  statusAddr : W64
  deriving DecidableEq, Repr

/-- The ring table (R157). -/
structure RingTab where
  h : Nat
  p : Nat
  pred : W32
  succ : W32
  deriving DecidableEq, Repr

/-- A Kiln program's header and held blocks (R221). Banks of send and receive passes are as the instructions name them. -/
structure KilnProg where
  heldFmt : Nat
  codedFmt : Nat
  lanes : Nat
  stochastic : Bool
  preshift : Int
  passes : Nat
  arrays : List Nat
  held : List (List W16)
  sendBanks : List Nat
  deriving DecidableEq, Repr

/-- A plan image as loaded (R157). -/
structure Image where
  bytes : Nat := 0
  uid : W32 := 0
  job : W16 := 0
  kind : Nat := 0
  op : Nat := 0
  inFmt : Nat := 0
  outFmt : Nat := 0
  levels : Nat := 1
  ringForm : Nat := 0
  chunkElems : Nat := 64
  countPhase : Bool := false
  hostEvent : Bool := false
  stageResults : Bool := false
  wait : Bool := false
  entryQ : Nat := 0
  resultTc : Nat := 0
  ctxDepth : Nat := 1
  pipeDepth : Nat := 1
  qw : List Nat := []
  seed : W32 := 0
  elems : List Nat := []
  slices : List Nat := []
  stageMib : List Nat := []
  timeoutUs : Nat := 1
  retryUs : Nat := 1
  tries : Nat := 1
  substMs : Nat := 1
  key : W32 := 0
  extent : Nat := 1
  rangeElems : Nat := 0
  contribs : List Contrib := []
  lines : List Line := []
  ring : Option RingTab := none
  kiln : Option KilnProg := none
  deriving DecidableEq, Repr

/-- Instance outcomes (R181). -/
inductive Outcome | done | doneLost | incomplete | aborted
  deriving DecidableEq, Repr

/-- Context states (R167). A FREE instance has no record. -/
inductive CtxState | counting | running | waiting | ended
  deriving DecidableEq, Repr

/-- The progress of one contributor's message of a chunk (R163, R165). -/
structure MsgSt where
  idx : Nat
  /-- Header of the frame that the ACK answers: the last with LAST, else the first taken. -/
  hdr : List Byte
  /-- Ingress port, where the frames came by one. -/
  port : Option Nat := none
  taken : List Nat := []
  /-- The SEQ of each part taken. -/
  seqs : List W32 := []
  added : List Nat := []
  lastSeq : Option W32 := none
  maxSeq : W32 := 0
  violated : Bool := false
  ecn : Bool := false
  acked : Bool := false
  deriving DecidableEq, Repr

/-- What is known of one receiver of a chunk's result (R173, R177). -/
structure RecvSt where
  idx : Nat
  acked : Bool := false
  lost : Bool := false
  sends : Nat := 0
  sentAt : Nat := 0
  /-- The SEQ with LAST of each send. -/
  seqs : List W32 := []
  /-- The SEQ of every frame of the latest send that no NACK has answered (R177). -/
  frames : List W32 := []
  /-- The endpoint of its last unicast send, and the SEQ of every frame of that, which a further send to it uses again (R39). -/
  uniTo : Nat := 0
  uni : List W32 := []
  deriving DecidableEq, Repr

/-- An open chunk (R171). -/
structure Chunk where
  c : Nat
  quad : Nat
  tun : Nat
  elems : List Elem
  msgs : List MsgSt := []
  /-- The ring partial as received: parts taken and added. -/
  ringMsg : Option MsgSt := none
  /-- The ring result as received. -/
  resMsg : Option MsgSt := none
  /-- The partial was sent to the successor. -/
  ringSent : Bool := false
  /-- Result bytes once rounded or received (by result part). -/
  result : Option (List Byte) := none
  resParts : List (Nat × List Byte) := []
  /-- Tiles of the ring partial whose Kiln outputs have been added. -/
  tilesDone : List Nat := []
  staged : Bool := false
  recvs : List RecvSt := []
  complete : Bool := false
  deriving DecidableEq, Repr

/-- An instance in flight (R166, R167). -/
structure Inst where
  n : Nat
  state : CtxState
  before : CtxState
  extent : Nat
  counts : List (Option Nat) := []
  ringBase : Option Nat := none
  grand : Option Nat := none
  openNs : W64
  endNs : W64 := 0
  timer : Nat
  /-- Contributors owed when it went WAITING, and whether the ring was (R167). -/
  owed : List Nat := []
  owedRing : Bool := false
  /-- Count phase: the base was sent on, the grand total was sent on, the counts were answered. -/
  baseSent : Bool := false
  grandSent : Bool := false
  chunks : List Chunk := []
  /-- Chunks completed. -/
  done : List Nat := []
  lost : List Nat := []
  missing : List Nat := []
  heard : List Nat := []
  substituted : Bool := false
  /-- An index was rebound for the instance since it opened. -/
  rebound : Bool := false
  ringMissing : Bool := false
  countOver : Bool := false
  hostAbort : Bool := false
  /-- A word of its context is poisoned (R364, R366). -/
  poisoned : Bool := false
  arith : BitVec 32 := 0
  outcome : Option Outcome := none
  deriving DecidableEq, Repr

/-- A result copied into the plan's Cask staging (R173). -/
structure StagedRes where
  quad : Nat
  n : Nat
  c : Nat
  bytes : List Byte
  deriving DecidableEq, Repr

/-- A message that a Mash service sent on the ring or as a status write and that nothing has answered (R37): the quadrant that
sent it, its destination, whether it is a status write and has been counted as failed, the SEQ with LAST and all its SEQs. -/
structure OpenReq where
  quad : Nat
  dst : Nat
  status : Bool
  failed : Bool := false
  last : W32
  frames : List W32
  deriving DecidableEq, Repr

/-- An identity bound from an instance on (R179). -/
structure Rebind where
  receiver : Bool
  idx : Nat
  /-- The boundary instance; none once it lies behind BASE. -/
  n : Option Nat
  eid : W32
  deriving DecidableEq, Repr

/-- A loaded plan (R161). -/
structure Plan where
  slot : Nat
  img : Image
  qtab : List Quad
  base : Nat := 0
  insts : List Inst := []
  rebinds : List Rebind := []
  outBuf : Nat
  outLen : Nat
  /-- Unloading: abort mode, the command, instances ended ABORTED (R183). -/
  unload : Option (Bool × CmdRef) := none
  /-- Instances that the unload has aborted (check 1 of R164). -/
  cut : List Nat := []
  aborted : Nat := 0
  /-- Staging bytes in use per quadrant. -/
  staged : List Nat := [0, 0, 0, 0]
  /-- The results that staging holds (R173). -/
  staging : List StagedRes := []
  /-- Ring messages and status writes not yet answered (R37). -/
  opens : List OpenReq := []
  deriving DecidableEq, Repr

/-- A queued plan load (R160). -/
structure QueuedLoad where
  slot : Nat
  img : Image
  outBuf : Nat
  outLen : Nat
  cmd : CmdRef
  deriving DecidableEq, Repr

/-- Work queued on a tun (R162): the part of a contribution or ring partial and where it belongs. -/
structure Work where
  slot : Nat
  n : Nat
  c : Nat
  ring : Bool
  idx : Nat
  part : Nat
  payload : List Byte
  ctx : FrameCtx
  deriving DecidableEq, Repr

/-- A tun: its queue and its deficits per plan (R162). -/
structure TunSt where
  queue : List Work := []
  deficit : List (Nat × Nat) := []
  deriving DecidableEq, Repr

/-- A Kiln tile (R220). Elements are BF16 words on the send side, coded bytes' element values on the receive side. -/
structure Tile where
  slot : Nat
  n : Nat
  c : Nat
  t : Nat
  /-- First group of the tile and number of groups. -/
  group : Nat
  groups : Nat
  pass : Nat
  data : List W32
  /-- The vectors of the first pass, while the tile is in its second: a tile whose array is retired starts anew from them. -/
  first : List W32 := []
  deriving DecidableEq, Repr

/-- Array states (KLN_ARR STATE). -/
inductive ArrState | free | reserved | underTest | retired
  deriving DecidableEq, Repr

/-- A Kiln array (R217, R235 to R238). -/
structure ArraySt where
  state : ArrState := .underTest
  spareUsed : Bool := false
  spareRow : BitVec 4 := 0
  skew : BitVec 2 := 0
  fused : Bool := false
  passed : Bool := false
  stream : Nat := 0
  duty : Nat := 0
  raising : Bool := false
  lowering : Bool := false
  banks : List (List W16) := []
  /-- Input tiles in the operand buffer (R220, R230). -/
  opbuf : List (Nat × Tile) := []
  /-- Outputs of the reads of bank 3 by its last in-service test that ran to its end (R237). -/
  katOut : List (List Nat) := []
  /-- Tiles issued whose outputs are not yet written, with their numbers. -/
  issued : List (Nat × Tile) := []
  /-- Intermediate tiles in the operand buffer that wait for their second pass. -/
  mid : List (Nat × Tile) := []
  testing : Bool := false
  forced : Bool := false
  /-- Time of the last passing test. -/
  passAt : Nat := 0
  passNs : W64 := 0
  lastTest : Option Nat := none
  deriving DecidableEq, Repr

/-- A received ring part of a Kiln leg: its frame, instance and chunk, the coded index of its first element, its values. -/
structure KPart where
  ctx : FrameCtx
  n : Nat
  c : Nat
  start : Nat
  len : Nat
  vals : List W32
  deriving DecidableEq, Repr

/-- A Kiln stream (R226 to R229). -/
structure KStream where
  slot : Nat
  recv : Bool
  arrays : List Nat
  /-- Tiles that wait, in order of entry, with their number. -/
  tiles : List (Nat × Tile) := []
  entered : Nat := 0
  /-- Coded outputs or received coded parts by (instance, chunk): element index and value. -/
  coded : List (Nat × Nat × Nat × W32) := []
  /-- Ring parts already sent: (instance, chunk, part). -/
  sent : List (Nat × Nat × Nat) := []
  /-- Bytes of the stream buffer taken, with the space kept for coded outputs (R220, R230). -/
  used : Nat := 0
  /-- Tiles of partials that Mash still keeps in their chunks' slots for want of room (R229). -/
  feed : List Tile := []
  /-- Ring parts for which the buffer has no room: their frames keep their ingress share, so credits are withheld (R229). -/
  waiting : List KPart := []
  deriving DecidableEq, Repr

/-- Laser states (OE_LSR STATE). -/
inductive LsrState | off | lit | warned | handing | replaced | retired | spareIdle | spareActive
  deriving DecidableEq, Repr

/-- A laser (R256, R257). (DEDUCED, log 63, safe) -/
structure Laser where
  state : LsrState := .off
  channel : BitVec 4 := 0
  commissioned : Bool := false
  /-- Its reference level: 0 dB of LEVEL_CDB, absolute in 0.01 dB; none before a first lock (R256). -/
  ref : Option Int := none
  /-- The level last measured, in 0.01 dB (R255, R262). -/
  meas : Int := 0
  /-- A retired laser that still lights its channel until the widths of its engine's ports have changed (R258). -/
  lingers : Bool := false
  fails : Nat := 0
  deriving DecidableEq, Repr

/-- Ring lock states (R254). -/
inductive RingLock | dark | sweep | identify | step | locked | retired
  deriving DecidableEq, Repr

/-- A micro-ring (R254). -/
structure MicroRing where
  state : RingLock := .dark
  steps : Nat := 0
  tones : BitVec 16 := 0
  deriving DecidableEq, Repr

/-- A hand-over in progress (R259): the faded laser, the spare, the step and the fade count. -/
structure Handover where
  laser : Nat
  spare : Nat
  step : Nat
  fade : Nat := 0
  tries : Nat := 0
  deriving DecidableEq, Repr

/-- An optical engine (R257, R270). -/
structure EngineSt where
  handover : Option Handover := none
  /-- Warned lasers that wait, in the order of their warnings. -/
  warned : List Nat := []
  trip : Bool := false
  txOn : Bool := false
  nvLost : Bool := false
  deriving DecidableEq, Repr

/-- A plan-bound map of a mesh group (R268): plan slot, instance, the map, and the map it replaced once it is applied. -/
structure BoundMap where
  slot : Nat
  n : Nat
  map : BitVec 24
  prev : Option (BitVec 24) := none
  deriving DecidableEq, Repr

/-- A racking-mesh group (R265 to R268, R263). -/
structure MeshSt where
  map : BitVec 24 := 0xFAC688
  settled : Bool := true
  /-- A change that settles: the previous map and the command that waits. -/
  prev : Option (BitVec 24 × Option CmdRef) := none
  /-- Plan-bound maps, in the order of their commands. -/
  bound : List BoundMap := []
  /-- The applied plan-bound maps that a settling MESH_SET has replaced: they come back where its check fails (R267). -/
  kept : List BoundMap := []
  recal : Option CmdRef := none
  due : BitVec 3 := 0
  inReset : Bool := false
  deriving DecidableEq, Repr

/-- A message from one quadrant to another (R278). -/
inductive XMsg where
  /-- A lookup asks the home for a key (R70). -/
  | request (key : W64)
  /-- A reply or an invalidate of a home (R71). -/
  | table (m : TblMsg)
  /-- A learn or move request, and a refresh, for a home (R81, R82). -/
  | learn (r : LearnReq)
  | refresh (key : W64)
  /-- The sweeper of a home re-arms the cached copies of a key (R81). -/
  | rearm (key : W64)
  /-- The transit holds that the sending quadrant has raised (R109). -/
  | hold (h : BitVec 4)
  /-- Cells released at the outputs of the sending quadrant, by stream (R113). -/
  | progress (l : List (StreamId × Nat))
  /-- A weight table or a change of an active list, which every quadrant applies in one cycle (R91, R130). -/
  | notice
  deriving DecidableEq, Repr

/-- What a flit carries (R275): a cell; a message flit with its MSEQ and its messages; a retry request with the bundle and the
slot it names. -/
inductive FlitBody where
  | cell (c : Cell)
  | message (mseq : W16) (ms : List XMsg)
  | retry (bundle : Nat) (slot : Nat)
  deriving DecidableEq, Repr

/-- A flit on its way over a bundle, or kept for replay (R275, R279): its slot number, when its slot starts, what it carries. -/
structure FlitSt where
  slot : Nat
  sentAt : Nat
  replay : Bool
  body : FlitBody
  deriving DecidableEq, Repr

/-- A bundle direction x to y (R281 to R290). -/
structure BundleSt where
  /-- 0 retired, 1 half, 2 full, 3 in training (R281). -/
  width : Nat := 3
  work : BitVec 34 := 0
  checked : Bool := false
  fused : Bool := false
  tries : BitVec 2 := 0
  quiesced : Bool := false
  /-- When its training ended: slots are numbered from there. -/
  trainedAt : Nat := 0
  /-- Slots started up to the cycle `slotFrom`, from which they are counted at the present width (R274). -/
  slotBase : Nat := 0
  slotFrom : Nat := 0
  /-- Replayed flits hold every slot that starts before this cycle (R279). -/
  busyUntil : Nat := 0
  /-- The vector of the die that kept running through a reset of the other (R289). -/
  inService : Option (BitVec 34) := none
  flight : List FlitSt := []
  kept : List FlitSt := []
  /-- The receiver waits for a replay from this slot; when the last request was sent. -/
  await : Option (Nat × Nat) := none
  /-- Cell flits discarded while it waits. -/
  lostSlots : Nat := 0
  /-- Retry requests sent, and quiet points, saturating. -/
  replays : Nat := 0
  quiets : Nat := 0
  /-- Failed flits of the present millisecond. -/
  fails : Nat := 0
  /-- In a quiet point; since when a quiet point waits for another of the direction. -/
  quiet : Bool := false
  quietWait : Option Nat := none
  /-- Consecutive quiet points that found no bad wire, and when the last one ended (R287). -/
  noBad : Nat := 0
  lastQuiet : Nat := 0
  /-- Wires found failing in service. -/
  badWires : BitVec 34 := 0
  inReset : Bool := false
  deriving DecidableEq, Repr

/-- A direction x to y: message numbering at the receiver (R278, R280), and what the sender has to send. -/
structure DirSt where
  /-- MSEQ of the next message flit the sender starts, the messages that wait for one, when it last started one. -/
  mseqNext : W16 := 0
  outMsgs : List XMsg := []
  lastMsg : Option Nat := none
  /-- Retry requests that wait for a lane start: bundle of the reverse direction, slot. -/
  outRetry : List (Nat × Nat) := []
  mseqExpect : W16 := 0
  gapAt : Option Nat := none
  /-- Message flits that came ahead of their order. -/
  early : List (W16 × List XMsg) := []
  deriving DecidableEq, Repr

/-- Pitch image states (R385). -/
inductive PitchState | free | opened | sealed | partly
  deriving DecidableEq, Repr

/-- A Pitch image (R378 to R385). -/
structure PitchImg where
  state : PitchState := .free
  id : W32 := 0
  job : W16 := 0
  store : Bool := false
  replicate : Bool := false
  size : Nat := 0
  key : W32 := 0
  srcEid : W32 := 0
  tc : Nat := 0
  rxWin : W64 := 0
  rxAddr : W64 := 0
  lines : List Line := []
  /-- First byte of the image's extent in each quadrant's Pitch region. -/
  ext : List Nat := [0, 0, 0, 0]
  /-- First byte of its bitmap in each repair region. -/
  bitmap : List Nat := [0, 0, 0, 0]
  /-- Chunks present, rising. -/
  present : List Nat := []
  gets : List W32 := [0, 0, 0, 0]
  /-- NACKs of receivers, counted and no more; no counter of the manual shows them (R382). -/
  nacks : Nat := 0
  deriving DecidableEq, Repr

/-- A PUT to Pitch whose ACK waits until every copy is admitted: where it is served, the PUT, the copies' frames (R381).
(DEDUCED, log 67, unsafe) -/
structure PitchAck where
  quad : Nat
  ctx : FrameCtx
  copies : List Nat
  deriving DecidableEq, Repr

/-- A PUT that a Pitch service has judged: its SEQ, LAST, whether its chunk is held, whether its ACK went, where it is served,
its header (R35). -/
structure PitchPut where
  seq : W32
  last : Bool
  held : Bool
  acked : Bool
  quad : Nat
  hdr : List Byte
  deriving DecidableEq, Repr

/-- The messages of PUT frames that an ordering domain sends to Pitch: every SEQ before `next` belongs to a message that is
settled, and the frames known from there on (R35). (DESIGN CHOICE, log 87, unsafe) -/
structure PitchDom where
  dom : Domain
  next : W32
  puts : List PitchPut := []
  deriving DecidableEq, Repr

/-- A pending scheduled launch (R309). -/
structure Launch where
  port : Nat
  t : Nat
  bytes : List Byte
  cmd : CmdRef
  deriving DecidableEq, Repr

/-- A match block (Match blocks, R406). -/
structure MatchBlock where
  points : Byte
  classes : Byte
  priv : Byte
  master : Byte
  job : W16
  jobAny : Bool
  eid : W32
  eidMask : W32
  lo : W64
  hi : W64
  deriving DecidableEq, Repr

/-- A tap rule or filter (R406). -/
structure TapRule where
  portLo : Nat
  portHi : Nat
  en : Bool
  cask : Bool
  blk : MatchBlock
  deriving DecidableEq, Repr

/-- A staged tap record: destination Cask or host ring, ring entries, bytes (R407, R411). -/
structure TapRec where
  cask : Bool
  sample : Bool
  bytes : List Byte
  deriving DecidableEq, Repr

/-- The tap (R406 to R412). -/
structure TapSt where
  /-- Records of the tap regions that are poisoned, by quadrant and number (R365). -/
  badCask : List (Nat × Nat) := []
  rules : SMap TapRule := []
  filters : SMap TapRule := []
  pendRules : SMap TapRule := []
  pendFilters : SMap TapRule := []
  running : Bool := false
  caskStop : Bool := false
  staged : List (Quad × TapRec) := []
  stopCmd : List CmdRef := []
  rseqHost : W32 := 0
  rseqCask : List W32 := [0, 0, 0, 0]
  /-- WRITE_INDEX of each quadrant's region: survives a core reset (R409). -/
  writeIdx : List W64 := [0, 0, 0, 0]
  mode : BitVec 2 := 1
  sampleEn : Bool := false
  sampleCnt : List Nat := [0, 0, 0, 0]
  deriving DecidableEq, Repr

/-- A firmware bank of the non-volatile store (R413), by what the ROM's verification reads of it. -/
structure FwBank where
  valid : Bool := false
  version : W32 := 0
  svn : Nat := 0
  slot : BitVec 1 := 0
  hash : List Byte := []
  deriving DecidableEq, Repr

/-- Fuses (R420, R423). -/
structure Fuses where
  svn : Nat := 0
  revoked : BitVec 2 := 0
  /-- One bit per state beyond MANUFACTURE. -/
  lc : BitVec 4 := 0
  ownerHash : List Byte := []
  /-- The test access controller in the cellar is closed, and the serial path of each quadrant (R292). -/
  chainClosed : Bool := false
  pathClosed : BitVec 4 := 0
  /-- Bad wires of each bundle direction, (4x + y) × 64 + b, in the receiving quadrant's fuses, and whether they have been
  written (R282). -/
  badWires : SMap (BitVec 34) := []
  wiresWritten : Bool := false
  /-- The row that the spare of an array takes, if any, and its trim, by 256q + a, and whether they have been written (R236). -/
  arrays : SMap (Option (BitVec 4) × BitVec 2) := []
  arraysWritten : Bool := false
  secretBlown : Bool := false
  deriving DecidableEq, Repr

/-- The security engine (R413 to R427). -/
structure SecSt where
  fuses : Fuses := {}
  bankA : FwBank := { valid := true }
  bankB : FwBank := {}
  /-- The identity key, which the first start of MANUFACTURE makes, and the certificate that the test access chain writes (R421). -/
  idKey : Bool := false
  hasCert : Bool := false
  lcState : BitVec 3 := 0
  bootBank : BitVec 1 := 0
  /-- The bank that was booted last. -/
  runBank : BitVec 1 := 0
  nextBank : Option (BitVec 1) := none
  fallback : Bool := false
  bootFail : Bool := false
  stagedValid : Bool := false
  running : FwBank := {}
  trial : Bool := false
  recovered : Bool := false
  nonce : W64 := 0
  /-- LC_NONCE has been drawn in this release (R424). -/
  nonceDrawn : Bool := false
  recovErr : W16 := 0xFFFF
  staging : Option (FwBank × CmdRef) := none
  activating : Bool := false
  reportSeq : W32 := 0
  wdRestarts : List Nat := []
  fuseSvnShown : Nat := 0
  revokedShown : BitVec 2 := 0
  ownerShown : Bool := false
  deriving DecidableEq, Repr

/-- The PMBus side of the monitors: readings and status bits that a system reset keeps (R344, R447). -/
structure PmSt where
  /-- The 7-bit bus address, sampled at the release of the power-on reach (R447). -/
  addr : BitVec 7 := 0
  vinA : W16 := 0
  vinB : W16 := 0
  iinA : W16 := 0
  iinB : W16 := 0
  pinW : W16 := 0
  temps : SMap (BitVec 12) := []
  cml : Bool := false
  /-- Bit 0 over-temperature warning, bit 1 fault. -/
  tempBits : BitVec 2 := 0
  /-- Bit 0 under-voltage, bit 1 over-voltage, bit 2 any input fault. -/
  inputBits : BitVec 3 := 0
  deriving DecidableEq, Repr

/-- Power and cooling (R435 to R448). -/
structure PwrSt where
  state : BitVec 2 := 0
  transition : Option (BitVec 2 × CmdRef) := none
  trip : Bool := false
  tripSensor : BitVec 6 := 0
  warn : Bool := false
  inputFault : Bool := false
  imbal : Bool := false
  /-- Bit 0 under-voltage, bit 1 over-voltage. -/
  inputKind : BitVec 2 := 0
  vinA : W16 := 0
  vinB : W16 := 0
  iinA : W16 := 0
  iinB : W16 := 0
  pinW : W16 := 0
  peakW : W16 := 0
  /-- Latest sample of each sensor; bit 12 says that there has been one. -/
  temps : SMap (BitVec 13) := []
  /-- Consecutive samples at or above trip, per sensor. -/
  hot : SMap Nat := []
  cellarTrip : Bool := false
  /-- The latch that drives THERMTRIP_N low, powered while the input is present (R431). -/
  tripLatch : Bool := false
  pm : PmSt := {}
  deriving DecidableEq, Repr

/-- A data frame on a fibre, with what its preamble carries (R244). -/
structure TxFrame where
  port : Nat
  /-- The preamble as sent (R244). -/
  pre : List Byte
  lsn : W16
  replay : Bool
  vc : Nat
  cells : Nat
  /-- DA to the last byte before FCS. -/
  bytes : List Byte
  /-- False: ended with the correct FCS inverted (R29). -/
  fcsOk : Bool
  deriving DecidableEq, Repr

/-- What leaves the block: frames sent, messages sent, bytes written to host memory, the last reply.
(DESIGN CHOICE, log 80, safe) -/
structure OutSt where
  /-- Frames on the fibres, newest first. -/
  tx : List TxFrame := []
  /-- Link control frames, newest first: port, preamble, DA to the last byte before FCS. -/
  ctl : List (Nat × List Byte × List Byte) := []
  /-- MSI-X messages sent, newest first: vector, and the address and data of its table entry. -/
  msi : List (BitVec 6 × W64 × W32) := []
  /-- Bytes the device has written to host memory. -/
  hostMem : List Host.Cell := []
  reply : Reply := .none
  /-- What the test access port's selected register shifts out at TDO: none while BYPASS is selected (R292). -/
  testOut : Option W32 := none
  deriving DecidableEq, Repr

/-- The levels of input pins: the interlock as recognised by the filter (R357), and TRST_N of the test access port (R291).
(DESIGN CHOICE, log 81, safe) -/
structure PinSt where
  laserEn : Bool := false
  /-- High: the port is wired to a test controller that has released it. -/
  trstN : Bool := true
  deriving DecidableEq, Repr

/-- A word of a protected memory, as an error record names it (R362, R369): a packet-buffer or tap-staging word, a word of
Mash by its kind with plan slot, instance and chunk, of a Kiln array with its stream, the plan slot, instance and chunk of its tile
and the time of the array's previous passing test, or of the Cask. (DESIGN CHOICE, log 30, unsafe) -/
inductive MemWord where
  | packet (word : W32)
  | tapStaging (word : W32)
  | mash (kind : Nat) (slot n c : Nat)
  | kiln (kind : Nat) (array : Nat) (stream : Nat) (slot n c : Nat) (ns : W64)
  | cask (channel : BitVec 4) (region : Nat) (address : W64)
  deriving DecidableEq, Repr

/-- What comes to the device and no row of the table tells of: a bit error as the read meets it (R362 to R367), and the level of
TRST_N. (DESIGN CHOICE, log 30, unsafe) -/
inductive Strike where
  /-- Corrected: quadrant, memory instance, word (R363). -/
  | corrected (q : Quad) (k : BitVec 6) (m : MemWord)
  /-- A packet-buffer word of a frame in an output queue: port, queue, frame (R364). -/
  | queued (p : Port) (n : BitVec 3) (fid : Nat) (word : W32)
  /-- A packet-buffer word of a frame that waits at its ingress, in a fence slot, at a replicator or at a service: quadrant, frame,
  bytes from the word to the frame's end (R364). -/
  | frame (q : Quad) (fid back : Nat) (word : W32)
  /-- A packet-buffer or transit word of a cell: quadrant, stream, number (R364). -/
  | cell (q : Quad) (st : StreamId) (cseq : BitVec 14) (word : W32)
  /-- Bits of a cell's tag inside a quadrant (R103, R114). -/
  | tag (st : StreamId) (cseq : BitVec 14) (flip : W64)
  /-- A scoreboard record (R365). -/
  | record (q : Quad) (d : Domain) (word : W32)
  /-- A launch slot, by the port and the time it names (R365). -/
  | launch (p : Port) (t : Nat) (word : W32)
  /-- A port's link replay buffer (R365). -/
  | replay (p : Port) (word : W32)
  /-- The oldest staged tap record of a quadrant (R365). -/
  | tapRecord (q : Quad) (word : W32)
  /-- A record of the tap region of a quadrant's Cask, by its number (R365). -/
  | tapCask (q : Quad) (k : Nat) (channel : BitVec 4) (address : W64)
  /-- A word of the bitmap that a quadrant's repair region holds of an image: quadrant, slot, word of 64 chunks (R365). -/
  | repair (q : Quad) (k : Fin 16) (w : Nat) (channel : BitVec 4)
  /-- A bit of a home entry or of a cached copy, by its place in the store (R64, R85). -/
  | home (key : Nat) (b : BitVec 7)
  | cached (key : Nat) (b : BitVec 7)
  /-- An element slot of a chunk, a context, or a staged result (R366). -/
  | element (slot n c : Nat)
  | context (slot n : Nat)
  | staged (slot n c : Nat)
  /-- The plan-store copies of a slot in the quadrants whose bits are set (R366). -/
  | planStore (slot : Nat) (copies : BitVec 4)
  /-- A held bank of an array, with the outcome of the start test that follows (R367). -/
  | heldBank (q : Quad) (a : BitVec 8) (retest : StartTest)
  /-- An operand or output buffer of an array, or the stream buffer of its stream: the tile or part of an instance's chunk (R367). -/
  | kilnBuffer (q : Quad) (a : BitVec 8) (slot n c : Nat)
  /-- No bit error: the level of the pin TRST_N changes (R291, R292). -/
  | trst (high : Bool)
  deriving DecidableEq, Repr

/-- The state of the block. (DESIGN CHOICE, log 5, safe; DESIGN CHOICE, log 6, unsafe) -/
structure State where
  /-- The commands that wait, first in, first out (the model's own). -/
  pending : List Instr := []
  /-- The model's count of free values drawn (Config.free). -/
  freeCtr : Nat := 0
  /-- Stored register words by BAR0 address; a word not listed reads as its reset value. -/
  regs : SMap W32 := []
  /-- Shadows of 64-bit registers by the low half's address (R8). -/
  shadow : SMap W32 := []
  /-- Staged low halves of 64-bit registers by the low half's address (R8). -/
  stage64 : SMap W32 := []
  /-- Staged shaper and policer words by address (R145). -/
  stageTm : SMap W32 := []
  /-- TIME_FRAC registers latched by a low-half read, by address (R312). -/
  fracLatch : SMap W32 := []
  /-- BAR4 shadows by page (R403). -/
  pageShadow : SMap W32 := []
  ctrs : SMap Ctr := []
  rst : RstSt := {}
  clk : ClkSt := {}
  pins : PinSt := {}
  time : TimeSt := {}
  hif : HifSt := {}
  rings : SMap RingSt := []
  err : ErrSt := {}
  ports : SMap PortSt := []
  queues : SMap QueueSt := []
  pols : SMap PolSt := []
  tmShapeEn : List Bool := [true, true, true, true]
  tmPolEn : List Bool := [true, true, true, true]
  /-- SHAPE_EN and POL_EN as written and not yet in force, by quadrant, with FREE at the write (R145, R147). -/
  tmPend : SMap (List (Bool × Bool × Nat)) := []
  /-- FREE at which each quadrant's shapers started (NET is never earlier). -/
  netBase : List Nat := [0, 0, 0, 0]
  sampleStart : List Nat := [0, 0, 0, 0]
  sampleWin : List Nat := [1000, 1000, 1000, 1000]
  bwStart : Nat := 0
  bwWin : Nat := 1000
  /-- Home store: key (q × 2^21 + bucket) × 4 + way. -/
  home : SMap (BitVec 128) := []
  /-- Remote caches: key (q × 2^18 + set) × 4 + way. -/
  cache : SMap CacheLine := []
  /-- Way last filled, by q × 2^18 + set. -/
  cacheFill : SMap Nat := []
  tables : SMap TableSt := []
  /-- Ordered channel from home h to quadrant q, by 4h + q. -/
  chan : SMap (List TblMsg) := []
  lookups : List LookupWait := []
  hostRecs : List HostRec := []
  /-- TABLE_LOAD result counts in progress: command, records left, LRES 1 to 5 counts. -/
  loads : List (CmdRef × Nat × List Nat) := []
  /-- Table commands that have applied and await the invalidates of R72: command, result, and what a fence has changed (R331). -/
  tblWait : List (CmdRef × List Byte × Option FenceUndo) := []
  sheaves : SMap Sheaf := []
  groups : SMap GroupRec := []
  doms : List DomRec := []
  held : List Held := []
  nextFid : Nat := 0
  /-- Frames waiting for admission: port p, VC v at 8p + v; services of q at 8192 + 8q + v. -/
  waiting : SMap (List Waiting) := []
  flying : SMap Flying := []
  /-- Streams at their source, by stream key. -/
  streams : SMap StreamSt := []
  /-- Streams at their destination, by stream key. -/
  reseq : SMap ReseqSt := []
  /-- Stage-1 queues (q × 64 + g) × 4 + y, stage-2 queues 4x + y. -/
  s1 : SMap (List Cell) := []
  s2 : SMap (List Cell) := []
  /-- Cells group g has sent (R106), by 64q + g. -/
  s1count : SMap Nat := []
  /-- Stage-2 cells that have arrived and are not yet written to a lane: cycle, the quadrant they came from, the cell (R110). -/
  arriving : List (Nat × Nat × Cell) := []
  /-- Arrival lanes ((q × 64 + lane) × 64 + g) and arrivals counted per 64q + g (R110). -/
  lanesIn : SMap (List Cell) := []
  arrivals : SMap Nat := []
  floors : SMap FloorSt := []
  plans : SMap Plan := []
  loadQ : List QueuedLoad := []
  /-- Frames handed to the Mash service of each quadrant. -/
  mashIn : SMap (List FrameCtx) := []
  /-- ACK and NACK frames handed to the Mash service of each quadrant. -/
  respIn : SMap (List FrameCtx) := []
  /-- Frames handed to the Pitch service of each quadrant. -/
  pitchIn : SMap (List FrameCtx) := []
  /-- Next SEQ of each ordering domain the services send in. -/
  svcSeq : List (Domain × W32) := []
  tuns : SMap TunSt := []
  arrays : SMap ArraySt := []
  kstreams : SMap KStream := []
  lasers : SMap Laser := []
  rings1 : SMap MicroRing := []
  engines : SMap EngineSt := []
  meshes : SMap MeshSt := []
  bundles : SMap BundleSt := []
  dirs : SMap DirSt := []
  pitch : SMap PitchImg := []
  pitchAcks : List PitchAck := []
  pitchDoms : List PitchDom := []
  /-- The Cask's bytes by q × 2^38 + address; wiped bytes hold 0. -/
  cask : List Host.Cell := []
  /-- Results that the Cask staging regions still hold for a plan that a core reset has wiped (R184). -/
  stageLeft : List StagedRes := []
  expulsions : List Nat := []
  launches : List Launch := []
  tap : TapSt := {}
  /-- A block reset in progress: type, index, command (R353). -/
  blockRst : List (Nat × Nat × CmdRef) := []
  /-- The module's non-volatile optical record: lasers replaced, channels retired, spares active (R261). -/
  nvLasers : SMap Laser := []
  /-- The second copy of that record (R368). -/
  nvSecond : SMap Laser := []
  sec : SecSt := {}
  pwr : PwrSt := {}
  out : OutSt := {}
  /-- Bit errors that the memories will meet, in order: the model's own input, as no row of the table tells of one (R362). -/
  strikes : List Strike := []
  deriving DecidableEq, Repr

/-- The machine right after reset: power is applied and the power-on reach is asserted through POR_SUPPLY (R344); every
register stands at its Reset column, and every value the manual does not state at the value the log names.
(DESIGN CHOICE, log 3, safe; DESIGN CHOICE, log 6, unsafe) -/
def State.reset : State := {}

/-- Why the machine stops with a fault: for no reason. Nothing raises one, and no command stops the block. Safe. -/
inductive Fault
  deriving DecidableEq, Repr

/-- Why a command has no meaning. -/
inductive Refusal where
  /-- Raised by a command that has no meaning yet. Safe. -/
  | notModelled (mnemonic : String)
  deriving DecidableEq, Repr

end Sys2Proof.Machine
end

