-- ==== Sys2Proof/Machine/Bits.lean ====
section
/-! DEFINITION. Sparse tables, bit fields, byte orders and check codes: the small operations every family uses. -/
namespace Sys2Proof.Machine

/-! ### Sparse tables -/

/-- The value at key `k`, or `d` where none is listed. -/
def SMap.get {α : Type} (m : SMap α) (k : Nat) (d : α) : α :=
  match m with
  | [] => d
  | (j, v) :: r => if j = k then v else SMap.get r k d

/-- The value at key `k`, if one is listed. -/
def SMap.find {α : Type} (m : SMap α) (k : Nat) : Option α :=
  match m with
  | [] => none
  | (j, v) :: r => if j = k then some v else SMap.find r k

/-- Removes key `k`. -/
def SMap.erase {α : Type} (m : SMap α) (k : Nat) : SMap α :=
  match m with
  | [] => []
  | (j, v) :: r => if j = k then SMap.erase r k else (j, v) :: SMap.erase r k

/-- Puts `v` at key `k`. -/
def SMap.put {α : Type} (m : SMap α) (k : Nat) (v : α) : SMap α :=
  match m with
  | [] => [(k, v)]
  | (j, w) :: r => if j = k then (k, v) :: r else if k < j then (k, v) :: (j, w) :: r else (j, w) :: SMap.put r k v

/-- Puts `v` at key `k` of a table whose unlisted keys read `d`: the entry goes when the value is `d`. -/
def SMap.set {α : Type} [DecidableEq α] (m : SMap α) (k : Nat) (v d : α) : SMap α :=
  if v = d then SMap.erase m k else SMap.put m k v

/-- Applies `f` to the value at `k`. -/
def SMap.modify {α : Type} [DecidableEq α] (m : SMap α) (k : Nat) (d : α) (f : α → α) : SMap α :=
  SMap.set m k (f (SMap.get m k d)) d

/-- Applies `f` to every listed value; an entry that becomes the default goes. -/
def SMap.mapVals {α : Type} [DecidableEq α] (m : SMap α) (d : α) (f : α → α) : SMap α :=
  m.filterMap fun x => if f x.2 = d then none else some (x.1, f x.2)

/-- Keys strictly rising from `lo` on, and no entry holding the default. -/
def SMap.wfFrom {α : Type} [DecidableEq α] (lo : Nat) (d : α) : SMap α → Bool
  | [] => true
  | (k, v) :: r => decide (lo ≤ k) && !decide (v = d) && SMap.wfFrom (k + 1) d r

/-- The one canonical form of a sparse table: keys strictly rising, no entry equal to what an unlisted key reads as. -/
def SMap.wf {α : Type} [DecidableEq α] (d : α) (m : SMap α) : Bool := SMap.wfFrom 0 d m

/-! ### Byte-addressed memory in canonical form (the device's writes to host memory, and the Cask) -/

/-- Writes bytes from address `a` on; `none` bytes never occur, an unlisted byte is one never written. -/
def putBytes (m : List Host.Cell) (a : Nat) : List Byte → List Host.Cell
  | [] => m
  | b :: r => putBytes (SMap.put m a b) (a + 1) r

/-- The byte at an address of a store whose unlisted bytes read 0 (R359). -/
def byteAt (m : List Host.Cell) (a : Nat) : Byte := SMap.get m a 0

/-- Writes bytes into a store whose unlisted bytes read 0. -/
def setBytes (m : List Host.Cell) (a : Nat) : List Byte → List Host.Cell
  | [] => m
  | b :: r => setBytes (SMap.set m a b 0) (a + 1) r

/-- `n` bytes from address `a` of such a store. -/
def getBytes (m : List Host.Cell) (a : Nat) : Nat → List Byte
  | 0 => []
  | n + 1 => byteAt m a :: getBytes m (a + 1) n

/-! ### Bit fields of natural numbers -/

/-- The field of `w` bits from bit `lo` on. -/
def fld (v lo w : Nat) : Nat := (v >>> lo) % 2 ^ w

/-- One bit. -/
def bit (v i : Nat) : Bool := (v >>> i) % 2 = 1

/-- `v` with the field of `w` bits at `lo` replaced by `x`. -/
def putFld (v lo w x : Nat) : Nat := v - fld v lo w <<< lo + (x % 2 ^ w) <<< lo

/-- 1 for true. -/
def b2n (b : Bool) : Nat := if b then 1 else 0

/-- Two's complement reading of `w` bits. -/
def sgn (v w : Nat) : Int := if v % 2 ^ w < 2 ^ (w - 1) then (v % 2 ^ w : Int) else (v % 2 ^ w : Int) - (2 ^ w : Nat)

/-- The `w`-bit two's complement code of an integer, kept inside its range. -/
def satSgn (x : Int) (w : Nat) : Nat :=
  let hi : Int := (2 ^ (w - 1) : Nat) - 1
  let y := if x > hi then hi else if x < -hi - 1 then -hi - 1 else x
  (y % (2 ^ w : Nat)).toNat

/-- The number of ones among the low `n` bits. -/
def popcount (v : Nat) : Nat → Nat
  | 0 => 0
  | n + 1 => v % 2 + popcount (v / 2) n

/-- Upper bound of a saturating count. -/
def satTo (m v : Nat) : Nat := min m v

/-- Division rounded up. -/
def cdiv (a b : Nat) : Nat := (a + b - 1) / b

/-! ### Byte orders (R12, R13) -/

/-- The `n` bytes of a number, least significant first. -/
def leBytes : Nat → Nat → List Byte
  | 0, _ => []
  | n + 1, v => BitVec.ofNat 8 v :: leBytes n (v / 256)

/-- The `n` bytes of a number, most significant first. -/
def beBytes (n v : Nat) : List Byte := (leBytes n v).reverse

/-- The number whose bytes are given least significant first. -/
def leNat : List Byte → Nat
  | [] => 0
  | b :: r => b.toNat + 256 * leNat r

/-- The number whose bytes are given most significant first. -/
def beNat (l : List Byte) : Nat := leNat l.reverse

/-- `n` bytes from offset `o` on. -/
def sl (l : List Byte) (o n : Nat) : List Byte := (l.drop o).take n

/-- A little-endian number in a record. -/
def leAt (l : List Byte) (o n : Nat) : Nat := leNat (sl l o n)

/-- A network-order number in a frame. -/
def beAt (l : List Byte) (o n : Nat) : Nat := beNat (sl l o n)

/-- Zeros. -/
def zeros (n : Nat) : List Byte := List.replicate n 0

/-- Pads with zeros to `n` bytes. -/
def padTo (n : Nat) (l : List Byte) : List Byte := l ++ zeros (n - l.length)

/-- Replaces `x.length` bytes at offset `o`. -/
def patch (l : List Byte) (o : Nat) (x : List Byte) : List Byte := l.take o ++ x ++ l.drop (o + x.length)

/-- All bytes from `o` on, `n` of them, are 0. -/
def allZero (l : List Byte) (o n : Nat) : Bool := (sl l o n).all (· = 0)

/-! ### Check codes -/

/-- One bit of the reflected CRC-32C register. -/
def crc32cBit (r : Nat) : Nat := if r % 2 = 1 then (r / 2) ^^^ 0x82F63B78 else r / 2

/-- One byte of CRC-32C. -/
def crc32cByte (r : Nat) (b : Byte) : Nat := Nat.repeat crc32cBit 8 (r ^^^ b.toNat)

/-- CRC-32C of RFC 3720 (R63): initial value all ones, reflected, complemented at the end. -/
def crc32c (l : List Byte) : Nat := l.foldl crc32cByte 0xFFFFFFFF ^^^ 0xFFFFFFFF

/-- The hash H(S, K): CRC-32C over the 16-bit seed, low byte first, and then the input (chapter 3). -/
def hashH (seed : Nat) (k : List Byte) : Nat := crc32c (leBytes 2 seed ++ k)

/-- One bit fed to a CRC of width `w`, most significant bit of the register first. -/
def crcBit (w poly : Nat) (r : Nat) (b : Bool) : Nat :=
  let top := bit r (w - 1) != b
  let sh := (r * 2) % 2 ^ w
  if top then sh ^^^ poly else sh

/-- A CRC of width `w` over bits in the order sent. -/
def crcBits (w poly : Nat) (init : Nat) (bits : List Bool) : Nat := bits.foldl (crcBit w poly) init

/-- The bits of a number, lowest first. -/
def bitsLow : Nat → Nat → List Bool
  | 0, _ => []
  | n + 1, v => (v % 2 = 1) :: bitsLow n (v / 2)

/-- CRC-8, polynomial 0x07, initial value 0xFF, over bytes sent most significant bit first. -/
def crc8 (l : List Byte) : Nat := crcBits 8 0x07 0xFF (l.flatMap fun b => (bitsLow 8 b.toNat).reverse)

/-! ### The preamble of a frame on a fabric port (R244) -/

/-- Its eight bytes: LSN, REPLAY, CTRL, VC and CELLS, with the CRC-8 over bytes 1 to 4. -/
def preamble (lsn : W16) (replay ctrl : Bool) (vc cells : Nat) : List Byte :=
  let body := beBytes 2 lsn.toNat ++ [BitVec.ofNat 8 (b2n replay + 2 * b2n ctrl + 4 * (vc % 8)), BitVec.ofNat 8 (cells % 64)]
  0x55 :: body ++ [BitVec.ofNat 8 (crc8 body), 0x55, 0xD5]

/-! ### Lists -/

/-- Element `i`, or `d`. -/
def nthD {α : Type} (l : List α) (i : Nat) (d : α) : α := l.getD i d

/-- Applies `f` to element `i`. -/
def modNth {α : Type} (l : List α) (i : Nat) (f : α → α) : List α := l.modify i f

/-- Every element differs from every later one. -/
def noDup {α : Type} [DecidableEq α] : List α → Bool
  | [] => true
  | x :: r => !r.contains x && noDup r

/-- Updates the elements that satisfy `p`. -/
def updWhere {α : Type} (l : List α) (p : α → Bool) (f : α → α) : List α := l.map fun x => if p x then f x else x

/-- Inserts a number into a rising list without repeats. -/
def insNat (x : Nat) : List Nat → List Nat
  | [] => [x]
  | y :: r => if x < y then x :: y :: r else if x = y then y :: r else y :: insNat x r

end Sys2Proof.Machine

/-! ### What a received preamble says (R244) -/

namespace Sys2Proof
open Machine

/-- Byte i of a received preamble. -/
def RxFrame.byte (rx : RxFrame) (i : Nat) : Nat := (rx.pre.getD i 0).toNat
/-- The preamble's CRC-8 is right. -/
def RxFrame.preOk (rx : RxFrame) : Bool := crc8 ((rx.pre.drop 1).take 4) = rx.byte 5
/-- LSN: link sequence number. -/
def RxFrame.lsn (rx : RxFrame) : W16 := BitVec.ofNat 16 (256 * rx.byte 1 + rx.byte 2)
/-- REPLAY, and CTRL: a link control frame, outside the LSN sequence. -/
def RxFrame.replay (rx : RxFrame) : Bool := bit (rx.byte 3) 0
def RxFrame.ctrl (rx : RxFrame) : Bool := bit (rx.byte 3) 1
/-- The VC on which the sender charged the frame, and CELLS: the credits it charged. -/
def RxFrame.vc (rx : RxFrame) : BitVec 3 := BitVec.ofNat 3 (rx.byte 3 / 4)
def RxFrame.cells (rx : RxFrame) : BitVec 6 := BitVec.ofNat 6 (rx.byte 4)

end Sys2Proof
end

