-- ==== Sys2Proof/Machine/RegMap.lean ====
section
/-! DEFINITION. The register map of BAR0 (R316, R338): every register word with its address, its indices and the fields a
host write sets, written from the register tables of the manual. RO, W1C and WO fields are not listed: RO and W1C fields are
read from where the state keeps them (RegView.lean), and W1C and WO writes are operations of their own. -/
namespace Sys2Proof.Machine

/-- What locks an RWL field (R9): any armed port of the device, of the fibre, or the port itself. -/
inductive Lock | none | device | fibre | port
  deriving DecidableEq, Repr

/-- A writable field: lowest bit, width, lock (none for RW), reset value and the narrowest reach that restores it (R11). -/
structure RegFld where
  lo : Nat
  width : Nat
  lock : Lock
  rst : Nat
  reach : Reach
  deriving DecidableEq, Repr

/-- The registers of BAR0. A 64-bit register has a last index 0 (low half) or 1 (high half). -/
inductive Reg
  | caskRegion | portEtype | portTcmap | portSvc | portFence | portClass | portLink | portCredit | tblSeeds
  | tblCache | tblBucket | tblLearn | tblSweep | tblFence | tblStatus | tblOcc | tblSb | flrCtrl | flrAge | flrThresh
  | flrPool | flrWeight | flrIng | tmCtrl | tmSample | tmPcfg | tmVcw0 | tmVcw1 | tmGenw | tmQecn | tmQsamp | tmShpA
  | tmShpB | tmPolA | tmPolB | tmPolC | mashStat | mashCtx | mashElem | mashSlice | mashStore | mashStage | mashPlan
  | klnCtrl | klnRamp | klnKat | klnCount | klnFree | klnArr | klnStrm | oeCtrl | oeStat | oeFade | oeDamp | oeLsr
  | oeFib | oeRing | oeMesh | d2dCtrl | d2dLink | d2dBnd | d2dWire | d2dCnt | timeCtrl | timeStat | timeNow
  | timeIncr | timeStep | timeFree | timeSnapNs | timeSnapFree | timeNowfrac | timeSlew | timeSnapFrec | timePpsout
  | timePpsw | timeDomCapNs | timeDomCapFrac | timeDomOffsetNs | timeDomFreqPpb | timeDomCnt | timeLat | hifStat
  | hifRingBase | hifRingWb | hifRingCfg | hifRingMod | hifRingProd | hifRingCons | hifRingStat | identIdcode
  | identSerial | rstCtrl | rstCfg | rstCause | rstErrsrc | rstStat | rstPidle | rstMidle | clkStat | errStat
  | errAck | errCfg | errSwcnt | errHead | hlthCfg | hlthBudget | hlthPort | jobWatchSel | jobWatchInFlight
  | pitchImgImageId | pitchImgState | pitchImgPresentHere | pitchImgGetsServed | cntClear | cntBw | cntPage | tapCtrl
  | tapSample | tapCask | secStat | secFwver | secNonce | secRecovAddr | secRecovLen | secRecovRecovErr | pwrStat
  | pwrVin | pwrIin | pwrPin | pwrWarn | pwrTemp
  deriving DecidableEq, Repr

/-- The first address of a register (R316 and the register tables). -/
def Reg.base : Reg → Nat
  | .caskRegion => 0x170000
  | .portEtype => 0x110000
  | .portTcmap => 0x110004
  | .portSvc => 0x110008
  | .portFence => 0x11000C
  | .portClass => 0x110018
  | .portLink => 0x111000
  | .portCredit => 0x112000
  | .tblSeeds => 0x120000
  | .tblCache => 0x120004
  | .tblBucket => 0x120008
  | .tblLearn => 0x12000C
  | .tblSweep => 0x120010
  | .tblFence => 0x120014
  | .tblStatus => 0x120018
  | .tblOcc => 0x12001C
  | .tblSb => 0x120020
  | .flrCtrl => 0x100000
  | .flrAge => 0x100004
  | .flrThresh => 0x100008
  | .flrPool => 0x10000C
  | .flrWeight => 0x100010
  | .flrIng => 0x101000
  | .tmCtrl => 0x130000
  | .tmSample => 0x130004
  | .tmPcfg => 0x131000
  | .tmVcw0 => 0x131004
  | .tmVcw1 => 0x131008
  | .tmGenw => 0x13100C
  | .tmQecn => 0x132000
  | .tmQsamp => 0x132004
  | .tmShpA => 0x136000
  | .tmShpB => 0x136004
  | .tmPolA => 0x13A000
  | .tmPolB => 0x13A004
  | .tmPolC => 0x13A008
  | .mashStat => 0x140000
  | .mashCtx => 0x140004
  | .mashElem => 0x140008
  | .mashSlice => 0x14000C
  | .mashStore => 0x140010
  | .mashStage => 0x140014
  | .mashPlan => 0x141000
  | .klnCtrl => 0x150000
  | .klnRamp => 0x150004
  | .klnKat => 0x150008
  | .klnCount => 0x15000C
  | .klnFree => 0x150010
  | .klnArr => 0x151000
  | .klnStrm => 0x152000
  | .oeCtrl => 0x500000
  | .oeStat => 0x500004
  | .oeFade => 0x500008
  | .oeDamp => 0x50000C
  | .oeLsr => 0x500100
  | .oeFib => 0x500200
  | .oeRing => 0x500300
  | .oeMesh => 0x500400
  | .d2dCtrl => 0x160000
  | .d2dLink => 0x160010
  | .d2dBnd => 0x161000
  | .d2dWire => 0x162000
  | .d2dCnt => 0x164000
  | .timeCtrl => 0x060000
  | .timeStat => 0x060004
  | .timeNow => 0x060008
  | .timeIncr => 0x060018
  | .timeStep => 0x060020
  | .timeFree => 0x060030
  | .timeSnapNs => 0x060038
  | .timeSnapFree => 0x060044
  | .timeNowfrac => 0x060010
  | .timeSlew => 0x060028
  | .timeSnapFrec => 0x060040
  | .timePpsout => 0x060200
  | .timePpsw => 0x060204
  | .timeDomCapNs => 0x060100
  | .timeDomCapFrac => 0x060108
  | .timeDomOffsetNs => 0x06010C
  | .timeDomFreqPpb => 0x060110
  | .timeDomCnt => 0x060114
  | .timeLat => 0x061000
  | .hifStat => 0x040000
  | .hifRingBase => 0x041000
  | .hifRingWb => 0x041008
  | .hifRingCfg => 0x041010
  | .hifRingMod => 0x041014
  | .hifRingProd => 0x041018
  | .hifRingCons => 0x04101C
  | .hifRingStat => 0x041020
  | .identIdcode => 0x000000
  | .identSerial => 0x000008
  | .rstCtrl => 0x010000
  | .rstCfg => 0x010004
  | .rstCause => 0x010008
  | .rstErrsrc => 0x01000C
  | .rstStat => 0x010010
  | .rstPidle => 0x010100
  | .rstMidle => 0x010200
  | .clkStat => 0x020000
  | .errStat => 0x070000
  | .errAck => 0x070004
  | .errCfg => 0x070008
  | .errSwcnt => 0x07000C
  | .errHead => 0x070100
  | .hlthCfg => 0x110010
  | .hlthBudget => 0x110014
  | .hlthPort => 0x114000
  | .jobWatchSel => 0x130100
  | .jobWatchInFlight => 0x130104
  | .pitchImgImageId => 0x170100
  | .pitchImgState => 0x170104
  | .pitchImgPresentHere => 0x170108
  | .pitchImgGetsServed => 0x17010C
  | .cntClear => 0x080000
  | .cntBw => 0x080004
  | .cntPage => 0x080100
  | .tapCtrl => 0x600000
  | .tapSample => 0x600004
  | .tapCask => 0x600100
  | .secStat => 0x050000
  | .secFwver => 0x050004
  | .secNonce => 0x050008
  | .secRecovAddr => 0x050010
  | .secRecovLen => 0x050018
  | .secRecovRecovErr => 0x05001C
  | .pwrStat => 0x030000
  | .pwrVin => 0x030004
  | .pwrIin => 0x030008
  | .pwrPin => 0x03000C
  | .pwrWarn => 0x030010
  | .pwrTemp => 0x030100

/-- The indices of a register: how many values each takes and the address step of each, outermost first. -/
def Reg.dims : Reg → List (Nat × Nat)
  | .caskRegion => [(4, 0x100000)]
  | .portEtype => [(4, 0x100000)]
  | .portTcmap => [(4, 0x100000)]
  | .portSvc => [(4, 0x100000)]
  | .portFence => [(4, 0x100000)]
  | .portClass => [(4, 0x100000)]
  | .portLink => [(4, 0x100000), (256, 0x4)]
  | .portCredit => [(4, 0x100000), (256, 0x20), (6, 0x4)]
  | .tblSeeds => [(4, 0x100000)]
  | .tblCache => [(4, 0x100000)]
  | .tblBucket => [(4, 0x100000)]
  | .tblLearn => [(4, 0x100000)]
  | .tblSweep => [(4, 0x100000)]
  | .tblFence => [(4, 0x100000)]
  | .tblStatus => [(4, 0x100000)]
  | .tblOcc => [(4, 0x100000)]
  | .tblSb => [(4, 0x100000)]
  | .flrCtrl => [(4, 0x100000)]
  | .flrAge => [(4, 0x100000)]
  | .flrThresh => [(4, 0x100000)]
  | .flrPool => [(4, 0x100000)]
  | .flrWeight => [(4, 0x100000)]
  | .flrIng => [(4, 0x100000), (256, 0x4)]
  | .tmCtrl => [(4, 0x100000)]
  | .tmSample => [(4, 0x100000)]
  | .tmPcfg => [(4, 0x100000), (256, 0x10)]
  | .tmVcw0 => [(4, 0x100000), (256, 0x10)]
  | .tmVcw1 => [(4, 0x100000), (256, 0x10)]
  | .tmGenw => [(4, 0x100000), (256, 0x10)]
  | .tmQecn => [(4, 0x100000), (256, 0x40), (8, 0x8)]
  | .tmQsamp => [(4, 0x100000), (256, 0x40), (8, 0x8)]
  | .tmShpA => [(4, 0x100000), (256, 0x40), (8, 0x8)]
  | .tmShpB => [(4, 0x100000), (256, 0x40), (8, 0x8)]
  | .tmPolA => [(4, 0x100000), (256, 0x60), (8, 0xC)]
  | .tmPolB => [(4, 0x100000), (256, 0x60), (8, 0xC)]
  | .tmPolC => [(4, 0x100000), (256, 0x60), (8, 0xC)]
  | .mashStat => [(4, 0x100000)]
  | .mashCtx => [(4, 0x100000)]
  | .mashElem => [(4, 0x100000)]
  | .mashSlice => [(4, 0x100000)]
  | .mashStore => [(4, 0x100000)]
  | .mashStage => [(4, 0x100000)]
  | .mashPlan => [(4, 0x100000), (4096, 0x4)]
  | .klnCtrl => [(4, 0x100000)]
  | .klnRamp => [(4, 0x100000)]
  | .klnKat => [(4, 0x100000)]
  | .klnCount => [(4, 0x100000)]
  | .klnFree => [(4, 0x100000)]
  | .klnArr => [(4, 0x100000), (256, 0x4)]
  | .klnStrm => [(4, 0x100000), (64, 0x4)]
  | .oeCtrl => [(16, 0x10000)]
  | .oeStat => [(16, 0x10000)]
  | .oeFade => [(16, 0x10000)]
  | .oeDamp => [(16, 0x10000)]
  | .oeLsr => [(16, 0x10000), (10, 0x4)]
  | .oeFib => [(16, 0x10000), (16, 0x4)]
  | .oeRing => [(16, 0x10000), (16, 0x4)]
  | .oeMesh => [(16, 0x10000), (4, 0x4)]
  | .d2dCtrl => [(4, 0x100000)]
  | .d2dLink => [(4, 0x100000), (4, 0x4)]
  | .d2dBnd => [(4, 0x100000), (4, 0x100), (64, 0x4)]
  | .d2dWire => [(4, 0x100000), (4, 0x200), (64, 0x8), (2, 0x4)]
  | .d2dCnt => [(4, 0x100000), (4, 0x100), (64, 0x4)]
  | .timeCtrl => []
  | .timeStat => []
  | .timeNow => [(2, 0x4)]
  | .timeIncr => [(2, 0x4)]
  | .timeStep => [(2, 0x4)]
  | .timeFree => [(2, 0x4)]
  | .timeSnapNs => [(2, 0x4)]
  | .timeSnapFree => [(2, 0x4)]
  | .timeNowfrac => []
  | .timeSlew => []
  | .timeSnapFrec => []
  | .timePpsout => []
  | .timePpsw => []
  | .timeDomCapNs => [(2, 0x20), (2, 0x4)]
  | .timeDomCapFrac => [(2, 0x20)]
  | .timeDomOffsetNs => [(2, 0x20)]
  | .timeDomFreqPpb => [(2, 0x20)]
  | .timeDomCnt => [(2, 0x20)]
  | .timeLat => [(1024, 0x4)]
  | .hifStat => []
  | .hifRingBase => [(34, 0x40), (2, 0x4)]
  | .hifRingWb => [(34, 0x40), (2, 0x4)]
  | .hifRingCfg => [(34, 0x40)]
  | .hifRingMod => [(34, 0x40)]
  | .hifRingProd => [(34, 0x40)]
  | .hifRingCons => [(34, 0x40)]
  | .hifRingStat => [(34, 0x40)]
  | .identIdcode => []
  | .identSerial => [(2, 0x4)]
  | .rstCtrl => []
  | .rstCfg => []
  | .rstCause => []
  | .rstErrsrc => []
  | .rstStat => []
  | .rstPidle => [(32, 0x4)]
  | .rstMidle => [(2, 0x4)]
  | .clkStat => []
  | .errStat => []
  | .errAck => []
  | .errCfg => []
  | .errSwcnt => []
  | .errHead => [(16, 0x4)]
  | .hlthCfg => [(4, 0x100000)]
  | .hlthBudget => [(4, 0x100000)]
  | .hlthPort => [(4, 0x100000), (256, 0x4)]
  | .jobWatchSel => [(4, 0x100000), (16, 0x8)]
  | .jobWatchInFlight => [(4, 0x100000), (16, 0x8)]
  | .pitchImgImageId => [(4, 0x100000), (16, 0x10)]
  | .pitchImgState => [(4, 0x100000), (16, 0x10)]
  | .pitchImgPresentHere => [(4, 0x100000), (16, 0x10)]
  | .pitchImgGetsServed => [(4, 0x100000), (16, 0x10)]
  | .cntClear => []
  | .cntBw => []
  | .cntPage => [(64, 0x4)]
  | .tapCtrl => []
  | .tapSample => []
  | .tapCask => [(4, 0x10), (2, 0x4)]
  | .secStat => []
  | .secFwver => []
  | .secNonce => [(2, 0x4)]
  | .secRecovAddr => [(2, 0x4)]
  | .secRecovLen => []
  | .secRecovRecovErr => []
  | .pwrStat => []
  | .pwrVin => []
  | .pwrIin => []
  | .pwrPin => []
  | .pwrWarn => []
  | .pwrTemp => [(57, 0x4)]

/-- Is it a 64-bit register under R8? -/
def Reg.is64 : Reg → Bool
  | .d2dWire | .timeNow | .timeIncr | .timeStep | .timeFree | .timeSnapNs | .timeSnapFree | .timeDomCapNs | .hifRingBase | .hifRingWb | .identSerial | .tapCask | .secNonce | .secRecovAddr => true
  | _ => false

/-- The fields a host write sets, of a register word with the given last index. -/
def Reg.fields (r : Reg) (last : Nat) : List RegFld :=
  match r with
  | .portEtype => [⟨0, 16, .device, 0x88B5, .core⟩]
  | .portTcmap => [⟨0, 16, .device, 0xFA50, .core⟩, ⟨16, 3, .device, 0x0, .core⟩, ⟨19, 3, .device, 0x6, .core⟩]
  | .portSvc => [⟨10, 22, .device, 0x0, .core⟩]
  | .portFence => [⟨0, 16, .device, 0x64, .core⟩]
  | .portClass => [⟨0, 1, .device, 0x0, .core⟩]
  | .portLink => [⟨0, 2, .port, 0x0, .core⟩, ⟨2, 1, .port, 0x0, .core⟩, ⟨3, 12, .port, 0x1, .core⟩]
  | .portCredit => [⟨0, 20, .port, if last = 0 then 0x10 else 0, .core⟩]
  | .tblSeeds => [⟨0, 16, .device, 0x4D31, .core⟩, ⟨16, 16, .device, 0x7A05, .core⟩]
  | .tblCache => [⟨0, 16, .device, 0xC5E, .core⟩]
  | .tblLearn => [⟨0, 1, .none, 0x1, .core⟩, ⟨1, 1, .none, 0x1, .core⟩, ⟨16, 16, .none, 0x3E8, .core⟩]
  | .tblSweep => [⟨0, 16, .none, 0x2710, .core⟩, ⟨16, 8, .none, 0x8, .core⟩]
  | .tblFence => [⟨0, 16, .device, 0x3E8, .core⟩, ⟨16, 16, .device, 0x32, .core⟩]
  | .flrCtrl => [⟨0, 1, .none, 0x1, .core⟩, ⟨1, 6, .device, 0x4, .core⟩, ⟨16, 8, .none, 0x20, .core⟩]
  | .flrAge => [⟨0, 16, .device, 0xC8, .core⟩]
  | .flrThresh => [⟨0, 4, .none, 0x3, .core⟩, ⟨8, 22, .none, 0x40000, .core⟩]
  | .flrIng => [⟨0, 21, .port, 0x1000, .core⟩]
  | .tmCtrl => [⟨0, 1, .none, 0x1, .core⟩, ⟨1, 1, .none, 0x1, .core⟩]
  | .tmSample => [⟨0, 20, .none, 0x3E8, .core⟩]
  | .tmPcfg => [⟨0, 1, .port, 0x0, .core⟩, ⟨1, 16, .port, 0xA550, .core⟩, ⟨17, 8, .none, 0x0, .core⟩]
  | .tmVcw0 => [⟨0, 8, .port, 0x8, .core⟩, ⟨8, 8, .port, 0x30, .core⟩, ⟨16, 8, .port, 0x30, .core⟩, ⟨24, 8, .port, 0x18, .core⟩]
  | .tmVcw1 => [⟨0, 8, .port, 0x18, .core⟩, ⟨8, 8, .port, 0x10, .core⟩]
  | .tmGenw => [⟨0, 8, .port, 0x4, .core⟩, ⟨8, 8, .port, 0x8, .core⟩, ⟨16, 8, .port, 0x4, .core⟩]
  | .tmQecn => [⟨0, 22, .none, 0x2000, .core⟩]
  | .tmShpA => [⟨0, 21, .none, 0x0, .core⟩]
  | .tmShpB => [⟨0, 16, .none, 0x10, .core⟩]
  | .tmPolA => [⟨0, 21, .none, 0x0, .core⟩, ⟨21, 1, .none, 0x0, .core⟩, ⟨22, 1, .none, 0x0, .core⟩, ⟨23, 1, .none, 0x0, .core⟩]
  | .tmPolB => [⟨0, 21, .none, 0x0, .core⟩]
  | .tmPolC => [⟨0, 16, .none, 0x400, .core⟩, ⟨16, 16, .none, 0x800, .core⟩]
  | .klnCtrl => [⟨0, 1, .none, 0x1, .core⟩, ⟨4, 12, .none, 0x200, .core⟩, ⟨16, 12, .none, 0x100, .core⟩]
  | .klnRamp => [⟨0, 7, .none, 0x20, .core⟩]
  | .klnKat => [⟨0, 16, .none, 0x3E8, .core⟩, ⟨16, 16, .none, 0x64, .core⟩]
  | .oeCtrl => [⟨0, 1, .none, 0x0, .system⟩, ⟨1, 1, .none, 0x1, .system⟩, ⟨2, 1, .none, 0x1, .system⟩]
  | .oeFade => [⟨0, 8, .none, 0x64, .system⟩, ⟨8, 8, .none, 0xFA, .system⟩]
  | .oeDamp => [⟨0, 16, .none, 0x7D0, .system⟩, ⟨16, 1, .none, 0x1, .system⟩]
  | .oeFib => [⟨0, 3, .fibre, 0x0, .core⟩]
  | .d2dCtrl => [⟨0, 1, .none, 0x1, .core⟩, ⟨1, 1, .none, 0x0, .core⟩, ⟨8, 6, .none, 0x8, .core⟩, ⟨16, 16, .none, 0x10, .core⟩]
  | .timeCtrl => [⟨0, 1, .none, 0x0, .system⟩, ⟨1, 1, .none, 0x0, .system⟩, ⟨2, 1, .none, 0x1, .system⟩, ⟨3, 1, .none, 0x0, .system⟩, ⟨4, 1, .none, 0x1, .system⟩]
  | .timeIncr => [if last = 0 then ⟨0, 32, .none, 0, .system⟩ else ⟨0, 1, .none, 1, .system⟩]
  | .timeStep => [⟨0, 32, .none, if last = 0 then 0x0 else 0x0, .system⟩]
  | .timeSlew => [⟨0, 20, .none, 0x3E8, .system⟩]
  | .timePpsout => [⟨0, 30, .none, 0x0, .system⟩]
  | .timePpsw => [⟨0, 20, .none, 0x186A0, .system⟩]
  | .hifRingBase => [⟨0, 32, .none, if last = 0 then 0x0 else 0x0, .system⟩]
  | .hifRingWb => [⟨0, 32, .none, if last = 0 then 0x0 else 0x0, .system⟩]
  | .hifRingCfg => [⟨0, 5, .none, 0x6, .system⟩, ⟨8, 4, .none, 0x0, .system⟩, ⟨12, 6, .none, 0x0, .system⟩, ⟨31, 1, .none, 0x0, .system⟩]
  | .hifRingMod => [⟨0, 16, .none, 0x0, .system⟩, ⟨16, 16, .none, 0x1, .system⟩]
  | .rstCfg => [⟨0, 1, .none, 0x0, .powerOn⟩]
  | .errCfg => [⟨0, 16, .none, 0x40, .core⟩]
  | .hlthCfg => [⟨0, 8, .none, 0x80, .core⟩, ⟨8, 8, .none, 0xE0, .core⟩, ⟨16, 8, .none, 0xA, .core⟩, ⟨24, 8, .none, 0xA, .core⟩]
  | .hlthBudget => [⟨0, 8, .none, 0x8, .core⟩, ⟨8, 16, .none, 0x2710, .core⟩]
  | .hlthPort => [⟨10, 1, .none, 0x0, .core⟩]
  | .jobWatchSel => [⟨0, 16, .none, 0x0, .core⟩, ⟨16, 1, .none, 0x0, .core⟩]
  | .cntBw => [⟨0, 20, .none, 0x3E8, .core⟩]
  | .cntPage => [⟨0, 12, .none, 0x0, .core⟩, ⟨12, 1, .none, 0x0, .core⟩]
  | .tapCtrl => [⟨0, 2, .none, 0x1, .core⟩]
  | .tapSample => [⟨0, 24, .none, 0x400, .core⟩, ⟨24, 4, .none, 0x1, .core⟩, ⟨28, 1, .none, 0x0, .core⟩]
  | .secRecovAddr => [⟨0, 32, .none, if last = 0 then 0x0 else 0x0, .system⟩]
  | .secRecovLen => [⟨0, 25, .none, 0x0, .system⟩]
  | .pwrWarn => [⟨0, 8, .none, 0x64, .system⟩, ⟨8, 8, .none, 0x50, .system⟩, ⟨16, 8, .none, 0x5A, .system⟩]
  | _ => []

/-- Every register. -/
def Reg.all : List Reg :=
  [.caskRegion, .portEtype, .portTcmap, .portSvc, .portFence, .portClass, .portLink, .portCredit, .tblSeeds,
   .tblCache, .tblBucket, .tblLearn, .tblSweep, .tblFence, .tblStatus, .tblOcc, .tblSb, .flrCtrl, .flrAge,
   .flrThresh, .flrPool, .flrWeight, .flrIng, .tmCtrl, .tmSample, .tmPcfg, .tmVcw0, .tmVcw1, .tmGenw, .tmQecn,
   .tmQsamp, .tmShpA, .tmShpB, .tmPolA, .tmPolB, .tmPolC, .mashStat, .mashCtx, .mashElem, .mashSlice, .mashStore,
   .mashStage, .mashPlan, .klnCtrl, .klnRamp, .klnKat, .klnCount, .klnFree, .klnArr, .klnStrm, .oeCtrl, .oeStat,
   .oeFade, .oeDamp, .oeLsr, .oeFib, .oeRing, .oeMesh, .d2dCtrl, .d2dLink, .d2dBnd, .d2dWire, .d2dCnt, .timeCtrl,
   .timeStat, .timeNow, .timeIncr, .timeStep, .timeFree, .timeSnapNs, .timeSnapFree, .timeNowfrac, .timeSlew,
   .timeSnapFrec, .timePpsout, .timePpsw, .timeDomCapNs, .timeDomCapFrac, .timeDomOffsetNs, .timeDomFreqPpb,
   .timeDomCnt, .timeLat, .hifStat, .hifRingBase, .hifRingWb, .hifRingCfg, .hifRingMod, .hifRingProd, .hifRingCons,
   .hifRingStat, .identIdcode, .identSerial, .rstCtrl, .rstCfg, .rstCause, .rstErrsrc, .rstStat, .rstPidle,
   .rstMidle, .clkStat, .errStat, .errAck, .errCfg, .errSwcnt, .errHead, .hlthCfg, .hlthBudget, .hlthPort,
   .jobWatchSel, .jobWatchInFlight, .pitchImgImageId, .pitchImgState, .pitchImgPresentHere, .pitchImgGetsServed,
   .cntClear, .cntBw, .cntPage, .tapCtrl, .tapSample, .tapCask, .secStat, .secFwver, .secNonce, .secRecovAddr,
   .secRecovLen, .secRecovRecovErr, .pwrStat, .pwrVin, .pwrIin, .pwrPin, .pwrWarn, .pwrTemp]

/-- The indices that an offset from a register's base spells, if any. -/
def dimsOf : List (Nat × Nat) → Nat → Option (List Nat)
  | [], off => if off = 0 then some [] else none
  | (n, st) :: r, off => if off / st < n then (dimsOf r (off % st)).map (off / st :: ·) else none

/-- The address of a register with given indices. -/
def Reg.addr (r : Reg) (ix : List Nat) : Nat := r.base + ((r.dims.zip ix).map fun x => x.1.2 * x.2).sum

/-- The register and indices at an address, if a register occupies it. -/
def regAt (a : Nat) : Option (Reg × List Nat) :=
  Reg.all.findSome? fun r => if r.base ≤ a then (dimsOf r.dims (a - r.base)).map (r, ·) else none

/-- RO fields that are kept in the register file itself: the device alone writes them. -/
def Reg.roFields : Reg → List RegFld
  | .caskRegion => [⟨0, 32, .none, 0x181008D0, .system⟩]
  | .tblBucket => [⟨0, 32, .none, 0x00020001, .core⟩]
  | .tmQsamp => [⟨0, 32, .none, 0, .core⟩]
  | .tmSample => [⟨20, 12, .none, 0, .core⟩]
  | .cntBw => [⟨20, 12, .none, 0, .core⟩]
  | _ => []

/-- The reset word of a register's stored fields. -/
def Reg.resetWord (r : Reg) (last : Nat) : Nat :=
  (r.fields last ++ r.roFields).foldl (fun v f => v + f.rst <<< f.lo) 0

end Sys2Proof.Machine
end

