-- ==== Sys2Proof/Machine/Ops.lean ====
section
/-! DEFINITION. The named operations over the state: registers and their fields, keyed blocks, counters, error records,
events, ring entries, interrupts and the life of a host command. Every family's meanings are written over these. -/
namespace Sys2Proof.Machine

/-- What a meaning answers. -/
abbrev Res := Host.Outcome State Fault Refusal

/-- A meaning that always completes. -/
def done (s : State) : Res := .next s

/-! ### Registers -/

/-- The stored word of a register (its writable fields and the RO fields kept with them). -/
def State.reg (s : State) (r : Reg) (ix : List Nat) : Nat :=
  match SMap.find s.regs (r.addr ix) with
  | some v => v.toNat
  | none => r.resetWord (ix.getLastD 0)

/-- Stores a register word; a word equal to the reset word is not listed. -/
def State.setReg (s : State) (r : Reg) (ix : List Nat) (v : Nat) : State :=
  { s with regs := SMap.set s.regs (r.addr ix) (BitVec.ofNat 32 v) (BitVec.ofNat 32 (r.resetWord (ix.getLastD 0))) }

/-- A field of a stored register. -/
def State.rf (s : State) (r : Reg) (ix : List Nat) (lo w : Nat) : Nat := fld (s.reg r ix) lo w

/-- A one-bit field of a stored register. -/
def State.rb (s : State) (r : Reg) (ix : List Nat) (i : Nat) : Bool := bit (s.reg r ix) i

/-- Replaces a field of a stored register. -/
def State.setRf (s : State) (r : Reg) (ix : List Nat) (lo w x : Nat) : State :=
  s.setReg r ix (putFld (s.reg r ix) lo w x)

/-- A stored 64-bit register. -/
def State.reg64 (s : State) (r : Reg) (ix : List Nat) : Nat := s.reg r (ix ++ [0]) + s.reg r (ix ++ [1]) * 2 ^ 32

/-- Indices of a port register: quadrant, then i = p − 256q (R14). -/
def pix (p : Nat) : List Nat := [p / 256, p % 256]

/-! ### Keyed blocks -/

def State.port (s : State) (p : Nat) : PortSt := SMap.get s.ports p {}
def State.updPort (s : State) (p : Nat) (f : PortSt → PortSt) : State := { s with ports := SMap.modify s.ports p {} f }
def State.ring (s : State) (r : Nat) : RingSt := SMap.get s.rings r {}
def State.updRing (s : State) (r : Nat) (f : RingSt → RingSt) : State := { s with rings := SMap.modify s.rings r {} f }
/-- Queue n of port p. -/
def State.queue (s : State) (p n : Nat) : QueueSt := SMap.get s.queues (8 * p + n) {}
def State.updQueue (s : State) (p n : Nat) (f : QueueSt → QueueSt) : State :=
  { s with queues := SMap.modify s.queues (8 * p + n) {} f }
def State.pol (s : State) (p t : Nat) : PolSt := SMap.get s.pols (8 * p + t) {}
def State.updPol (s : State) (p t : Nat) (f : PolSt → PolSt) : State :=
  { s with pols := SMap.modify s.pols (8 * p + t) {} f }
def State.table (s : State) (q : Nat) : TableSt := SMap.get s.tables q {}
def State.updTable (s : State) (q : Nat) (f : TableSt → TableSt) : State := { s with tables := SMap.modify s.tables q {} f }
def State.floor (s : State) (q : Nat) : FloorSt := SMap.get s.floors q {}
def State.updFloor (s : State) (q : Nat) (f : FloorSt → FloorSt) : State := { s with floors := SMap.modify s.floors q {} f }
/-- Array a of quadrant q is 256q + a. -/
def State.array (s : State) (k : Nat) : ArraySt := SMap.get s.arrays k {}
def State.updArray (s : State) (k : Nat) (f : ArraySt → ArraySt) : State := { s with arrays := SMap.modify s.arrays k {} f }
def State.engine (s : State) (o : Nat) : EngineSt := SMap.get s.engines o {}
def State.updEngine (s : State) (o : Nat) (f : EngineSt → EngineSt) : State :=
  { s with engines := SMap.modify s.engines o {} f }
/-- A laser at reset: n < 8 is off on channel n, the spares are idle with channel 0xF (OE_LSR). -/
def laserReset (n : Nat) : Laser :=
  if n < 8 then { channel := BitVec.ofNat 4 n } else { state := .spareIdle, channel := 0xF }
def State.laser (s : State) (o n : Nat) : Laser := SMap.get s.lasers (10 * o + n) (laserReset n)
def State.updLaser (s : State) (o n : Nat) (f : Laser → Laser) : State :=
  { s with lasers := SMap.modify s.lasers (10 * o + n) (laserReset n) f }
/-- LEVEL_CDB: the level relative to the reference, 0 before there is one (R256). -/
def Laser.level (l : Laser) : W16 := match l.ref with | some r => BitVec.ofInt 16 (l.meas - r) | none => 0
/-- PLAN_BOUND: a plan-bound map is applied (R268). -/
def MeshSt.planBound (x : MeshSt) : Bool := x.bound.any (·.prev.isSome)
/-- Mesh group 4o + m. -/
def State.mesh (s : State) (g : Nat) : MeshSt := SMap.get s.meshes g {}
def State.updMesh (s : State) (g : Nat) (f : MeshSt → MeshSt) : State := { s with meshes := SMap.modify s.meshes g {} f }
/-- Bundle direction x to y, bundle b. -/
def State.bundle (s : State) (x y b : Nat) : BundleSt := SMap.get s.bundles ((4 * x + y) * 64 + b) {}
def State.updBundle (s : State) (x y b : Nat) (f : BundleSt → BundleSt) : State :=
  { s with bundles := SMap.modify s.bundles ((4 * x + y) * 64 + b) {} f }
def State.dir (s : State) (x y : Nat) : DirSt := SMap.get s.dirs (4 * x + y) {}
def State.updDir (s : State) (x y : Nat) (f : DirSt → DirSt) : State := { s with dirs := SMap.modify s.dirs (4 * x + y) {} f }
/-- The key of a micro-ring. -/
def ringKey (r : RingId) : Nat := (r.fibre.toNat * 2 + b2n r.rx) * 8 + r.lane.toNat
def State.microRing (s : State) (r : RingId) : MicroRing := SMap.get s.rings1 (ringKey r) {}
def State.updMicroRing (s : State) (r : RingId) (f : MicroRing → MicroRing) : State :=
  { s with rings1 := SMap.modify s.rings1 (ringKey r) {} f }
def State.pitchImg (s : State) (k : Nat) : PitchImg := SMap.get s.pitch k {}
def State.updPitch (s : State) (k : Nat) (f : PitchImg → PitchImg) : State := { s with pitch := SMap.modify s.pitch k {} f }
/-- Tun t of quadrant q is 64q + t. -/
def State.tun (s : State) (k : Nat) : TunSt := SMap.get s.tuns k {}
def State.updTun (s : State) (k : Nat) (f : TunSt → TunSt) : State := { s with tuns := SMap.modify s.tuns k {} f }
def State.kstream (s : State) (k : Nat) : Option KStream := SMap.find s.kstreams k
def State.updKstream (s : State) (k : Nat) (f : KStream → KStream) : State :=
  match SMap.find s.kstreams k with
  | some x => { s with kstreams := SMap.put s.kstreams k (f x) }
  | none => s

/-- A fresh value that nothing constrains. (DESIGN CHOICE, log 5, safe) -/
def State.fresh (s : State) : W64 × State := (Config.free s.freeCtr, { s with freeCtr := s.freeCtr + 1 })

/-! ### Reset and reach of the blocks -/

/-- A core, system or power-on reach is asserted or being released up to its step 9 (R349). -/
def State.coreHeld (s : State) : Bool :=
  match s.rst.reach with
  | none => false
  | some _ => s.rst.step ≤ 9

/-- The reach is asserted, its release sequence not started. -/
def State.asserted (s : State) : Bool := s.rst.reach.isSome && s.rst.step = 0

/-- A system or power-on reach stands. -/
def State.sysHeld (s : State) : Bool := s.rst.reach = some .system || s.rst.reach = some .powerOn

/-- Quadrant q is held: in a reach, in block reset, or unpowered in P3 (R338, R349, R361). -/
def State.quadHeld (s : State) (q : Nat) : Bool := s.coreHeld || bit s.rst.quadInReset.toNat q || s.pwr.state = 3

/-- A command on quadrant q finds it held in block reset, or unpowered in P3 (R355, R361, R437). -/
def State.quadDown (s : State) (q : Nat) : Bool := bit s.rst.quadInReset.toNat q || s.pwr.state = 3

/-- A command on what quadrant q does finds it held, unpowered, or with its clocks gated: in P1 and P2 the floor, the table,
Mash and Kiln hold their state and take no action (R355, R437). (DEDUCED, log 71, unsafe) -/
def State.quadStill (s : State) (q : Nat) : Bool := s.quadDown q || s.pwr.state ≠ 0

/-- The quadrants run: no reach holds them and their clocks are not gated (R349, R437). -/
def State.live (s : State) : Bool := !s.coreHeld && s.pwr.state = 0

/-- Small configuration class (R1); the field is kept once for all quadrants. -/
def State.smallClass (s : State) : Bool := s.rb .portClass [0] 0

/-- Some port of the device is armed. -/
def State.anyArmed (s : State) : Bool := s.ports.any fun x => x.2.armed

/-- The lowest armed port that `p` picks: the DETAIL of a refusal for an armed port (R332); 0 without one.
(DEDUCED, log 12, unsafe) -/
def State.armedPort (s : State) (p : Nat → Bool) : Nat := ((s.ports.find? fun x => x.2.armed && p x.1).map (·.1)).getD 0

/-- The lowest armed port. -/
def State.firstArmed (s : State) : Nat := s.armedPort fun _ => true

/-- Is a field with this lock locked, for a register with these indices (R9)? -/
def State.locked (s : State) (l : Lock) (ix : List Nat) : Bool :=
  match l with
  | .none => false
  | .device => s.anyArmed
  | .port => (s.port (256 * nthD ix 0 0 + nthD ix 1 0)).armed
  | .fibre => (List.range 4).any fun k => (s.port (4 * (16 * nthD ix 0 0 + nthD ix 1 0) + k)).armed

/-! ### Counters (R400 to R404) -/

/-- A counter's word plus n; VALUE wraps at 2^48 and a wrap sets OVF (R400). -/
def ctrPlus (c : BitVec 49) (n : Nat) : BitVec 49 :=
  let v := fld c.toNat 0 48 + n
  BitVec.ofNat 49 (v % 2 ^ 48 + (if bit c.toNat 48 || 2 ^ 48 ≤ v then 2 ^ 48 else 0))
/-- A counter that n more are counted on in CLK_CORE cycle `now`. -/
def Ctr.plus (c : Ctr) (now n : Nat) : Ctr :=
  if c.cycle = now then { c with word := ctrPlus c.word n, added := c.added + n }
  else { word := ctrPlus c.word n, cycle := now, before := c.word, added := n }
/-- A clear of a counter, of VALUE and OVF or of OVF alone: what the same cycle has counted is kept (R404). -/
def Ctr.clear (c : Ctr) (now : Nat) (zero : Bool) : Ctr :=
  let z (w : BitVec 49) : BitVec 49 := if zero then 0 else BitVec.ofNat 49 (fld w.toNat 0 48)
  if c.cycle = now && c.added ≠ 0 then { c with word := ctrPlus (z c.before) c.added, before := z c.before } else { word := z c.word }
/-- Adds to counter i of group g. -/
def State.count (s : State) (g i n : Nat) : State :=
  { s with ctrs := SMap.modify s.ctrs (512 * g + i) {} fun c => c.plus s.time.core n }
/-- A port's counter. -/
def State.countPort (s : State) (p i : Nat) : State := s.count p i 1
/-- A quadrant's counter. -/
def State.countQuad (s : State) (q i : Nat) : State := s.count (1024 + q) i 1
/-- A device counter. -/
def State.countDev (s : State) (i : Nat) : State := s.count 1028 i 1
/-- The word of a counter. -/
def State.ctr (s : State) (g i : Nat) : BitVec 49 := (SMap.get s.ctrs (512 * g + i) {}).word

/-- A host write that is ignored under a rule that counts it in the ERR block (IGNORED_WRITES). -/
def State.ignoredWrite (s : State) : State := { s with err := { s.err with ignored := satTo 65535 (s.err.ignored + 1) } }

/-! ### Ring entries, write-backs and interrupts (R318 to R320, R330, R333 to R335) -/

/-- Entry size of a ring. -/
def entrySize (r : Nat) : Nat := if r < 16 then 64 else if r < 32 then 32 else if r = 32 then 64 else 160
/-- Entries of a ring. -/
def State.ringSize (s : State) (r : Nat) : Nat := 2 ^ s.rf .hifRingCfg [r] 0 5
/-- VECTOR of a ring. -/
def State.ringVector (s : State) (r : Nat) : Nat := s.rf .hifRingCfg [r] 12 6
/-- Entries in a ring. -/
def State.ringUsed (s : State) (r : Nat) : Nat := ((s.ring r).prod - (s.ring r).cons).toNat

/-- The write-back of the count the device owns: CONS of a command ring, PROD of the others (R319). -/
def State.writeBack (s : State) (r : Nat) : State :=
  let x := s.ring r
  let v := if r < 16 then x.cons else x.prod
  if !s.hif.busMaster then s.updRing r fun x => { x with wbDue := true } else
  let m := putBytes s.out.hostMem (s.reg64 .hifRingWb [r]) (leBytes 4 v.toNat ++ zeros 4)
  { s.updRing r (fun x => { x with wbCount := v, wbDue := false }) with out := { s.out with hostMem := m } }

/-- The message of a vector, as its table entry gives it (R317). -/
def State.msiOf (s : State) (v : Nat) : BitVec 6 × W64 × W32 := (BitVec.ofNat 6 v, SMap.get s.hif.msix v (0, 0))
/-- Sends a vector's message, or sets its PBA bit while it is masked or Bus Master Enable or the MSI-X enable is 0 (R315, R335,
R450). (PRESUMED, log 10, unsafe) -/
def State.sendVector (s : State) (v : Nat) : State :=
  if s.hif.busMaster && s.hif.msixEn && !s.hif.mask.getLsbD v then { s with out := { s.out with msi := s.msiOf v :: s.out.msi } }
  else { s with hif := { s.hif with pba := s.hif.pba ||| BitVec.ofNat 64 (2 ^ v) } }

/-- Sends a ring's interrupt and disarms the ring. -/
def State.fireRing (s : State) (r : Nat) : State :=
  (s.sendVector (s.ringVector r)).updRing r fun x => { x with armed := false, timer := none }

/-- MOD_COUNT, with 0 treated as 1. -/
def State.modCount (s : State) (r : Nat) : Nat := max 1 (s.rf .hifRingMod [r] 16 16)

/-- Judges a ring's interrupt after a change of its counts: MOD_COUNT reached, or IRQ_NOW; else the timer runs (R335). -/
def State.judgeIrq (s : State) (r : Nat) (irqNow : Bool) : State :=
  if !(s.ring r).armed then s
  else if irqNow || s.modCount r ≤ s.ringUsed r then s.fireRing r
  else if s.ringUsed r ≠ 0 ∧ s.rf .hifRingMod [r] 0 16 ≠ 0 then
    s.updRing r fun x => { x with timer := x.timer.or (some s.time.core) }
  else s

/-- Writes one entry of `k` slots to a device-produced ring, then its write-back, then judges its interrupt. -/
def State.putEntryNow (s : State) (r : Nat) (k : Nat) (bytes : List Byte) (irqNow : Bool) : State :=
  let x := s.ring r
  let size := s.ringSize r
  let es := entrySize r
  let base := s.reg64 .hifRingBase [r]
  let m := (List.range k).foldl (fun m i =>
    putBytes m (base + (x.prod.toNat + i) % size * es) (sl bytes (i * es) es)) s.out.hostMem
  let s := { s with out := { s.out with hostMem := m } }
  let s := s.updRing r fun x => { x with prod := x.prod + BitVec.ofNat 32 k }
  (s.writeBack r).judgeIrq r irqNow

/-- Writes an entry, or keeps it until Bus Master Enable is set again (R315). (DEDUCED, log 16, safe) -/
def State.putEntry (s : State) (r : Nat) (bytes : List Byte) (irqNow : Bool) : State :=
  if s.hif.busMaster then s.putEntryNow r (bytes.length / entrySize r) bytes irqNow
  else { s with hif := { s.hif with waitEntries := s.hif.waitEntries ++ [(r, bytes, irqNow)] } }

/-- Slots of a ring already promised to entries that wait for Bus Master Enable. (DEDUCED, log 16, safe) -/
def State.waitSlots (s : State) (r : Nat) : Nat :=
  ((s.hif.waitEntries.filter (·.1 = r)).map fun x => x.2.1.length / entrySize r).sum

/-- A device-produced ring can take `k` more slots. -/
def State.ringRoom (s : State) (r k : Nat) : Bool :=
  (s.ring r).enabled && s.ringUsed r + s.waitSlots r + k ≤ s.ringSize r

/-- Builds a record of `n` bytes from pieces at offsets. -/
def recordOf (n : Nat) (ps : List (Nat × List Byte)) : List Byte := ps.foldl (fun l p => patch l p.1 p.2) (zeros n)

/-- Puts 64 bytes on the event ring, or discards and counts them (R334). -/
def State.eventBytes (s : State) (e : List Byte) : State :=
  if s.ringRoom 32 1 then s.putEntry 32 e false
  else { s.countDev 0 with hif := { s.hif with eventsLost := s.hif.eventsLost + 1 } }

/-- Raises an event: its code, TIME_NS, and payload pieces (R333). -/
def State.event (s : State) (code : Nat) (ps : List (Nat × List Byte)) : State :=
  s.eventBytes (recordOf 64 ([(0, leBytes 1 code), (8, leBytes 8 s.time.ns.toNat)] ++ ps))

/-- Writes EVENTS_LOST when events were discarded and the event ring has room (R334). -/
def State.eventsLostNow (s : State) : State :=
  if s.hif.eventsLost ≠ 0 ∧ s.ringRoom 32 1 then
    let n := s.hif.eventsLost
    ({ s with hif := { s.hif with eventsLost := 0 } }).event 0x0C [(16, leBytes 4 n)]
  else s

/-- A PORT event with a lane mask. -/
def State.portEvent (s : State) (p action step : Nat) (mask : BitVec 8) : State :=
  s.event 0x03 [(16, leBytes 2 p), (18, leBytes 1 action), (19, [mask]), (20, leBytes 1 step)]

/-! ### Error records (R369 to R373) -/

/-- The 64 bytes of a record, with the time shown in bytes 8 to 15 and the FINAL flag. (DEDUCED, log 29, unsafe) -/
def ErrRec.bytes (r : ErrRec) (time : W64) (final : Bool) : List Byte :=
  [1, r.cls, r.sev, r.quad] ++ leBytes 4 r.seq.toNat ++ leBytes 8 time.toNat ++ leBytes 8 r.lastNs.toNat ++
    leBytes 4 r.count ++ [if final then 1 else 0, 0, 0, 0] ++ padTo 32 r.detail

/-- Severity codes. (DESIGN CHOICE, log 30, unsafe) -/
def sevCorrected : Byte := 1
def sevContained : Byte := 2
def sevFatal : Byte := 3

/-- An error is taken: it folds into the pending record of its key, creates a record, or is lost (R370, R371).
(DEDUCED, log 29, unsafe) -/
def State.record (s : State) (d : Detected) : State :=
  let mine (r : ErrRec) : Bool := r.cls = d.cls && r.quad = d.quad
  if s.err.queue.any mine then
    { s with err := { s.err with queue := updWhere s.err.queue mine fun r =>
        { r with count := satTo 0xFFFFFFFF (r.count + 1), lastNs := d.ns,
                 sev := if r.sev.toNat < d.sev.toNat then d.sev else r.sev } } }
  else if s.err.queue.length < 256 then
    let r : ErrRec := { cls := d.cls, sev := d.sev, quad := d.quad, seq := s.err.nextSeq, timeNs := d.ns, lastNs := d.ns, count := 1,
                        detail := padTo 32 d.detail }
    let s := { s with err := { s.err with queue := s.err.queue ++ [r], nextSeq := s.err.nextSeq + 1 } }
    s.eventBytes (r.bytes d.ns false)
  else
    let was := s.err.overflow
    let s := { s with err := { s.err with overflow := true, lost := satTo 65535 (s.err.lost + 1) } }
    if was then s
    else
      let r : ErrRec := { cls := 0x0D, sev := sevContained, quad := 0xFF, seq := 0, timeNs := d.ns,
                          lastNs := d.ns, count := 1, detail := recordOf 32 [(4, leBytes 4 s.err.lost)] }
      s.eventBytes (r.bytes d.ns false)

/-- An error as it is detected now. -/
def State.detected (s : State) (cls sev quad : Byte) (detail : List Byte) : Detected :=
  { cycle := s.time.core / 2, ns := s.time.ns, cls, sev, quad, detail }

/-- An error is detected: none while a reach is asserted; else it is taken at the end of its CLK_TIME cycle, behind the
acknowledgements of that cycle (R370, R373). (DEDUCED, log 29, unsafe) -/
def State.error (s : State) (cls sev quad : Byte) (detail : List Byte) : State :=
  if s.asserted then s else { s with err := { s.err with found := s.err.found ++ [s.detected cls sev quad detail] } }

/-- The order in which errors are taken: by cycle, then CLASS, then QUAD (R370). -/
def Detected.before (a b : Detected) : Bool :=
  a.cycle < b.cycle || (a.cycle = b.cycle && (a.cls.toNat < b.cls.toNat || (a.cls = b.cls && a.quad.toNat < b.quad.toNat)))
/-- Puts an error among errors in order, behind those of its own key. -/
def takeIn (d : Detected) : List Detected → List Detected
  | [] => [d]
  | x :: r => if d.before x then d :: x :: r else x :: takeIn d r

/-- The errors detected are taken, in order, unless the CRITICAL record of an error-raised reset is still to come (R370, R373). -/
def State.takeErrors (s : State) : State :=
  if s.rst.errRaised && s.rst.reach.isSome then s
  else (s.err.found.foldl (fun l d => takeIn d l) []).foldl State.record { s with err := { s.err with found := [] } }

/-- An error with DETAIL given as pieces at offsets 32 to 63 of the record. (DEDUCED, log 29, unsafe) -/
def State.errorAt (s : State) (cls sev quad : Byte) (ps : List (Nat × List Byte)) : State :=
  s.error cls sev quad (recordOf 32 (ps.map fun p => (p.1 - 32, p.2)))

/-! ### Host commands (R320, R324, R325, R328, R331, R332) -/

/-- Status codes (R331). -/
def Status.code : Status → Nat
  | .success => 0 | .resourcesPending => 1 | .refused => 2 | .insufficient => 3 | .notOpen => 4 | .notIdle => 5
  | .checkFailed => 6 | .missed => 7 | .bufferShort => 8 | .badDescriptor => 9 | .dmaError => 10 | .fwRestarted => 11
  | .resetAborted => 12

/-- Refusal causes (R332). -/
def Cause.code : Cause → Nat
  | .state => 1 | .range => 2 | .cls => 3 | .setting => 4 | .arming => 5 | .paths => 6 | .lanes => 7 | .share => 8
  | .inUse => 9 | .image => 10 | .full => 11 | .ownEid => 12 | .window => 13 | .buffer => 14

/-- The completion ring of a command ring, as a ring number. -/
def State.pairRing (s : State) (c : Nat) : Nat := 16 + s.rf .hifRingCfg [c] 8 4

/-- A fetched command has this count and belongs to this enabling of its ring. -/
def Fetched.named (f : Fetched) (index : W32) (era : Nat) : Bool := f.index = index && f.era = era
/-- The name of a command fetched from ring c. -/
def Fetched.ref (f : Fetched) (c : CmdRing) : CmdRef := ⟨c, f.index, f.era⟩
/-- The fetched command a reference names, if it is still outstanding. -/
def State.cmdOf (s : State) (ref : CmdRef) : Option Fetched := (s.ring ref.ring.toNat).cmds.find? (·.named ref.index ref.era)

/-- The 32 bytes of a completion (R325). -/
def completionBytes (ref : CmdRef) (tag : W32) (st : Status) (more : Bool) (result : List Byte) : List Byte :=
  padTo 16 result ++ leBytes 4 tag.toNat ++ leBytes 2 st.code ++ leBytes 1 ref.ring.toNat ++ [if more then 1 else 0] ++
    leBytes 4 ref.index.toNat ++ zeros 4

/-- Writes a completion of an outstanding command into the ring that was its pair when it was fetched, and returns the room
reserved for it. The last completion takes the command off its ring. A completion that has nowhere to go is discarded (R346). -/
def State.completeAs (s : State) (ref : CmdRef) (st : Status) (more : Bool) (result : List Byte) : State :=
  match s.cmdOf ref with
  | none => s
  | some f =>
    let c := ref.ring.toNat
    let p := f.pair
    let back := if more then 1 else f.reserved
    let s := if f.mute then s else s.updRing p fun x => { x with reservedHere := x.reservedHere - back }
    let s := s.updRing c fun x =>
      { x with cmds := if more then updWhere x.cmds (·.named ref.index ref.era) fun f => { f with reserved := f.reserved - 1 }
                       else x.cmds.filter fun g => !g.named ref.index ref.era }
    if f.mute || !(s.ring p).enabled then s
    else s.putEntry p (completionBytes ref f.tag st more result) (f.irqNow)

/-- The final completion of a command. (DEDUCED, log 14, safe) -/
def State.complete (s : State) (ref : CmdRef) (st : Status) (result : List Byte) : State := s.completeAs ref st false result

/-- SUCCESS with no result. -/
def State.succeed (s : State) (ref : CmdRef) : State := s.complete ref .success []

/-- REFUSED with CAUSE and DETAIL (R332). -/
def State.refuse (s : State) (ref : CmdRef) (c : Cause) (detail : Nat) : State :=
  s.complete ref .refused (recordOf 16 [(0, leBytes 2 c.code), (4, leBytes 4 detail)])

/-- DMA_ERROR, with the HOST record of R315. -/
def State.dmaError (s : State) (ref : CmdRef) (addr : Nat) : State :=
  (s.errorAt 0x0A sevContained 0xFF
    [(32, [2, leBytes 1 ref.ring.toNat |>.headD 0]), (36, leBytes 4 ref.index.toNat), (40, leBytes 8 addr)]).complete ref .dmaError []

/-- The command of ring c that may start next: the first not started, if SERIAL lets it (R328). (DEDUCED, log 14, safe) -/
def State.startable (s : State) (c : Nat) : Option Fetched :=
  match (s.ring c).cmds.find? (!·.started) with
  | none => none
  | some f => if f.serial && (s.ring c).cmds.any (fun g => !g.named f.index f.era && g.started) then none else some f

/-- Runs `k` on the next command of ring c when it is one of opcode `op` that `sub` admits, and the firmware takes
commands (R24, R328); else the step does not fall and nothing changes. (DEDUCED, log 14, safe) -/
def State.withCmd (s : State) (c : CmdRing) (op : Nat) (sub : List Byte → Bool)
    (k : State → List Byte → CmdRef → State) : State :=
  match s.startable c.toNat with
  | none => s
  | some f =>
    if f.opcode.toNat = op && sub f.bytes && s.hif.fwReady && s.hif.busMaster then
      k (s.updRing c.toNat fun x => { x with cmds := updWhere x.cmds (·.named f.index f.era) fun g => { g with started := true } })
        f.bytes (f.ref c)
    else s

/-- As `withCmd`, with the bytes of a host read that the command makes at address `addr` of its descriptor; a failed
read ends the command with DMA_ERROR (R315). (DESIGN CHOICE, log 7, safe; DEDUCED, log 14, safe) -/
def State.withRead (s : State) (c : CmdRing) (op : Nat) (sub : List Byte → Bool) (addr : List Byte → Nat) (rd : DmaRead)
    (k : State → List Byte → CmdRef → List Byte → State) : State :=
  s.withCmd c op sub fun s d ref =>
    match rd with
    | none => s.dmaError ref (addr d)
    | some bytes => k s d ref bytes

/-- Always admits. (DEDUCED, log 21, safe) -/
def anySub (_ : List Byte) : Bool := true

/-! ### Host memory -/

/-- The device writes bytes into host memory (R314). (DESIGN CHOICE, log 7, safe; DEDUCED, log 16, safe) -/
def State.hostWrite (s : State) (a : Nat) (b : List Byte) : State :=
  if s.hif.busMaster then { s with out := { s.out with hostMem := putBytes s.out.hostMem a b } }
  else { s with hif := { s.hif with waitWrites := s.hif.waitWrites ++ [(a, b)] } }

/-- The reply of the block to a host read. -/
def State.reply (s : State) (r : Reply) : State := { s with out := { s.out with reply := r } }

/-- A host access: without a PCIe link it reaches nothing and has no answer (R345, R349). -/
def State.host (s : State) (k : State → State) : State := if s.hif.linkUp then k s else s.reply .noResponse

/-! ### Cask (R19, R20) -/

/-- First byte of region k (0 Pitch, 1 repair, 2 tap, 3 staging) of quadrant q's Cask, from its layout. -/
def caskBase (layout k : Nat) : Nat := ((List.range k).map fun j => fld layout (8 * j) 8).sum * 2 ^ 30
/-- Size in bytes of region k. -/
def caskSize (layout k : Nat) : Nat := fld layout (8 * k) 8 * 2 ^ 30
/-- The layout of quadrant q. -/
def State.layout (s : State) (q : Nat) : Nat := s.reg .caskRegion [q]
/-- Cask address a of quadrant q in the model's one store. -/
def caskAddr (q a : Nat) : Nat := q * 2 ^ 38 + a
/-- Writes Cask bytes. (DESIGN CHOICE, log 8, unsafe) -/
def State.caskWrite (s : State) (q a : Nat) (b : List Byte) : State := { s with cask := setBytes s.cask (caskAddr q a) b }
/-- Reads Cask bytes. (DESIGN CHOICE, log 8, unsafe) -/
def State.caskRead (s : State) (q a n : Nat) : List Byte := getBytes s.cask (caskAddr q a) n
/-- Wipes a range of the Cask (R21, R359). (DESIGN CHOICE, log 8, unsafe; DEDUCED, log 28, safe) -/
def State.caskWipe (s : State) (q a n : Nat) : State :=
  { s with cask := s.cask.filter fun c => !(caskAddr q a ≤ c.1 && c.1 < caskAddr q a + n) }

end Sys2Proof.Machine
end

