-- ==== Sys2Proof/Machine/Operands.lean ====
section
/-! DEFINITION. The fields of fabric frames (R26 to R36), endpoint identifiers and services (R33, R34), classes and virtual
channels (R46), table keys (R62) and ordering domains (R39). A frame is its bytes from the first byte of DA to the last
before FCS, so its length under R26 is four more. -/
namespace Sys2Proof.Machine

abbrev Frame := List Byte

/-! ### Ethernet -/

/-- Frame length L (R26): DA to FCS. -/
def frameLen (f : Frame) : Nat := f.length + 4
/-- Credits and cells of a frame (R50, R101). -/
def frameCells (f : Frame) : Nat := cdiv (frameLen f) 256
def fDa (f : Frame) : Nat := beAt f 0 6
def fSa (f : Frame) : Nat := beAt f 6 6
def fEtype (f : Frame) : Nat := beAt f 12 2
/-- The I/G bit of DA: a group frame (R28). -/
def fGroup (f : Frame) : Bool := bit (beAt f 0 1) 0

/-- OVDU_ETYPE. -/
def State.ovduEtype (s : State) (q : Nat) : Nat := s.rf .portEtype [q] 0 16
/-- A frame whose EtherType marks it Ovdu (R27, R55). -/
def State.isOvdu (s : State) (q : Nat) (f : Frame) : Bool := fEtype f = s.ovduEtype q

/-! ### The Ovdu header (R30) -/

def oVer (f : Frame) : Nat := fld (beAt f 14 1) 4 4
def oOp (f : Frame) : Nat := fld (beAt f 14 1) 0 4
def oTc (f : Frame) : Nat := fld (beAt f 15 1) 5 3
def oDl (f : Frame) : Bool := bit (beAt f 15 1) 4
def oFence (f : Frame) : Bool := bit (beAt f 15 1) 3
def oLast (f : Frame) : Bool := bit (beAt f 15 1) 2
def oRetry (f : Frame) : Bool := bit (beAt f 15 1) 1
def oEcn (f : Frame) : Bool := bit (beAt f 15 1) 0
def oJob (f : Frame) : Nat := beAt f 16 2
def oFlow (f : Frame) : Nat := beAt f 18 2
def oLen (f : Frame) : Nat := beAt f 20 2
def oSeq (f : Frame) : W32 := BitVec.ofNat 32 (beAt f 22 4)
def oPrecnt (f : Frame) : W32 := BitVec.ofNat 32 (beAt f 26 4)
def oSrc (f : Frame) : Nat := beAt f 30 4
def oDst (f : Frame) : Nat := beAt f 34 4
def oAddr (f : Frame) : Nat := beAt f 38 8
/-- Window number, WIN[63:32]. -/
def oWinNo (f : Frame) : Nat := beAt f 46 4
/-- Access key, WIN[31:0]. -/
def oWinKey (f : Frame) : Nat := beAt f 50 4
/-- Payload bytes. -/
def oPayload (f : Frame) : List Byte := f.drop 62
/-- The frame's ordering domain (R39). -/
def oDom (f : Frame) : Domain := ⟨BitVec.ofNat 32 (oSrc f), BitVec.ofNat 32 (oDst f), BitVec.ofNat 16 (oFlow f)⟩

/-- Replaces DL in a frame. -/
def setDl (f : Frame) (b : Bool) : Frame := patch f 15 [BitVec.ofNat 8 (putFld (beAt f 15 1) 4 1 (b2n b))]
/-- Sets ECN in a frame (R32). -/
def setEcn (f : Frame) : Frame := patch f 15 [BitVec.ofNat 8 (putFld (beAt f 15 1) 0 1 1)]

/-- Opcode values (R35). -/
def opPut : Nat := 1
def opGet : Nat := 2
def opGetResp : Nat := 3
def opAtomic : Nat := 4
def opPutReduce : Nat := 5
def opNotify : Nat := 6
def opAck : Nat := 7
def opNack : Nat := 8
def opLink : Nat := 15
/-- ACK, NACK and GET_RESP: the responses, which are never answered with a NACK (R37). -/
def isResponse (op : Nat) : Bool := op = opGetResp || op = opAck || op = opNack
/-- The opcodes on which FENCE is honoured and departures recorded (R41, R96). -/
def fences (op : Nat) : Bool := op = opPut || op = opGet || op = opAtomic || op = opPutReduce || op = opNotify
/-- Recognised opcodes (R35). -/
def knownOp (op : Nat) : Bool := (1 ≤ op && op ≤ 8) || op = opLink

/-- LEN obeys R35 for its opcode, as the header alone shows. -/
def lenRange (f : Frame) : Bool :=
  let len := oLen f
  let op := oOp f
  if op = opGet then 1 ≤ len && len ≤ 8192
  else if op = opAtomic then len = 24
  else if op = opNotify then len ≤ 64
  else if op = opAck then len = 0
  else if op = opNack then len = 16
  else len ≤ 8192

/-- LEN obeys R35 for its opcode, and the frame is 66 + LEN bytes (66 for GET) (check 9). -/
def lenOk (f : Frame) : Bool := lenRange f && frameLen f = (if oOp f = opGet then 66 else 66 + oLen f)

/-- Check 11: a unicast frame has DST_EID 0, or a group frame has bits [31:16] of DST_EID non-zero. -/
def badDest (f : Frame) : Bool := if fGroup f then oDst f / 65536 ≠ 0 else oDst f = 0

/-- The header of an Ovdu frame to be built. -/
structure Hdr where
  op : Nat
  tc : Nat := 0
  dl : Bool := false
  fence : Bool := false
  last : Bool := true
  retry : Bool := false
  ecn : Bool := false
  job : Nat := 0
  flow : Nat := 0
  len : Nat := 0
  seq : Nat := 0
  precnt : Nat := 0
  src : Nat
  dst : Nat
  addr : Nat := 0
  win : Nat := 0
  group : Bool := false
  deriving DecidableEq, Repr

/-- The bytes of an Ovdu frame without FCS (R28, R30). -/
def mkOvdu (etype : Nat) (h : Hdr) (payload : List Byte) : Frame :=
  (if h.group then [3, 0, 0, 0] ++ beBytes 2 h.dst else [2, 0] ++ beBytes 4 h.dst) ++ [2, 0] ++ beBytes 4 h.src ++
  beBytes 2 etype ++ beBytes 1 (16 + h.op) ++
  beBytes 1 (h.tc * 32 + b2n h.dl * 16 + b2n h.fence * 8 + b2n h.last * 4 + b2n h.retry * 2 + b2n h.ecn) ++
  beBytes 2 h.job ++ beBytes 2 h.flow ++ beBytes 2 h.len ++ beBytes 4 h.seq ++ beBytes 4 h.precnt ++
  beBytes 4 h.src ++ beBytes 4 h.dst ++ beBytes 8 h.addr ++ beBytes 8 h.win ++ zeros 8 ++ payload

/-! ### Endpoint identifiers (R33, R34) -/

def eidDie (e : Nat) : Nat := fld e 8 2
def eidEngine (e : Nat) : Nat := fld e 0 8
/-- SVC_PREFIX, in its place in an EID. -/
def State.svcPrefix (s : State) (q : Nat) : Nat := s.rf .portSvc [q] 10 22 * 1024
/-- An EID of this device's service range: its bits [31:10] equal SVC_PREFIX. -/
def State.isSvcEid (s : State) (q e : Nat) : Bool := fld e 10 22 = s.rf .portSvc [q] 10 22
/-- The service EID of quadrant d and engine e. -/
def State.svcEid (s : State) (d engine : Nat) : Nat := s.svcPrefix d + d * 256 + engine
def svcMash : Nat := 0
def svcPitch : Nat := 1
def svcControl : Nat := 2

/-! ### Classes and virtual channels (R46, R47) -/

/-- Class codes of TC_CLASS. -/
def clsGeneral : Nat := 0
def clsBulk : Nat := 1
def clsCollective : Nat := 2
def clsControl : Nat := 3
/-- Class of a traffic class. -/
def State.tcClass (s : State) (q tc : Nat) : Nat := s.rf .portTcmap [q] (2 * tc) 2
/-- ROLE of a port: 1 leaf, 2 trunk. -/
def State.role (s : State) (p : Nat) : Nat := s.rf .portLink (pix p) 0 2
def State.isLeaf (s : State) (p : Nat) : Bool := s.role p = 1
def State.isTrunk (s : State) (p : Nat) : Bool := s.role p = 2
def State.dateline (s : State) (p : Nat) : Bool := s.rb .portLink (pix p) 2
def State.pvid (s : State) (p : Nat) : Nat := s.rf .portLink (pix p) 3 12

/-- VC of an Ovdu frame of a class on a link (R46). -/
def vcOf (cls : Nat) (leaf dl : Bool) : Nat :=
  if cls = clsControl then 0
  else if cls = clsCollective then (if !leaf && dl then 2 else 1)
  else if cls = clsBulk then (if !leaf && dl then 4 else 3)
  else 5

/-- DL as the frame leaves on port p (R47). -/
def State.dlOut (s : State) (p : Nat) (cls : Nat) (dl : Bool) : Bool :=
  if s.isLeaf p then false
  else if (cls = clsCollective || cls = clsBulk) && s.dateline p then true
  else dl

/-- An outer 802.1Q tag (R55). -/
def tagged (f : Frame) : Bool := fEtype f = 0x8100
/-- VID of a general-class frame on port p. -/
def State.genVid (s : State) (p : Nat) (f : Frame) : Nat := if tagged f then fld (beAt f 14 2) 0 12 else s.pvid p
/-- TC of a general-class frame that arrives in quadrant q. -/
def State.genTc (s : State) (q : Nat) (f : Frame) : Nat :=
  if tagged f then fld (beAt f 14 2) 13 3 else s.rf .portTcmap [q] 16 3
/-- TC of a frame. -/
def State.frameTc (s : State) (q : Nat) (f : Frame) : Nat := if s.isOvdu q f then oTc f else s.genTc q f
/-- Class of a frame: general for every frame that is not Ovdu. -/
def State.frameClass (s : State) (q : Nat) (f : Frame) : Nat :=
  if s.isOvdu q f then s.tcClass q (oTc f) else clsGeneral
/-- VC on which a frame leaves on port p. -/
def State.outVc (s : State) (p : Nat) (f : Frame) : Nat :=
  let q := p / 256
  if s.isOvdu q f then vcOf (s.tcClass q (oTc f)) (s.isLeaf p) (s.dlOut p (s.tcClass q (oTc f)) (oDl f)) else 5

/-! ### Keys and domains (R62, hash inputs of chapter 3) -/

/-- EID key. -/
def eidKey (e : Nat) : W64 := BitVec.ofNat 64 (2 ^ 62 + e)
/-- MAC key. -/
def macKey (vid mac : Nat) : W64 := BitVec.ofNat 64 (2 ^ 63 + vid * 2 ^ 48 + mac)
/-- The hash of a table key. -/
def hashKey (seed : Nat) (k : W64) : Nat := hashH seed (leBytes 8 k.toNat)
/-- The hash of an ordering domain: SRC_EID, DST_EID, FLOW, most significant byte first. -/
def hashDom (seed : Nat) (d : Domain) : Nat :=
  hashH seed (beBytes 4 d.src.toNat ++ beBytes 4 d.dst.toNat ++ beBytes 2 d.flow.toNat)

/-- Serial order (R95): a precedes b. -/
def precedes (a b : W32) : Bool := 1 ≤ (b - a).toNat && (b - a).toNat < 2 ^ 31

/-- Where a service of quadrant d sends from, as an ingress. -/
def srcQuad : IngressSrc → Nat
  | .port p => p.toNat / 256
  | .service q => q.toNat

end Sys2Proof.Machine
end

