-- ==== Sys2Proof/Machine/TableOps.lean ====
section
/-! DEFINITION. The address table: entries and parity (R63, R64), the home store and its hashing (R67, R68), remote caches
(R69 to R71), insertion (R74, R75), parity errors (R85), and the learn side of a source lookup (R79 to R82). -/
namespace Sys2Proof.Machine

abbrev Entry := BitVec 128

/-! ### Entries -/

def eFld (e : Entry) (lo w : Nat) : Nat := fld e.toNat lo w
def eKtype (e : Entry) : Nat := eFld e 126 2
def eStatic (e : Entry) : Bool := bit e.toNat 125
def eHit (e : Entry) : Bool := bit e.toNat 124
def eAged (e : Entry) : Bool := bit e.toNat 123
def eFenced (e : Entry) : Bool := bit e.toNat 122
def eJobAny (e : Entry) : Bool := bit e.toNat 121
def eSeedSel (e : Entry) : Bool := bit e.toNat 120
def eSheaf (e : Entry) : Nat := eFld e 108 10
def eJob (e : Entry) : Nat := eFld e 92 16
def eKey (e : Entry) : W64 := BitVec.ofNat 64 (eFld e 0 64)
def eValid (e : Entry) : Bool := eKtype e ≠ 0

/-- The number of ones among the bits j of an entry with j mod 8 = i. -/
def classOnes (v i : Nat) : Nat := ((List.range 16).map fun k => (v >>> (8 * k + i)) % 2).sum

/-- R64: every class of eight holds an even number of ones. -/
def parityOk (e : Entry) : Bool := (List.range 8).all fun i => classOnes e.toNat i % 2 = 0

/-- Sets PARITY, as on every write to an entry. -/
def withParity (e : Entry) : Entry :=
  let v := putFld e.toNat 80 8 0
  BitVec.ofNat 128 (putFld v 80 8 (((List.range 8).map fun i => classOnes v i % 2 * 2 ^ i).sum))

/-- Replaces a field of an entry and renews its parity. -/
def eSet (e : Entry) (lo w x : Nat) : Entry := withParity (BitVec.ofNat 128 (putFld e.toNat lo w x))

/-- A learned entry: STATIC 0, JOB_ANY 1, FENCED 0 (R79), HIT set by the source match that made it.
(DEDUCED, log 31, unsafe) -/
def learnedEntry (key : W64) (sheaf : Nat) (sel : Bool) : Entry :=
  withParity (BitVec.ofNat 128 (fld key.toNat 62 2 <<< 126 + 1 <<< 124 + 1 <<< 121 + b2n sel <<< 120 + sheaf <<< 108 + key.toNat))

/-! ### The home store (R67) -/

/-- Home quadrant of a key, by the seed that quadrant q holds. -/
def State.homeOf (s : State) (q : Nat) (k : W64) : Nat := hashKey (s.rf .tblSeeds [q] 0 16) k % 4

/-- The two candidate buckets under a seed set. -/
def bucketsOf (seed1 seed2 : Nat) (k : W64) : Nat × Nat :=
  let b1 := hashKey seed1 k % 2 ^ 21
  let b2 := hashKey seed2 k % 2 ^ 21
  (b1, if b2 = b1 then b1 ^^^ 1 else b2)

/-- Candidate buckets under the active set of home h. -/
def State.buckets (s : State) (h : Nat) (k : W64) : Nat × Nat :=
  bucketsOf (s.rf .tblBucket [h] 0 16) (s.rf .tblBucket [h] 16 16) k

/-- SEEDSEL of the active set. (DEDUCED, log 32, unsafe) -/
def State.seedSel (s : State) (h : Nat) : Bool := (s.table h).seedSel

def homeKey (h b w : Nat) : Nat := (h * 2 ^ 21 + b) * 4 + w
def State.way (s : State) (h b w : Nat) : Entry := SMap.get s.home (homeKey h b w) 0
def State.setWay (s : State) (h b w : Nat) (e : Entry) : State := { s with home := SMap.set s.home (homeKey h b w) e 0 }

/-- The TABLE record of a parity error (R85). -/
def State.parityRecord (s : State) (q : Nat) (cache : Bool) (place way : Nat) (static : Bool) : State :=
  (s.countQuad q (if cache then 38 else 37)).errorAt 0x02 sevContained (BitVec.ofNat 8 q)
    [(32, leBytes 1 (b2n cache)), (36, leBytes 4 place), (40, leBytes 1 way), (41, leBytes 1 (b2n static))]

/-- Replies and invalidates of home h that have reached quadrant q, in the order in which h sent them (R71). -/
def State.chanOf (s : State) (h q : Nat) : List TblMsg := SMap.get s.chan (4 * h + q) []
def State.setChan (s : State) (h q : Nat) (l : List TblMsg) : State := { s with chan := SMap.set s.chan (4 * h + q) l [] }
/-- A message from quadrant x to quadrant y waits for a message flit of their direction (R278). (DEDUCED, log 47, safe) -/
def State.postMsg (s : State) (x y : Nat) (m : XMsg) : State :=
  if x = y then s else s.updDir x y fun d => { d with outMsgs := d.outMsgs ++ [m] }
/-- Home h sends quadrant q a reply or an invalidate (R71). -/
def State.send (s : State) (h q : Nat) (m : TblMsg) : State := s.postMsg h q (.table m)

/-- A change at home h to the entry of a key: an invalidate to the other three quadrants (R71), less those held in block
reset, which hold no copy. -/
def State.invalidateAll (s : State) (h : Nat) (key : W64) (cmd : Option CmdRef) : State :=
  (List.range 4).foldl (fun s q =>
    if q = h || bit s.rst.quadInReset.toNat q then s else s.send h q (.invalidate key cmd)) s

/-- Reads one way with its parity check: an entry that fails it is invalidated and recorded (R85). -/
def State.readWay (s : State) (h b w : Nat) : State × Entry :=
  let e := s.way h b w
  if parityOk e then (s, e)
  else (((s.setWay h b w 0).invalidateAll h (eKey e) none).parityRecord h false b w (eStatic e), 0)

/-- Reads the four ways of a bucket, and answers the first that `p` admits. -/
def State.readBucket (s : State) (h b : Nat) (p : Entry → Bool) : State × Option (Nat × Nat × Entry) :=
  (List.range 4).foldl (fun acc w =>
    let r := acc.1.readWay h b w
    (r.1, acc.2.or (if p r.2 then some (b, w, r.2) else none))) (s, none)

/-- The candidate places of a key with the SEEDSEL each requires: the active set and, during a rehash walk, the outgoing
one (R68). -/
def State.places (s : State) (h : Nat) (key : W64) : List (Nat × Option Bool) :=
  let a := s.buckets h key
  match (s.table h).rehash with
  | none => [(a.1, none), (a.2, none)]
  | some (_, o1, o2) =>
    let o := bucketsOf o1.toNat o2.toNat key
    let sel := s.seedSel h
    [(a.1, some sel), (a.2, some sel), (o.1, some !sel), (o.2, some !sel)]

/-- The home lookup of a key (R68): bucket, way and entry. -/
def State.homeFind (s : State) (h : Nat) (key : W64) : State × Option (Nat × Nat × Entry) :=
  (s.places h key).foldl (fun acc pl =>
    let r := acc.1.readBucket h pl.1 fun e =>
      eKtype e = fld key.toNat 62 2 && eKey e = key && (match pl.2 with | none => true | some sel => eSeedSel e = sel)
    (r.1, acc.2.or r.2)) (s, none)

/-- The entry of a key as its home holds it, read from quadrant q past every cache. -/
def State.homeEntry (s : State) (q : Nat) (key : W64) : State × Option Entry :=
  let r := s.homeFind (s.homeOf q key) key
  (r.1, r.2.map (·.2.2))

/-! ### The order of changes at a home (R73) -/

/-- A change of rank `r` (0 a host record, 1 a sweeper removal, 2 a learn) to a key cannot fall any more in this CLK_CORE cycle:
one that R73 puts after it has already changed the key in the cycle. (DEDUCED, log 31, unsafe) -/
def State.changeHeld (s : State) (h : Nat) (key : W64) (r : Nat) : Bool :=
  (s.table h).changedAt = s.time.core && (s.table h).changed.any fun c => c.1 = key && r < c.2
/-- A change of rank `r` to a key falls in this cycle. -/
def State.noteChange (s : State) (h : Nat) (key : W64) (r : Nat) : State :=
  let now := s.time.core
  s.updTable h fun t => { t with changedAt := now, changed := (if t.changedAt = now then t.changed else []) ++ [(key, r)] }

/-! ### Insertion (R74, R75) -/

/-- The first free way of a bucket, after its parity check. -/
def State.freeWay (s : State) (h b : Nat) : State × Option Nat :=
  let r := s.readBucket h b fun e => !eValid e
  (r.1, r.2.map (·.2.1))

/-- The candidate bucket of an entry that is not b, under the active set. (DESIGN CHOICE, log 85, unsafe) -/
def State.altBucket (s : State) (h : Nat) (e : Entry) (b : Nat) : Nat :=
  let c := s.buckets h (eKey e)
  if c.1 = b then c.2 else c.1

/-- The search from one start: the moves made so far, last first, each a bucket, way and the entry read there. -/
def State.pathFrom (s : State) (h : Nat) : Nat → Nat → Nat → List (Nat × Nat × Entry) →
    State × Option (List (Nat × Nat × Entry) × Nat × Nat)
  | 0, _, _, _ => (s, none)
  | n + 1, m, b, path =>
    let w := m % 4
    if path.any fun x => x.1 = b && x.2.1 = w then (s, none)
    else
      let r := s.readWay h b w
      let path := (b, w, r.2) :: path
      let b' := r.1.altBucket h r.2 b
      let f := r.1.freeWay h b'
      match f.2 with
      | some w' => (f.1, some (path, b', w'))
      | none => f.1.pathFrom h n (m + 1) b' path

/-- Writes an entry into a way under the active seed set. -/
def State.place (s : State) (h b w : Nat) (e : Entry) : State := s.setWay h b w (eSet e 120 1 (b2n (s.seedSel h)))

/-- Moves the victims, last first, each into the way freed before it, and puts e last (R74). -/
def State.applyMoves (s : State) (h : Nat) (cmd : Option CmdRef) : List (Nat × Nat × Entry) → Nat → Nat → Entry → State
  | [], b, w, e => s.place h b w e
  | (vb, vw, v) :: r, b, w, e => ((s.place h b w v).invalidateAll h (eKey v) cmd).applyMoves h cmd r vb vw e

/-- Inserts an entry at its home; `none` when the insertion fails, which leaves the table as it was.
(DEDUCED, log 32, unsafe) -/
def State.insertEntry (s : State) (h : Nat) (e : Entry) (cmd : Option CmdRef) : State × Bool :=
  let c := s.buckets h (eKey e)
  let f1 := s.freeWay h c.1
  match f1.2 with
  | some w => ((f1.1.place h c.1 w e).invalidateAll h (eKey e) cmd, true)
  | none =>
    let f2 := f1.1.freeWay h c.2
    match f2.2 with
    | some w => ((f2.1.place h c.2 w e).invalidateAll h (eKey e) cmd, true)
    | none =>
      let p1 := f2.1.pathFrom h 8 0 c.1 []
      match p1.2 with
      | some (path, b, w) => ((p1.1.applyMoves h cmd path b w e).invalidateAll h (eKey e) cmd, true)
      | none =>
        let p2 := p1.1.pathFrom h 8 0 c.2 []
        match p2.2 with
        | some (path, b, w) => ((p2.1.applyMoves h cmd path b w e).invalidateAll h (eKey e) cmd, true)
        | none => (p2.1, false)

/-- A failed insertion: counted, with a rehash request event at most once per millisecond (R75). (DEDUCED, log 32, unsafe) -/
def State.insertFailed (s : State) (h : Nat) (key : W64) : State :=
  let t := s.table h
  let n := t.failures + 1
  let open_ : Bool := match t.lastRehashEv with | none => true | some at_ => at_ + 2000000 ≤ s.time.core
  if open_ then
    (s.updTable h fun t => { t with failures := 0, lastRehashEv := some s.time.core }).event 0x02
      [(16, leBytes 1 h), (24, leBytes 8 key.toNat), (32, leBytes 4 n)]
  else s.updTable h fun t => { t with failures := n }

/-- Removes the entry of a place, with its invalidate. -/
def State.removeAt (s : State) (h b w : Nat) (cmd : Option CmdRef) : State :=
  (s.setWay h b w 0).invalidateAll h (eKey (s.way h b w)) cmd

/-! ### Remote caches (R69 to R71) -/

def State.cacheSet (s : State) (q : Nat) (key : W64) : Nat := hashKey (s.rf .tblCache [q] 0 16) key % 2 ^ 18
def cacheKey (q set w : Nat) : Nat := (q * 2 ^ 18 + set) * 4 + w

/-- The cached copy of a key in quadrant q: its way and line. A copy that fails its parity is dropped and recorded. -/
def State.cacheFind (s : State) (q : Nat) (key : W64) : State × Option (Nat × CacheLine) :=
  let set := s.cacheSet q key
  (List.range 4).foldl (fun acc w =>
    match SMap.find acc.1.cache (cacheKey q set w) with
    | none => acc
    | some l =>
      if parityOk l.entry then
        (acc.1, acc.2.or (if eKey l.entry = key && eKtype l.entry = fld key.toNat 62 2 then some (w, l) else none))
      else
        (({ acc.1 with cache := SMap.erase acc.1.cache (cacheKey q set w) }).parityRecord q true set w (eStatic l.entry),
          acc.2)) (s, none)

/-- Installs a fill in the way after the one last filled (R69). (DEDUCED, log 34, safe) -/
def State.cacheInstall (s : State) (q : Nat) (e : Entry) : State :=
  let set := s.cacheSet q (eKey e)
  let w := match SMap.find s.cacheFill (q * 2 ^ 18 + set) with | none => 0 | some l => (l + 1) % 4
  { s with cache := SMap.put s.cache (cacheKey q set w) { entry := e },
           cacheFill := SMap.put s.cacheFill (q * 2 ^ 18 + set) w }

/-- Drops the copies of a key from its set, whose lines are read with their parity check. -/
def State.cacheDrop (s : State) (q : Nat) (key : W64) : State :=
  let r := (s.cacheFind q key).1
  { r with cache := r.cache.filter fun x => x.1 / 4 ≠ q * 2 ^ 18 + s.cacheSet q key || eKey x.2.entry ≠ key }

/-- Re-arms quadrant q's copy of a key, read with its parity check (R81). -/
def State.cacheRearm (s : State) (q : Nat) (key : W64) : State :=
  let r := s.cacheFind q key
  match r.2 with
  | some (w, l) => { r.1 with cache := SMap.put r.1.cache (cacheKey q (s.cacheSet q key) w) { l with refreshed := false } }
  | none => r.1

/-- Clears quadrant q's remote cache. -/
def State.cacheClear (s : State) (q : Nat) : State := { s with cache := s.cache.filter fun x => x.1 / 2 ^ 20 ≠ q }

/-- Quadrant q drops its copies of entries homed in h; a copy that fails its parity is dropped and recorded (R85, R354). -/
def State.cacheUnhome (s : State) (q h : Nat) : State :=
  let mine := s.cache.filter fun x => x.1 / 2 ^ 20 = q
  let bad := mine.filter fun x => !parityOk x.2.entry
  let s := { s with cache := s.cache.filter fun x => x.1 / 2 ^ 20 ≠ q || (parityOk x.2.entry && s.homeOf q (eKey x.2.entry) ≠ h) }
  bad.foldl (fun (s : State) x => s.parityRecord q true (x.1 / 4 % 2 ^ 18) (x.1 % 4) (eStatic x.2.entry)) s

/-! ### Lookups -/

/-- What a lookup finds: an entry, nothing, or a wait for the home's reply (R70). -/
inductive Found where
  | hit (e : Entry)
  | miss
  | wait
  deriving DecidableEq, Repr

/-- Quadrant q asks the home for a key (R70). -/
def State.askHome (s : State) (h q : Nat) (key : W64) : State := s.postMsg q h (.request key)
/-- The home answers a request of quadrant q on their ordered channel (R70, R71). (DEDUCED, log 34, safe) -/
def State.answerHome (s : State) (h q : Nat) (key : W64) : State :=
  let r := s.homeFind h key
  r.1.send h q (.reply key (r.2.map (·.2.2)))

/-- The lookup of a key in quadrant q (R68 to R70, R354). (DEDUCED, log 34, safe) -/
def State.lookup (s : State) (q : Nat) (key : W64) : State × Found :=
  let h := s.homeOf q key
  if h = q then
    let r := s.homeFind h key
    (r.1, match r.2 with | some (_, _, e) => .hit e | none => .miss)
  else
    let r := s.cacheFind q key
    match r.2 with
    | some (_, l) => (r.1, .hit l.entry)
    | none => if bit s.rst.quadInReset.toNat h then (r.1, .miss) else (r.1.askHome h q key, .wait)

/-! ### Learning (R79 to R82) -/

/-- HIT of a key as it stood before the refreshes of this CLK_CORE cycle, if there were any (R84). -/
def State.hitBefore (s : State) (h : Nat) (key : W64) : Option Bool :=
  if (s.table h).refreshedAt = s.time.core then ((s.table h).refreshed.find? (·.1 = key)).map (·.2) else none

/-- Sets HIT of the home entry of a key. A visit of the sweeper in the same cycle comes before it (R84). -/
def State.refreshHome (s : State) (h : Nat) (key : W64) : State :=
  let r := s.homeFind h key
  match r.2 with
  | none => r.1
  | some (b, w, e) =>
    let now := s.time.core
    let s := r.1.setWay h b w (eSet e 124 1 1)
    if (s.hitBefore h key).isSome then s
    else s.updTable h fun t =>
      { t with refreshedAt := now, refreshed := (if t.refreshedAt = now then t.refreshed else []) ++ [(key, eHit e)] }

/-- Learn tokens of a port at CLK_CORE cycle `now`, filled since its last request at `kps` (R82). -/
def learnFill (now kps : Nat) (x : PortSt) : Nat := min 128000000 (x.learnTok + (now - x.learnAt) * kps)
/-- The ports of quadrant q fill their tokens up to now, at the rate that a write is about to replace (R82). -/
def State.settleLearn (s : State) (q : Nat) : State :=
  let kps := s.rf .tblLearn [q] 16 16
  { s with ports := s.ports.map fun x =>
      if x.1 / 256 = q then (x.1, { x.2 with learnTok := learnFill s.time.core kps x.2, learnAt := s.time.core }) else x }

/-- A learn or move request reaches its home: merged with a queued one of its key, queued, or dropped (R82). -/
def State.learnArrive (s : State) (h : Nat) (r : LearnReq) : State :=
  if (s.table h).queue.any (·.key = r.key) then
    s.updTable h fun t => { t with queue := updWhere t.queue (·.key = r.key) fun x => { x with sheaf := r.sheaf } }
  else if 4096 ≤ (s.table h).queue.length then s.countQuad h 33
  else s.updTable h fun t => { t with queue := t.queue ++ [{ r with since := s.time.core }] }

/-- Submits a learn or move request from port p (R82, R354). (DEDUCED, log 31, unsafe) -/
def State.learnRequest (s : State) (p : Nat) (key : W64) (sheaf : Nat) (move : Bool) : State :=
  let q := p / 256
  let kps := s.rf .tblLearn [q] 16 16
  let tok := learnFill s.time.core kps (s.port p)
  if kps = 0 ∨ tok < 2000000 then
    (s.updPort p fun x => { x with learnTok := tok, learnAt := s.time.core }).countPort p 134
  else
    let s := s.updPort p fun x => { x with learnTok := tok - 2000000, learnAt := s.time.core }
    let h := s.homeOf q key
    let r : LearnReq := ⟨key, sheaf, move, p, s.time.core⟩
    if bit s.rst.quadInReset.toNat h then s.countQuad q 33
    else if q = h then s.learnArrive h r
    else s.postMsg q h (.learn r)

/-- The source lookup's entry in quadrant q, without a fill; a bad cached copy is dropped and the lookup repeated at home
(R85). -/
def State.sourceFind (s : State) (q : Nat) (key : W64) : State × Option Entry :=
  let h := s.homeOf q key
  if h = q then
    let r := s.homeFind h key
    (r.1, r.2.map (·.2.2))
  else
    let r := s.cacheFind q key
    match r.2 with
    | some (_, l) => (r.1, some l.entry)
    | none =>
      if r.1.cache.length < s.cache.length && !bit s.rst.quadInReset.toNat h then r.1.homeEntry q key else (r.1, none)

/-- A refresh: HIT at home, or one message per cached copy between re-arms (R81). (DEDUCED, log 31, unsafe) -/
def State.refresh (s : State) (q : Nat) (key : W64) : State :=
  let h := s.homeOf q key
  if h = q then s.refreshHome h key
  else
    let set := s.cacheSet q key
    let r := s.cacheFind q key
    match r.2 with
    | none => r.1.postMsg q h (.refresh key)
    | some (w, l) =>
      if l.refreshed then r.1
      else { r.1 with cache := SMap.put r.1.cache (cacheKey q set w) { l with refreshed := true } }.postMsg q h (.refresh key)

/-- The action of a source lookup on port p of a sheaf (R80). (DEDUCED, log 31, unsafe) -/
def State.learnFrom (s : State) (p : Nat) (key : W64) (sheaf : Nat) : State :=
  let q := p / 256
  let r := s.sourceFind q key
  match r.2 with
  | none => if s.rb .tblLearn [q] 0 then r.1.learnRequest p key sheaf false else r.1
  | some e =>
    if eSheaf e = sheaf then r.1.refresh q key
    else if eStatic e then r.1.countPort p 135
    else r.1.learnRequest p key sheaf true

/-- The sheaf a port belongs to, if any (R90). -/
def State.sheafOfPort (s : State) (p : Nat) : Option Nat := (s.sheaves.find? fun x => x.2.ports.contains p).map (·.1)

/-- The replies and invalidates of homes that have not been taken: arrived, waiting for a flit, on their way or kept for a
replay, or ahead of their order. -/
def State.msgs (s : State) : List TblMsg :=
  let of (ms : List XMsg) : List TblMsg := ms.filterMap fun m => match m with | .table t => some t | _ => none
  let open_ (k : Nat) (m : W16) : Bool := (m - (SMap.get s.dirs (k / 64) {}).mseqExpect).toNat < 32768
  s.chan.flatMap (·.2) ++ s.dirs.flatMap (fun x => of x.2.outMsgs ++ x.2.early.flatMap fun e => of e.2) ++
    s.bundles.flatMap fun x => (x.2.flight ++ x.2.kept).flatMap fun f =>
      match f.body with | .message m ms => if open_ x.1 m then of ms else [] | _ => []

/-- Completes the table commands whose invalidates have all been dropped everywhere (R72). (DEDUCED, log 33, unsafe) -/
def State.tblSettle (s : State) : State :=
  let busy (c : CmdRef) : Bool := s.msgs.any fun m => match m with | .invalidate _ (some r) => r = c | _ => false
  let ready := s.tblWait.filter fun x => !busy x.1
  let s := { s with tblWait := s.tblWait.filter fun x => busy x.1 }
  ready.foldl (fun s x => s.complete x.1 .success x.2.1) s

end Sys2Proof.Machine
end

