-- ==== Sys2Proof/Machine/Time.lean ====
section
/-! DEFINITION. The time unit (R293 to R304): the counter, steps, the two domains, the servo, the 1PPS output and the snapshot.
Offsets are kept in units of 2^-32 ns. -/
namespace Sys2Proof.Machine

/-! ### The counter -/

/-- R294: INCR held inside 1 ns ± 2^-10 ns, and whether it was clamped. (DEDUCED, log 59, safe) -/
def clampIncr (v : Int) : W64 × Bool :=
  if v < 0xFFC00000 then (0xFFC00000, true)
  else if v > 0x100400000 then (0x100400000, true)
  else (BitVec.ofInt 64 v, false)

/-- Puts an increment in force. (DEDUCED, log 59, safe) -/
def State.setIncr (s : State) (v : Int) : State :=
  let c := clampIncr v
  { s with time := { s.time with incr := c.1, clamped := s.time.clamped || c.2 } }

/-- The 96-bit device time. -/
def State.time96 (s : State) : Nat := s.time.ns.toNat * 2 ^ 32 + s.time.frac.toNat

/-- The time unit's clock runs: not while a system or power-on reach stands before its step 3 (R348). -/
def State.timeRuns (s : State) : Bool := !(s.sysHeld && s.rst.step < 3)

/-- OUT_OFFSET_NS; values above 999,999,999 are treated as 999,999,999. -/
def State.ppsOffset (s : State) : Nat := min 999999999 (s.rf .timePpsout [] 0 30)
/-- WIDTH_US: 0 is treated as 1, and 999,999 is the most (R304). -/
def State.ppsWidth (s : State) : Nat := min 999999 (max 1 (s.rf .timePpsw [] 0 20))
/-- The last whole second plus OUT_OFFSET_NS at or before a TIME_NS, by its k (R304). -/
def State.ppsCount (s : State) (ns : Nat) : Int := ((ns : Int) - s.ppsOffset) / 10 ^ 9

/-- One CLK_TIME cycle: device time advances by INCR and FREE by 1 (R293, R295). -/
def State.timeCycle (s : State) : State :=
  let t := (s.time96 + s.time.incr.toNat) % 2 ^ 96
  { s with time := { s.time with
      ns := BitVec.ofNat 64 (t / 2 ^ 32), frac := BitVec.ofNat 32 t, free := s.time.free + 1,
      ppsDue := s.ppsCount s.time.ns.toNat < s.ppsCount (t / 2 ^ 32) } }

/-- One CLK_CORE cycle of the block: every second one ends a CLK_TIME cycle and with it the errors detected in it (R2, R370).
(DESIGN CHOICE, log 2, safe) -/
def State.tick (s : State) : State :=
  let s := if s.time.core % 2 = 1 then s.takeErrors else s
  let s := { s with time := { s.time with core := s.time.core + 1 } }
  if s.time.core % 2 = 0 && s.timeRuns then s.timeCycle else s

/-! ### Steps and increments from the host -/

/-- A scheduled launch whose time a step has passed is missed (R297, R311): RESULT byte 0 is the cause.
(DEDUCED, log 60, unsafe) -/
def State.launchMissed (s : State) (l : Launch) (cause : Nat) : State :=
  ({ s with launches := s.launches.filter (· ≠ l) }).complete l.cmd .missed (leBytes 1 cause)

/-- STEP_GO, accepted while STEP_OK is 1; the step makes no 1PPS edge (R296, R297). -/
def State.goStep (s : State) : State :=
  if !s.time.stepOk then s.ignoredWrite
  else
    let ns := s.time.ns + BitVec.ofNat 64 (s.reg64 .timeStep [])
    let skip := s.time.ns.toNat / 10 ^ 9 ≠ ns.toNat / 10 ^ 9
    let s := { s with time := { s.time with ns := ns, stepOk := false, ppsSkip := s.time.ppsSkip || skip, ppsDue := false } }
    (s.launches.filter fun l => l.t < ns.toNat).foldl (fun s l => s.launchMissed l 3) s

/-- STEP_REARM, accepted while no port is armed (R296). -/
def State.rearmStep (s : State) : State :=
  if s.anyArmed then s.ignoredWrite else { s with time := { s.time with stepOk := true } }

/-- STEP_GO. -/
def execStepGo (s : State) : Res := done (s.host (·.goStep))
/-- STEP_REARM. -/
def execStepRearm (s : State) : Res := done (s.host (·.rearmStep))

/-- SERVO_EN. (DEDUCED, log 59, safe) -/
def State.servoEn (s : State) : Bool := s.rb .timeCtrl [] 2

/-- A host write of TIME_INCR (R294, R298); bits [63:33] are reserved. -/
def State.writeIncr (s : State) (v : Nat) : State := if s.servoEn then s.ignoredWrite.countDev 3 else s.setIncr (v % 2 ^ 33 : Nat)

def execTimeIncrWrite (v : W64) (s : State) : Res := done (s.host (·.writeIncr v.toNat))

/-- SNAP (R308). -/
def execSnap (s : State) : Res :=
  done (s.host fun s => { s with time := { s.time with snapNs := s.time.ns, snapFrac := s.time.frac, snapFree := s.time.free } })

/-! ### The domains -/

def State.dom (s : State) (d : BitVec 1) : TimeDom := if d = 0 then s.time.domA else s.time.domB
def State.updDom (s : State) (d : BitVec 1) (f : TimeDom → TimeDom) : State :=
  if d = 0 then { s with time := { s.time with domA := f s.time.domA } }
  else { s with time := { s.time with domB := f s.time.domB } }
/-- The active domain: TIME_CTRL.ACTIVE. -/
def State.activeDom (s : State) : BitVec 1 := BitVec.ofNat 1 (s.rf .timeCtrl [] 0 1)

/-- R300's encoding of a domain's state. -/
def DomState.code : DomState → Nat
  | .absent => 0 | .acquiring => 1 | .valid => 2 | .lost => 3

/-- Raises a TIME event (R300, R303). -/
def State.timeEvent (s : State) (d : BitVec 1) (st : DomState) (auto : Bool) : State :=
  s.event 0x06 [(16, leBytes 1 d.toNat), (17, leBytes 1 st.code), (18, leBytes 1 (b2n auto))]

/-- Whole seconds from the last accepted edge, where the edge is accepted: n = 1 or 2 (R299). (DEDUCED, log 57, safe) -/
def edgeSpan (last free : Nat) : Option Nat :=
  let d := free - last
  if 10 ^ 9 - 200000 ≤ d ∧ d ≤ 10 ^ 9 + 200000 then some 1
  else if 2 * 10 ^ 9 - 400000 ≤ d ∧ d ≤ 2 * 10 ^ 9 + 400000 then some 2
  else none

/-- A quotient of whole units: exact where it is whole, else the unit below or the one above it, which the manual leaves open
(R301, R307). (DESIGN CHOICE, log 58, safe) -/
def signedQuot (num : Int) (den : Nat) : Int :=
  if num % den = 0 then num / den else num / den + if Config.roundUp num den then 1 else 0
/-- As `signedQuot`, of natural numbers. -/
def rateQuot (num den : Nat) : Nat := if den = 0 then 0 else (signedQuot num den).toNat

/-- The message timestamp point of a frame at a port (R305): device time in 2^-32 ns and FREE at the connector face, from the moment
its first bit passes the PCS; `out` for a frame sent. -/
def State.stampAt (s : State) (p : Nat) (out : Bool) : Nat × Nat :=
  let lat := if out then (s.port p).txLat.toNat else (s.port p).rxLat.toNat
  if out then ((s.time96 + lat * 2 ^ 28) % 2 ^ 96, (s.time.free.toNat + rateQuot lat 16) % 2 ^ 64)
  else ((s.time96 + 2 ^ 96 - lat * 2 ^ 28) % 2 ^ 96, (s.time.free.toNat + 2 ^ 64 - rateQuot lat 16) % 2 ^ 64)

/-- rate_d over the accepted edges kept, newest first (R301). (DESIGN CHOICE, log 58, safe) -/
def rateOf (edges : List (Nat × Nat)) : Nat :=
  match edges.head?, edges.getLast? with
  | some a, some b => rateQuot (10 ^ 9 * (a.2 - b.2) * 2 ^ 32) (a.1 - b.1)
  | _, _ => 0

/-- OFFSET of a captured time in units of 2^-32 ns, in (-0.5 s, +0.5 s] (R301). -/
def offsetOf (c : Nat) : Int :=
  let sec := 10 ^ 9 * 2 ^ 32
  if 2 * (c % sec) ≤ sec then ((c % sec : Nat) : Int) else (c % sec : Nat) - (sec : Nat)

/-- Rounding to the nearest whole number; a tie is left open. (DESIGN CHOICE, log 58, safe) -/
def roundNear (num : Int) (den : Nat) : Int :=
  let r := num % den
  if 2 * r = den then signedQuot num den else if 2 * r < den then num / den else num / den + 1

/-- MAX_SLEW_PPB, above 500,000 treated as 500,000. -/
def State.maxSlew (s : State) : Nat := min 500000 (s.rf .timeSlew [] 0 20)

/-- The increment of R302 from OFFSET, rate_d, INCR at the edge and S. (DESIGN CHOICE, log 58, safe) -/
def servoIncr (off : Int) (rate incr slew : Nat) : Int :=
  let oa := off - ((rate : Int) - incr) * 2 ^ 24
  let lim : Int := slew * 2 ^ 32
  let corr := if oa > lim then lim else if oa < -lim then -lim else oa
  rate - roundNear corr (10 ^ 9 - 2 ^ 24)

/-- The reference edge of a domain moves to the present. (DEDUCED, log 57, safe) -/
def markEdge (d : TimeDom) (ns : W64) (frac : W32) (free : Nat) (edges : List (Nat × Nat)) : TimeDom :=
  { d with lastFree := some free, edges := edges.take 8, capNs := ns,
           capFrac := BitVec.ofNat 32 (frac.toNat / 2 ^ 29 * 2 ^ 29) }

/-- PPS_EDGE: a qualified edge of domain d at the present device time (R299 to R303). (DEDUCED, log 57, safe) -/
def execPpsEdge (d : BitVec 1) (s : State) : Res :=
  let x := s.dom d
  let free := s.time.free.toNat
  let mark (x : TimeDom) (edges : List (Nat × Nat)) : TimeDom := markEdge x s.time.ns s.time.frac free edges
  let start (x : TimeDom) : TimeDom := { mark x [(free, 0)] with state := .acquiring, good := 1 }
  match x.state with
  | .absent | .lost => done (s.updDom d fun x => { start x with accepted := x.accepted + 1 })
  | st =>
    match x.lastFree.bind (edgeSpan · free) with
    | none =>
      let rej (x : TimeDom) : TimeDom := { x with rejected := satTo 65535 (x.rejected + 1) }
      done (s.updDom d fun x => if st = .acquiring then start (rej x) else rej x)
    | some n =>
      let sec := (x.edges.head?.map (·.2)).getD 0 + n
      let s := s.updDom d fun x => { mark x ((free, sec) :: x.edges) with accepted := x.accepted + 1 }
      if st = .acquiring then
        let good := x.good + 1
        let s := s.updDom d fun x => { x with good := good, state := if good = 4 then .valid else .acquiring }
        done (if good = 4 then s.timeEvent d .valid false else s)
      else
        let c := (s.dom d).capNs.toNat * 2 ^ 32 + (s.dom d).capFrac.toNat
        let off := offsetOf c
        let rate := rateOf (s.dom d).edges
        let s := s.updDom d fun x =>
          { x with offset := off, rate := rate, freqPpb := signedQuot (((rate : Int) - 2 ^ 32) * 10 ^ 9) (2 ^ 32) }
        if d ≠ s.activeDom then done s
        else
          let s := { s with time := { s.time with activeNow := d, holdover := false,
                                                  switching := s.time.switching && !(off.natAbs < 2 * 2 ^ 32) } }
          done (if s.servoEn && s.hif.fwReady then
            let inc := servoIncr off rate s.time.incr.toNat s.maxSlew
            { s with time := { s.time with staged := some (free + 2 ^ 24, (clampIncr inc).1),
                                           clamped := s.time.clamped || (clampIncr inc).2 } }
          else s)

/-- DOMAIN_EDGE_TIMEOUT: no accepted edge of domain d for 2.1 s (R300, R303). (DEDUCED, log 57, safe) -/
def execDomainEdgeTimeout (d : BitVec 1) (s : State) : Res :=
  match (s.dom d).state with
  | .acquiring => done (s.updDom d fun x => { x with state := .absent, good := 0, lastFree := none, edges := [] })
  | .valid =>
    let s := s.updDom d fun x => { x with state := .lost, lastFree := none, edges := [] }
    if d ≠ s.activeDom then done (s.timeEvent d .lost false)
    else if s.rb .timeCtrl [] 1 && (s.dom (d + 1)).state = .valid then
      let s := s.setRf .timeCtrl [] 0 1 (d + 1).toNat
      done ({ s with time := { s.time with switching := true, staged := none } }.timeEvent d .lost true)
    else
      let s := { s with time := { s.time with holdover := true, staged := none } }
      done ((if s.servoEn && s.hif.fwReady then s.setIncr (s.dom d).rate else s).timeEvent d .lost false)
  | _ => done s

/-- SERVO_APPLY: the staged INCR comes into force (R302, R298). (DEDUCED, log 59, safe) -/
def execServoApply (s : State) : Res :=
  match s.time.staged with
  | none => done s
  | some (_, v) =>
    let s := { s with time := { s.time with staged := none } }
    done (if s.servoEn && s.hif.fwReady then s.setIncr v.toNat else s)

/-- ACTIVE_WRITE: the host names the active domain. What the servo staged for the other is gone, so that INCR does not change until
the new domain's next edge; a domain that is not VALID is held over (R303). (DEDUCED, log 57, safe) -/
def execActiveWrite (d : BitVec 1) (s : State) : Res :=
  done (s.host fun s => if d = s.activeDom then s
    else
      let held := s.time.holdover || (s.dom d).state ≠ .valid
      ({ s with time := { s.time with switching := true, staged := none, holdover := held } }).setRf .timeCtrl [] 0 1 d.toNat)

/-! ### 1PPS output (R304) -/

/-- PPS_OUT_CROSSING, in the CLK_TIME cycle in which TIME_NS crosses a whole second plus OUT_OFFSET_NS by its own advance; in
another cycle there is no crossing. (DEDUCED, log 59, safe) -/
def execPpsOutCrossing (s : State) : Res :=
  done (if s.rb .timeCtrl [] 3 && s.time.ppsDue then
    { s with time := { s.time with ppsHigh := true, ppsDue := false, ppsSince := s.time.free.toNat } } else s)

/-- PPS_OUT_PULSE_END: the pulse has been high for WIDTH_US microseconds; before that it stays high.
(DEDUCED, log 59, safe) -/
def execPpsOutPulseEnd (s : State) : Res :=
  done (if 1000 * s.ppsWidth ≤ s.time.free.toNat - s.time.ppsSince then { s with time := { s.time with ppsHigh := false } } else s)

end Sys2Proof.Machine
end

