-- ==== Sys2Proof/Machine/TapOps.lean ====
section
/-! DEFINITION. What watches frames without touching them: PTP recognition (R306), match blocks, filters and tap rules
(R406, R407), tap records (R407) and the sampler (R411, R412). -/
namespace Sys2Proof.Machine

/-! ### PTP messages (R306; the layouts of IEEE 1588 and of UDP, which the manual names) -/

/-- Offset of the EtherType that follows one 802.1Q tag, if there is one. -/
def innerAt (f : Frame) : Nat := if tagged f then 16 else 12

/-- Where a PTP version 2 message begins, and where the UDP checksum over it stands if UDP carries it. -/
def ptpAt (f : Frame) : Option (Nat × Option (Nat × Bool)) :=
  let t := innerAt f
  let et := beAt f t 2
  let place : Option (Nat × Option (Nat × Bool)) :=
    if et = 0x88F7 then some (t + 2, none)
    else if !tagged f && et = 0x0800 && beAt f (t + 2) 1 = 0x45 && beAt f (t + 11) 1 = 17 && beAt f (t + 24) 2 = 319 then
      some (t + 30, some (t + 28, true))
    else if !tagged f && et = 0x86DD && fld (beAt f (t + 2) 1) 4 4 = 6 && beAt f (t + 8) 1 = 17 && beAt f (t + 44) 2 = 319 then
      some (t + 50, some (t + 48, false))
    else none
  match place with
  | some (o, c) => if fld (beAt f (o + 1) 1) 0 4 = 2 then some (o, c) else none
  | none => none

/-- messageType of a PTP message. -/
def ptpType (f : Frame) (o : Nat) : Nat := fld (beAt f o 1) 0 4
/-- An event message: Sync, Delay_Req, Pdelay_Req or Pdelay_Resp. -/
def isPtpEvent (f : Frame) : Bool := match ptpAt f with | some (o, _) => ptpType f o < 4 | none => false

/-- One 16-bit step of the incremental checksum of RFC 1624: HC' = ~(~HC + ~m + m'). -/
def rfc1624 (hc m m' : Nat) : Nat :=
  let x := (0xFFFF - hc) + (0xFFFF - m) + m'
  let x := x % 0x10000 + x / 0x10000
  let x := x % 0x10000 + x / 0x10000
  0xFFFF - x

/-- Adds a residence time, in 2^-16 ns, to correctionField, with the overflow rule of R307 and the UDP checksum. -/
def addCorrection (f : Frame) (o : Nat) (udp : Option (Nat × Bool)) (r : Nat) : Frame :=
  let old := beAt f (o + 8) 8
  let sum : Int := sgn old 64 + r
  let new := if sum > 0x7FFFFFFFFFFFFFFF then 0x7FFFFFFFFFFFFFFF else (sum % (2 ^ 64 : Nat)).toNat
  let f' := patch f (o + 8) (beBytes 8 new)
  match udp with
  | none => f'
  | some (c, v4) =>
    let hc := beAt f c 2
    if hc = 0 && v4 then f'
    else if hc = 0 then f'
    else
      -- the 16-bit words of the message start at an even offset of the UDP datagram
      let hc' := (List.range 4).foldl (fun h i => rfc1624 h (fld old (48 - 16 * i) 16) (fld new (48 - 16 * i) 16)) hc
      patch f' c (beBytes 2 (if hc' = 0 then 0xFFFF else hc'))

/-! ### Match blocks -/

/-- Capture points: 0 received, 1 transmitted, 2 dropped. -/
abbrev Point := Nat

/-- A frame as the match blocks see it: whether it counts as Ovdu, and whether a service or launch of the device sends it. -/
def State.blockMatches (s : State) (q : Nat) (b : MatchBlock) (pt : Point) (f : Frame) (ovdu own : Bool) : Bool :=
  bit b.points.toNat pt &&
  (if ovdu then
    bit b.classes.toNat (s.tcClass q (oTc f)) &&
    (if b.priv = 0 then true else if b.priv = 1 then oJob f = 0 else if b.priv = 2 then oJob f ≠ 0 else false) &&
    (if b.master = 0 then true
     else if b.master = 1 then !own && (BitVec.ofNat 32 (oSrc f) &&& b.eidMask) = b.eid
     else if b.master = 2 then own else false) &&
    (b.jobAny || oJob f = b.job.toNat) && b.lo.toNat ≤ oAddr f && oAddr f ≤ b.hi.toNat
  else
    bit b.classes.toNat 0 && b.priv = 0 && b.master = 0 && b.jobAny && b.lo = 0 && b.hi = BitVec.allOnes 64)

/-- Entries of 160 bytes that the tap records staged in a quadrant fill (R407, R411). -/
def State.tapStaged (s : State) (q : Nat) : Nat :=
  ((s.tap.staged.filter fun x => x.1.toNat = q).map fun x => x.2.bytes.length / 160).sum

/-- Stages a tap record in the 16 MiB of its quadrant's SRAM, which hold 104,857 entries, or counts it lost (R19, R408). -/
def State.stageTap (s : State) (q : Nat) (r : TapRec) : State :=
  if 104857 < s.tapStaged q + r.bytes.length / 160 then s.countQuad q 48
  else { s with tap := { s.tap with staged := s.tap.staged ++ [(BitVec.ofNat 2 q, r)] } }

/-- Device time in ns and FREE[31:0] of a record: at the frame's message timestamp point, or at the drop (R305, R407, R308). -/
def State.tapStamp (s : State) (pt p : Nat) : Nat × Nat :=
  let t := if pt = 2 then (s.time96, s.time.free.toNat) else s.stampAt p (pt = 1)
  (t.1 / 2 ^ 32, t.2 % 2 ^ 32)

/-- A frame from DA to the last byte of its FCS, as a record shows it (R26, R407). (DEDUCED, log 77, safe) -/
def State.frameBytes (s : State) (f : Frame) : List Byte := f ++ leBytes 4 (Config.frameFcs f s.freeCtr).toNat

/-- The bytes of a record, RSEQ still 0. -/
def State.tapBytes (s : State) (rtype entries p pt queue rules : Nat) (f : Frame) (cap dropIdx : Nat) (ptp redact : Bool) :
    List Byte :=
  recordOf (160 * entries)
    [(0, leBytes 1 rtype), (1, leBytes 1 entries), (2, leBytes 2 p), (4, leBytes 1 (pt + 1)), (5, leBytes 1 queue),
     (6, leBytes 2 rules), (8, leBytes 8 (s.tapStamp pt p).1), (16, leBytes 4 (s.tapStamp pt p).2),
     (20, leBytes 2 (frameLen f)), (22, leBytes 2 cap), (24, leBytes 2 dropIdx), (26, leBytes 1 (p / 256)),
     (27, leBytes 1 (b2n (cap < frameLen f) + 2 * b2n ptp + 4 * b2n redact)), (32, (s.frameBytes f).take cap)]

/-- What a frame meets at a point on port p: the filters of its quadrant count it, and while capture runs the enabled rules
that match it make one record per destination (R406, R407). -/
def State.watch (s : State) (pt : Point) (p : Nat) (f : Frame) (ovdu own : Bool) (queue dropIdx : Nat) : State :=
  let q := p / 256
  let hit (r : TapRule) : Bool := r.en && r.portLo ≤ p && p ≤ r.portHi && s.blockMatches q r.blk pt f ovdu own
  let s := (s.tap.filters.filter fun x => x.1 / 16 = q && hit x.2).foldl (fun s x =>
    (s.count (1024 + q) (2 * (x.1 % 16)) 1).count (1024 + q) (2 * (x.1 % 16) + 1) (frameLen f)) s
  if !s.tap.running then s
  else
    let ms := s.tap.rules.filter fun x => hit x.2
    let rules := (ms.map fun x => 2 ^ x.1).sum
    let rec_ (cask : Bool) (s : State) : State :=
      if ms.any fun x => x.2.cask = cask then
        s.stageTap q ⟨cask, false, s.tapBytes 1 1 p pt queue rules f (min (frameLen f) 128) dropIdx (isPtpEvent f) false⟩
      else s
    rec_ true (rec_ false s)

/-- The sampler at ingress (R411, R412). -/
def State.sample (s : State) (p : Nat) (f : Frame) (ovdu : Bool) : State :=
  if !s.tap.sampleEn || s.tap.mode = 0 then s
  else
    let q := p / 256
    let n := max 1 (s.rf .tapSample [] 0 24)
    let c := nthD s.tap.sampleCnt q 0 + 1
    let s := { s with tap := { s.tap with sampleCnt := s.tap.sampleCnt.set q (if c % n = 0 then 0 else c) } }
    if c % n ≠ 0 then s
    else
      let k := min 13 (max 1 (s.rf .tapSample [] 24 4))
      let full := min (frameLen f) (160 * k - 32)
      let cut := if s.tap.mode = 2 then full
        else if ovdu then (if oJob f ≠ 0 then min full 62 else full) else min full 64
      s.stageTap q ⟨false, true, s.tapBytes 2 k p 0 0xFF 0 f cut 0 (isPtpEvent f) (cut < full)⟩

/-- A refill boundary: the rules and filters set since the last one take effect, and those filters' counters are zeroed (R406). -/
def State.tapBoundary (s : State) : State :=
  let x := s.tap
  let ctrs := x.pendFilters.foldl (fun (c : SMap Ctr) f =>
    let g := 512 * (1024 + f.1 / 16) + 2 * (f.1 % 16)
    SMap.erase (SMap.erase c g) (g + 1)) s.ctrs
  { s with ctrs := ctrs
           tap := { x with rules := x.pendRules.foldl (fun m r => SMap.put m r.1 r.2) x.rules
                           filters := x.pendFilters.foldl (fun m r => SMap.put m r.1 r.2) x.filters
                           pendRules := [], pendFilters := [] } }

/-! ### Operating mode (R410) -/

/-- A STOP completes once nothing is staged (R408). (DEDUCED, log 77, safe) -/
def State.stopEnds (s : State) : State :=
  if s.tap.staged.isEmpty then
    s.tap.stopCmd.foldl (fun (s : State) ref => s.succeed ref) { s with tap := { s.tap with stopCmd := [] } }
  else s

/-- Moves to NORMAL: EN is cleared, staged sample records are discarded and counted. -/
def State.toNormal (s : State) : State :=
  let gone := s.tap.staged.filter fun x => x.2.sample
  let s := { s with tap := { s.tap with mode := 0, sampleEn := false, staged := s.tap.staged.filter fun x => !x.2.sample } }
  (gone.foldl (fun (s : State) x => s.countQuad x.1.toNat 49) s).stopEnds

/-- A PLAN_LOAD or Pitch OPEN takes effect: START_UP and TEST end. -/
def State.serviceStarts (s : State) : State := if s.tap.mode = 1 || s.tap.mode = 2 then s.toNormal else s

end Sys2Proof.Machine
end

