-- ==== Sys2Proof/Machine/FloorOps.lean ====
section
/-! DEFINITION. The floor below the frames: streams and cells (R101 to R104), rotation and weights (R105, R106, R130 to R132),
lanes of a link direction (R108, R274), stage 2 and the transit hold (R108, R109), the crossbar lanes (R110), and
resequencing buffers (R112, R113). -/
namespace Sys2Proof.Machine

/-! ### Names of streams -/

def kindCode : StreamKind → Nat
  | .unicast => 0 | .multicast => 1 | .mash => 2
/-- A number for a stream's name (R103). -/
def streamKey (st : StreamId) : Nat :=
  ((kindCode st.kind * 2 + b2n st.svc) * 1024 + st.src.toNat) * 256 + st.dst.toNat
/-- Quadrant a stream starts in. -/
def streamFrom (st : StreamId) : Nat := if st.svc then st.src.toNat % 4 else st.src.toNat / 256
/-- Quadrant a stream ends in. -/
def streamTo (st : StreamId) : Nat := if st.kind = .unicast then st.dst.toNat / 64 else st.dst.toNat % 4
/-- Port group whose slots carry a port's stream. -/
def streamGroup (st : StreamId) : Nat := st.src.toNat % 256 / 4
/-- Bits [63:45] of the cell tag: SRC, SVC and DST. -/
def streamTag (st : StreamId) : Nat := st.src.toNat * 512 + b2n st.svc * 256 + st.dst.toNat

/-! ### The cell tag (R103) -/

/-- TCHK over bits [63:8] of a tag, most significant bit first. (DEDUCED, log 46, unsafe) -/
def tagCheck (v : Nat) : Nat := crcBits 8 0x07 0xFF (bitsLow 56 (v / 256)).reverse
/-- The 64-bit tag of a cell. -/
def cellTag (c : Cell) : Nat :=
  let body := streamTag c.st * 2 ^ 45 + c.cseq.toNat * 2 ^ 31 + kindCode c.st.kind * 2 ^ 29 + (c.fill - 1) % 256 * 2 ^ 21 +
    b2n c.fstart.isSome * 2 ^ 20 + (c.fstart.getD 0) % 256 * 2 ^ 12
  body + tagCheck body
/-- The tag as it stands beside the cell, with the bits in error. -/
def tagNow (c : Cell) : Nat := cellTag c ^^^ c.tagFlip.toNat
/-- The tag passes TCHK. -/
def tagOk (c : Cell) : Bool := fld (tagNow c) 0 8 = tagCheck (tagNow c)
/-- The cell that a tag names, with the pieces of frames of cell `c`; none for the reserved kind. -/
def cellOf (v : Nat) (c : Cell) : Option Cell :=
  let kind : Option StreamKind := match fld v 29 2 with | 0 => some .unicast | 1 => some .multicast | 2 => some .mash | _ => none
  kind.map fun k =>
    { c with st := ⟨k, bit v 53, BitVec.ofNat 10 (fld v 54 10), BitVec.ofNat 8 (fld v 45 8)⟩, cseq := BitVec.ofNat 14 (fld v 31 14),
             fill := fld v 21 8 + 1, fstart := if bit v 20 then some (fld v 12 8) else none, tagFlip := 0 }

def State.stream (s : State) (st : StreamId) : StreamSt := SMap.get s.streams (streamKey st) {}
def State.updStream (s : State) (st : StreamId) (f : StreamSt → StreamSt) : State :=
  { s with streams := SMap.modify s.streams (streamKey st) {} f }
def State.reseqOf (s : State) (st : StreamId) : ReseqSt := SMap.get s.reseq (streamKey st) {}
def State.updReseq (s : State) (st : StreamId) (f : ReseqSt → ReseqSt) : State :=
  { s with reseq := SMap.modify s.reseq (streamKey st) {} f }

/-- The stream of a frame from an ingress to an output fibre (R101). -/
def unicastStream (src : IngressSrc) (fibre : Nat) : StreamId :=
  match src with
  | .port p => ⟨.unicast, false, p, BitVec.ofNat 8 fibre⟩
  | .service q => ⟨.unicast, true, BitVec.ofNat 10 (q.toNat + 4 * fibre), BitVec.ofNat 8 fibre⟩
/-- The stream of a frame from an ingress to an output quadrant's replicator. -/
def multicastStream (src : IngressSrc) (y : Nat) : StreamId :=
  match src with
  | .port p => ⟨.multicast, false, p, BitVec.ofNat 8 y⟩
  | .service q => ⟨.multicast, true, BitVec.ofNat 10 (q.toNat + 4 * y), BitVec.ofNat 8 y⟩
/-- The stream of a frame bound for a service of quadrant y; a service's own frame uses its multicast service stream name with
KIND Mash. -/
def mashStream (src : IngressSrc) (y : Nat) : StreamId :=
  match src with
  | .port p => ⟨.mash, false, p, BitVec.ofNat 8 y⟩
  | .service q => ⟨.mash, true, BitVec.ofNat 10 (q.toNat + 4 * y), BitVec.ofNat 8 y⟩

/-! ### Bundle widths, capacity and weights -/

/-- Half-bundles a bundle direction carries in the lane starts: 0, 1 or 2 (R108, R281, R290). -/
def bundleHalves (b : BundleSt) : Nat :=
  if b.quiesced || b.inReset || b.quiet then 0 else if b.width = 2 then 2 else if b.width = 1 then 1 else 0
/-- Half-bundles a direction has for its weights: a bundle in training or in a quiet point keeps none until it reports, one in
a quiet point keeps its width (R285). -/
def weightHalves (b : BundleSt) : Nat :=
  if b.quiesced || b.inReset then 0 else if b.width = 2 then 2 else if b.width = 1 then 1 else 0
/-- Working half-bundles of direction x to y. -/
def State.halves (s : State) (x y : Nat) : Nat := ((List.range 64).map fun b => weightHalves (s.bundle x y b)).sum

/-- A direction whose end is a quadrant in block reset is treated as quiesced (R354). -/
def State.dirDown (s : State) (x y : Nat) : Bool := bit s.rst.quadInReset.toNat x || bit s.rst.quadInReset.toNat y

/-- Load of direction x to y in 256ths of a cell per cycle, for weights `w` (R130): 25·w/64 + 6.25·Σw/64. -/
def dirLoad (w : List (List Nat)) (x y : Nat) : Nat :=
  100 * nthD (nthD w x []) y 0 + 25 * ((List.range 4).map fun z => nthD (nthD w z []) x 0).sum
/-- Capacity of a direction in the same unit: half-bundles / 8 cells per cycle. -/
def dirCap (halves : Nat) : Nat := 32 * halves

/-- One pass of the procedure of R130 over every direction; answers whether anything changed. -/
def weightPass (cap : Nat → Nat → Nat) (w : List (List Nat)) : List (List Nat) × Bool :=
  (List.range 16).foldl (fun acc k =>
    let x := k / 4
    let y := k % 4
    let w := acc.1
    if y ≠ x ∧ nthD (nthD w x []) y 0 > 0 ∧ dirLoad w x y > dirCap (cap x y) then
      (modNth w x fun r => modNth (modNth r y (· - 1)) x (· + 1), true)
    else acc) (w, false)

/-- Repeats passes until nothing changes; every changing pass lowers a weight, and at most 192 can be lowered.
(DEDUCED, log 42, safe) -/
def weightLoop (cap : Nat → Nat → Nat) : Nat → List (List Nat) → List (List Nat)
  | 0, w => w
  | n + 1, w =>
    let r := weightPass cap w
    if r.2 then weightLoop cap n r.1 else w

/-- R131: quadrant x's table of 64 intermediates from its weights, by a smooth weighted rotation. -/
def rotation (x : Nat) (w : List Nat) : List Quad :=
  ((List.range 64).foldl (fun (acc : List Quad × List Int) _ =>
    let a := (List.range 4).map fun y => nthD acc.2 y 0 + ((nthD w y 0 : Nat) : Int)
    let best := (List.range 4).foldl (fun (b : Nat) d =>
      let y := (x + d) % 4
      if nthD a y 0 > nthD a b 0 then y else b) x
    (acc.1 ++ [BitVec.ofNat 2 best], modNth a best (· - 64))) ([], [0, 0, 0, 0])).1

/-- The uniform weights, with a quadrant in block reset left out (R354). (DEDUCED, log 42, safe) -/
def State.uniformWeights (s : State) : List (List Nat) :=
  (List.range 4).map fun x => (List.range 4).map fun y =>
    let down (k : Nat) : Bool := bit s.rst.quadInReset.toNat k
    let lost := ((List.range 4).filter fun k => k ≠ x && down k).length
    if y = x then 16 + 16 * lost else if down y then 0 else 16

/-- The error of a direction under capacity or of a partition (R132). (DEDUCED, log 29, unsafe) -/
def State.floorRecord (s : State) (kind x y : Nat) : State :=
  s.errorAt 0x03 sevContained (BitVec.ofNat 8 x) [(32, leBytes 1 kind), (44, [BitVec.ofNat 8 x, BitVec.ofNat 8 y])]

/-- Load of every direction above its capacity, and every direction without a working bundle, for weights `w` (R132).
(DEDUCED, log 42, safe) -/
def State.floorShort (s : State) (w : List (List Nat)) : List (Nat × Nat) × List (Nat × Nat) :=
  let pairs := (List.range 16).map (fun k => (k / 4, k % 4)) |>.filter fun p => p.1 ≠ p.2 && !s.dirDown p.1 p.2
  (pairs.filter fun p => dirLoad w p.1 p.2 > dirCap (s.halves p.1 p.2), pairs.filter fun p => s.halves p.1 p.2 = 0)

/-- The weights the procedure of R130 gives for the present bundle widths. -/
def State.weightsNow (s : State) : List (List Nat) :=
  weightLoop (fun x y => if s.dirDown x y then 128 else s.halves x y) 200 s.uniformWeights

/-- Bits y of a mask that a condition picks. -/
def maskOf (p : Nat → Bool) : BitVec 4 := BitVec.ofNat 4 (((List.range 4).filter p).map (2 ^ ·)).sum

/-- Installs the weights and the tables in all quadrants in one cycle (R130 to R132). A direction found without a working bundle
partitions the floor until a reset has trained that link again, which `trained x y` says. (DEDUCED, log 42, safe) -/
def State.installWeights (s : State) (w : List (List Nat)) (trained : Nat → Nat → Bool) : State :=
  let r := s.floorShort w
  (List.range 4).foldl (fun s x => s.updFloor x fun f =>
    { f with weights := nthD w x [], table := rotation x (nthD w x []),
             underCap := r.1.any (·.1 = x),
             cut := maskOf fun y => (bit f.cut.toNat y && !trained x y) || r.2.contains (x, y) }) s

/-- Quadrant x tells the others of a change that all apply in one cycle (R91, R130, R278). -/
def State.tellAll (s : State) (x : Nat) : State :=
  (List.range 4).foldl (fun (s : State) y => if bit s.rst.quadInReset.toNat y then s else s.postMsg x y .notice) s

/-- The error records of R132. -/
def State.floorRecords (s : State) (w : List (List Nat)) : State :=
  let r := s.floorShort w
  let s := r.1.foldl (fun (s : State) p => s.floorRecord 2 p.1 p.2) s
  r.2.foldl (fun (s : State) p => s.floorRecord 3 p.1 p.2) s

/-- Recomputes the weights from the bundle widths and installs the tables in all quadrants (R130 to R132). The tables go out
from the lowest quadrant that runs. (DEDUCED, log 42, safe; DEDUCED, log 47, safe) -/
def State.reweight (s : State) (trained : Nat → Nat → Bool := fun _ _ => false) : State :=
  let w := s.weightsNow
  let from_ := ((List.range 4).find? fun x => !bit s.rst.quadInReset.toNat x).getD 0
  ((s.installWeights w trained).tellAll from_).floorRecords w

/-- Entry j of quadrant x's weight table; the uniform rotation while none is installed (R106). -/
def State.tableEntry (s : State) (x j : Nat) : Nat :=
  match (s.floor x).table with
  | [] => (x + j) % 4
  | t => (nthD t (j % 64) 0).toNat

/-! ### Lanes of a link direction (R274) -/

/-- Bundles of direction x to y that start a slot in cycle t for a new flit, ascending: replayed flits hold theirs (R279). -/
def State.lanesAt (s : State) (x y t : Nat) : List Nat :=
  (List.range 64).filter fun b =>
    let z := s.bundle x y b
    let h := bundleHalves z
    z.busyUntil ≤ t && z.slotFrom ≤ t && ((h = 2 && t % 4 = b % 4) || (h = 1 && t % 8 = b % 8))
/-- Lanes of a direction already taken in the present cycle. -/
def State.lanesTaken (s : State) (x y : Nat) : Nat :=
  if (s.floor x).laneCycle = s.time.core then nthD (s.floor x).lanes y 0 else 0
/-- CLK_CORE cycles of a slot of a bundle (R274). -/
def slotLen (z : BundleSt) : Nat := if z.width = 1 then 8 else 4
/-- Cycles up to t, from 0, in which bundle number b starts a slot of length n. -/
def slotStarts (b n t : Nat) : Nat := (t + n - b % n) / n
/-- Slots that bundle number b has started up to cycle t since its training; a quiet point starts none (R274). -/
def slotsBy (b : Nat) (z : BundleSt) (t : Nat) : Nat :=
  if z.quiet then z.slotBase
  else z.slotBase + (slotStarts b (slotLen z) t - (if z.slotFrom = 0 then 0 else slotStarts b (slotLen z) (z.slotFrom - 1)))
/-- The number, modulo 4,096, of the slot of bundle number b that runs in cycle t. -/
def slotAt (b : Nat) (z : BundleSt) (t : Nat) : Nat := (slotsBy b z t - 1) % 4096
/-- The same in the present cycle. -/
def State.slotNow (s : State) (b : Nat) (z : BundleSt) : Nat := slotAt b z s.time.core
/-- Flits of a bundle that the sender still keeps (R279). -/
def keptNow (now : Nat) (l : List FlitSt) : List FlitSt := l.filter fun k => now ≤ k.sentAt + 1024

/-- Sends a flit on the next free lane of direction x to y in the present cycle, and keeps it for replay (R108, R279). -/
def State.sendFlit (s : State) (x y : Nat) (c : FlitBody) : State :=
  let lane := (s.lanesAt x y s.time.core)[s.lanesTaken x y]?
  let s := s.updFloor x fun f =>
    let now : Bool := f.laneCycle = s.time.core
    { f with laneCycle := s.time.core, lanes := modNth (if now then f.lanes else [0, 0, 0, 0]) y (· + 1),
             slotUsed := if now then f.slotUsed else [] }
  match lane with
  | none => s
  | some b =>
    let f : FlitSt := { slot := s.slotNow b (s.bundle x y b), sentAt := s.time.core, replay := false, body := c }
    s.updBundle x y b fun z =>
      { z with flight := z.flight ++ [f], kept := keptNow s.time.core z.kept ++ [f] }
/-- Sends a cell. -/
def State.sendLane (s : State) (x y : Nat) (c : Cell) : State := s.sendFlit x y (.cell c)

/-! ### Messages between quadrants (R278) -/

/-- A progress report of streams from quadrant y joins the one that waits at x for a message flit (R113). -/
def addProgress (st : StreamId) : List XMsg → List XMsg
  | [] => [.progress [(st, 1)]]
  | .progress l :: r =>
    .progress (if l.any (·.1 = st) then updWhere l (·.1 = st) fun p => (p.1, p.2 + 1) else l ++ [(st, 1)]) :: r
  | m :: r => m :: addProgress st r

/-- Retry requests and one message flit of direction x to y take the first lane starts of the present cycle; message flits start
at least 16 cycles apart, and carry up to 16 messages each (R275, R278). (DEDUCED, log 47, safe) -/
def State.startMsgs (s : State) (x y : Nat) : State :=
  let d := s.dir x y
  let t := s.time.core
  let free := (s.lanesAt x y t).length - s.lanesTaken x y
  let go := d.outRetry.take free
  let s := go.foldl (fun (s : State) r => s.sendFlit x y (.retry r.1 r.2)) s
  let s := if go.isEmpty then s else s.updDir x y fun d => { d with outRetry := d.outRetry.drop go.length }
  let spaced : Bool := match d.lastMsg with | none => true | some m => m + 16 ≤ t
  if d.outMsgs.isEmpty || !spaced || free ≤ go.length then s
  else
    (s.sendFlit x y (.message d.mseqNext (d.outMsgs.take 16))).updDir x y fun d =>
      { d with mseqNext := d.mseqNext + 1, outMsgs := d.outMsgs.drop 16, lastMsg := some t }

/-- The same for every direction that has something to send. -/
def State.startAllMsgs (s : State) : State :=
  if s.pwr.state ≠ 0 then s else
  (s.dirs.filter fun x => !x.2.outMsgs.isEmpty || !x.2.outRetry.isEmpty).foldl (fun (s : State) x => s.startMsgs (x.1 / 4) (x.1 % 4)) s

/-- Offset r of the stage-1 slot of group g in cycle t (R105). -/
def slotOffset (g t : Nat) : Nat := (g / 2 + t / 2) % 4
/-- Group g has a slot in cycle t. -/
def hasSlot (g t : Nat) : Bool := (g + t) % 2 = 0

def s1Key (x g y : Nat) : Nat := (x * 64 + g) * 4 + y
def State.s1q (s : State) (x g y : Nat) : List Cell := SMap.get s.s1 (s1Key x g y) []
def State.setS1q (s : State) (x g y : Nat) (l : List Cell) : State := { s with s1 := SMap.set s.s1 (s1Key x g y) l [] }
def State.s2q (s : State) (x y : Nat) : List Cell := SMap.get s.s2 (4 * x + y) []

/-- Group g of quadrant x has used its slot of the present cycle. -/
def State.slotTaken (s : State) (x g : Nat) : Bool := (s.floor x).laneCycle = s.time.core && (s.floor x).slotUsed.contains g
/-- Stage-1 cells of quadrant x that hold a slot to y in cycle t and have not used it. -/
def State.s1Ready (s : State) (x y t : Nat) : Nat :=
  ((List.range 64).filter fun g => hasSlot g t && (x + slotOffset g t) % 4 = y && !(s.s1q x g y).isEmpty && !s.slotTaken x g).length

/-- Replaces the stage-2 queue of x for output y and moves the transit hold with its length (R109). -/
def State.setS2q (s : State) (x y : Nat) (l : List Cell) : State :=
  let s := { s with s2 := SMap.set s.s2 (4 * x + y) l [] }
  let h := (s.floor x).hold
  let h' := if 24576 < l.length then h ||| BitVec.ofNat 4 (2 ^ y)
    else if l.length ≤ 16384 then h &&& ~~~(BitVec.ofNat 4 (2 ^ y)) else h
  if h' = h then s
  else (List.range 4).foldl (fun (s : State) q => s.postMsg x q (.hold h')) (s.updFloor x fun f => { f with hold := h' })

/-- Some intermediate has raised a transit hold for output quadrant y, as ingress quadrant z knows it (R109). -/
def State.transitHold (s : State) (z y : Nat) : Bool :=
  (List.range 4).any fun x => bit (if x = z then (s.floor z).hold else nthD (s.floor z).seen x 0).toNat y

/-- Some quadrant is marked partitioned (R132). -/
def State.partitioned (s : State) : Bool := (List.range 4).any fun x => (s.floor x).cut ≠ 0

/-! ### From cells to arrivals -/

/-- A cell reaches the resequencer of its stream (R112); one that fails TCHK is discarded, and what it held is noted (R114). -/
def State.toReseq (s : State) (c : Cell) : State :=
  s.updReseq c.st fun r =>
    let behind := (c.cseq - r.expect).toNat ≥ 8192
    if !tagOk c then (if behind then r else { r with lost := r.lost ++ [(c.cseq, c.frags.map fun (f : Frag) => f.fid)] }) else
    if behind || r.cells.any (·.cseq = c.cseq) then r
    else { r with cells := r.cells ++ [c],
                  missingAt := if c.cseq = r.expect then r.missingAt else r.missingAt.or (some s.time.core) }

/-- A cell discarded on its way is noted at the end of its stream: it may yet be replayed (R279, R114). -/
def State.noteLost (s : State) (c : Cell) : State :=
  s.updReseq c.st fun r =>
    if r.lost.any (·.1 = c.cseq) || (c.cseq - r.expect).toNat ≥ 8192 then r
    else { r with lost := r.lost ++ [(c.cseq, c.frags.map fun (g : Frag) => g.fid)] }

/-- A unicast cell is written to its arrival lane: the k-th of its group, from 0, to lane (g + k) mod 64 (R110).
(DESIGN CHOICE, log 86, unsafe) -/
def State.toLane (s : State) (c : Cell) : State :=
  let g := c.st.dst.toNat % 64
  let o := streamTo c.st
  let k := SMap.get s.arrivals (64 * o + g) 0
  let key := (o * 64 + (g + k) % 64) * 64 + g
  { s with arrivals := SMap.put s.arrivals (64 * o + g) (k + 1),
           lanesIn := SMap.modify s.lanesIn key [] (· ++ [c]) }

/-- Puts an arrival behind those of earlier cycles and, in its own cycle, behind those from quadrants of no higher number. -/
def insArrival (x : Nat × Nat × Cell) : List (Nat × Nat × Cell) → List (Nat × Nat × Cell)
  | [] => [x]
  | y :: r => if x.1 = y.1 && x.2.1 < y.2.1 then x :: y :: r else y :: insArrival x r

/-- A cell that came from quadrant `from_` arrives in its output quadrant: for an arrival lane of its group, in the order of its
cycle's arrivals by the quadrant they came from (R110), or to the replicator or Mash. (DESIGN CHOICE, log 86, unsafe) -/
def State.arrive (s : State) (from_ : Nat) (c : Cell) : State :=
  if c.st.kind = .unicast then { s with arriving := insArrival (s.time.core, from_, c) s.arriving }
  else s.toReseq c

/-- Every arrival of an earlier cycle is written to its lane: those of the present cycle may not all have come.
(DESIGN CHOICE, log 86, unsafe) -/
def State.settleArrivals (s : State) : State :=
  (s.arriving.filter fun x => x.1 < s.time.core).foldl (fun (s : State) x => s.toLane x.2.2)
    { s with arriving := s.arriving.filter fun x => s.time.core ≤ x.1 }

/-- A cell that came from quadrant `from_` passes to stage 2 in quadrant y (R107, R108). -/
def State.toStage2 (s : State) (from_ y : Nat) (c : Cell) : State :=
  let o := streamTo c.st
  if o = y then s.arrive from_ c else s.setS2q y o (s.s2q y o ++ [c])

/-- Sends a numbered cell into the floor: its intermediate is fixed here (R16, R106, R107), n counting from 0. A cell of a service
goes by stage 2 alone (R17). (DEDUCED, log 41, safe; DESIGN CHOICE, log 86, unsafe) -/
def State.launchCell (s : State) (c : Cell) : State :=
  let x := streamFrom c.st
  let g := streamGroup c.st
  if c.st.svc then s.toStage2 x x c
  else if c.st.kind = .mash then
    let y := streamTo c.st
    if y = x then s.toStage2 x x c else s.setS1q x g y (s.s1q x g y ++ [c])
  else
    let n := SMap.get s.s1count (64 * x + g) 0
    let y := s.tableEntry x (g + n)
    let s := { s with s1count := SMap.put s.s1count (64 * x + g) (n + 1) }
    if y = x then s.toStage2 x x c else s.setS1q x g y (s.s1q x g y ++ [c])

/-- Numbers a cell and sends it, or holds it while 8,191 cells of its stream are out (R113). -/
def State.emitCell (s : State) (st : StreamId) (frags : List Frag) (used : Nat) (fstart : Option Nat) : State :=
  let x := s.stream st
  let c : Cell := { st, cseq := x.next, frags, fill := used, fstart, poisoned := frags.any (·.poisoned) }
  let s := s.updStream st fun x => { x with next := x.next + 1 }
  if 8191 ≤ x.flying || !x.held.isEmpty then s.updStream st fun x => { x with held := x.held ++ [c] }
  else (s.updStream st fun x => { x with flying := x.flying + 1 }).launchCell c

/-- Sends the open cell of a stream, if one is open (R104). -/
def State.flushOpen (s : State) (st : StreamId) : State :=
  let x := s.stream st
  if x.frags.isEmpty then s
  else
    (s.updStream st fun x => { x with frags := [], used := 0, fstart := none, endedAt := none }).emitCell st x.frags x.used
      x.fstart

/-- The `take` bytes of a frame that stand `n` bytes before its end hold a poisoned word (R364). -/
def State.pieceBad (s : State) (fid n take : Nat) : Bool :=
  match (SMap.find s.flying fid).bind (·.ctx.poison) with
  | some r => n < r + take && r ≤ n
  | none => false

/-- Packs `n` bytes of a frame from the open cell on; `first` marks its floor header (R101, R102). -/
def State.packBytes (s : State) (st : StreamId) (fid : Nat) : Nat → Nat → Bool → State
  | 0, _, _ => s
  | k + 1, n, first =>
    let x := s.stream st
    let take := min n (256 - x.used)
    let frag : Frag := { fid, len := take, first, last := take = n, poisoned := s.pieceBad fid n take }
    let s := s.updStream st fun x =>
      { x with frags := x.frags ++ [frag], used := x.used + take,
               fstart := if first then x.fstart.or (some x.used) else x.fstart,
               endedAt := if take = n then some s.time.core else none }
    let s := if (s.stream st).used = 256 then s.flushOpen st else s
    if take = n then s else s.packBytes st fid k (n - take) false

/-- Packs a frame that occupies `n` bytes of its stream; a frame to be cut through, or PACK_WAIT 0, sends the open cell at
once (R104). (DEDUCED, log 41, safe) -/
def State.pack (s : State) (st : StreamId) (fid n : Nat) (atOnce : Bool) : State :=
  let s := s.packBytes st fid 64 n true
  if atOnce || s.rf .flrCtrl [streamFrom st] 16 8 = 0 then s.flushOpen st else s

/-- A cell of a stream was released at its output: the window moves and a held cell may go (R113). -/
def State.progress (s : State) (st : StreamId) : State :=
  let x := s.stream st
  match x.held with
  | [] => s.updStream st fun x => { x with flying := x.flying - 1 }
  | c :: r => (s.updStream st fun x => { x with held := r }).launchCell c

/-- The end of a stream reports a release to the quadrant it starts in: at once where they are one, else in their next progress
report (R113, R278). -/
def State.report (s : State) (st : StreamId) : State :=
  let (x, y) := (streamFrom st, streamTo st)
  if x = y then s.progress st else s.updDir y x fun d => { d with outMsgs := addProgress st d.outMsgs }

/-- Bytes a frame occupies in its stream: L + 12, and for a multicast frame a byte for each sheaf it reaches in the output
quadrant, rounded up to 16 (R102). -/
def floorBytes (f : Frame) (sheaves : Nat) : Nat := frameLen f + 12 + (sheaves + 15) / 16 * 16

end Sys2Proof.Machine
end

