-- ==== Sys2Proof/Machine/QueueBase.lean ====
section
/-! DEFINITION. Where frames wait at their output: queues and their charges (R134 to R136), shapers and the calendar (R142 to
R144), the copies of a multicast frame in a quadrant (R127), and the hand-over of a frame to a service. -/
namespace Sys2Proof.Machine

/-! ### Credits and the ingress share (R52, R118) -/

/-- A frame's cells are freed at its ingress: its share, and the credits its preamble states. -/
def State.freeIngress (s : State) (c : FrameCtx) : State :=
  match c.src with
  | .service _ => s
  | .port p =>
    if c.share = 0 then s
    else s.updPort p.toNat fun x =>
      { x with ingUsed := x.ingUsed - c.share, freed := modNth x.freed c.vcIn.toNat (· + BitVec.ofNat 32 c.cellsIn),
               creditDue := true }

/-- Member EIDs of a line: BASE_EID with the varying field of each set bit (R125, R126). -/
def lineMembers (kind base : Nat) (mask : W64) : List Nat :=
  let n := if kind = 1 then 64 else 32
  let sh := if kind = 1 then 17 else 23
  (List.range n).filterMap fun r => if mask.getLsbD r then some (base + r * 2 ^ sh) else none

/-! ### Queues (R134 to R136) -/

/-- Does quadrant q give the frame the general class (general Ethernet, or an Ovdu frame of a general TC)? -/
def State.isGeneral (s : State) (q : Nat) (f : Frame) : Bool := s.frameClass q f = clsGeneral
/-- GEN_QMAP of port p for a TC. -/
def State.genQueue (s : State) (p tc : Nat) : Nat := s.rf .tmPcfg (pix p) (1 + 2 * tc) 2
/-- The queue of a frame at output port p. -/
def State.queueOf (s : State) (p : Nat) (f : Frame) : Nat :=
  let vc := s.outVc p f
  if vc = 5 then s.genQueue p (s.frameTc (p / 256) f) else 7 - vc
/-- The VC whose frames queue n holds. -/
def queueVc (n : Nat) : Nat := if n < 3 then 5 else 7 - n
/-- Charged length C at port p (R136). -/
def State.chargedLen (s : State) (p : Nat) (f : Frame) : Nat :=
  if s.rb .tmPcfg (pix p) 0 then frameLen f - 4 else frameLen f + 20

/-- The free-running microsecond count (R122). -/
def State.nowUs (s : State) : Nat := s.time.free.toNat / 1000
/-- Small configuration, and the frame's age exceeds AGE_LIMIT_US (R121, R122). (DEDUCED, log 38, safe) -/
def State.tooOld (s : State) (stampUs : Nat) : Bool := s.smallClass && s.rf .flrAge [0] 0 16 < s.nowUs - stampUs

/-- Charges cells to a queue and, unless they are charged already, to the egress region. -/
def State.charge (s : State) (p n cells : Nat) (region : Bool) : State :=
  let s := s.updQueue p n fun x => { x with depth := x.depth + cells }
  if region then s.updFloor (p / 256) fun f => { f with used := f.used + cells } else s

/-- A copy of multicast frame `fid` stands in a queue of quadrant q, or its replicator item holds its charge. -/
def State.groupCharged (s : State) (q fid : Nat) : Bool :=
  (s.queues.any fun x => x.1 / 2048 = q && x.2.entries.any fun e => e.group && e.fid = fid) ||
    (s.floor q).repl.any fun r => r.charged && r.ctx.fid = fid
/-- Frees the region's cells of a multicast frame after its last copy (R127). -/
def State.freeGroup (s : State) (q fid cells : Nat) : State :=
  if s.groupCharged q fid then s else s.updFloor q fun f => { f with used := f.used - cells }

/-- Copies of multicast frame `fid` are still in quadrant q: queued, at its replicator, or held fenced. -/
def State.groupRemains (s : State) (q fid : Nat) : Bool :=
  (s.queues.any fun x => x.1 / 2048 = q && x.2.entries.any fun e => e.group && e.fid = fid) ||
    ((s.floor q).repl.any fun r => r.ctx.fid = fid && !r.copies.isEmpty) ||
    s.held.any fun h => h.quad.toNat = q && h.copy.isSome && h.wait.ctx.fid = fid

/-! ### Shapers (R142 to R146) -/

/-- Picosecond time of the shapers, with 16 fractional bits. (DEDUCED, log 43, unsafe) -/
def State.shaperNow (s : State) : Int := (s.time.free.toNat * 1000 * 65536 : Nat)
/-- I: picoseconds per byte with 16 fractional bits (R142). -/
def shaperI (rate : Nat) : Nat := 8000000 * 65536 / rate
/-- BURST in bytes: BURST_256 below 4 is treated as 4 (R144). -/
def shaperBurst (b : Nat) : Nat := max 4 b * 256
/-- The queue is shaped: a rate in force, and SHAPE_EN. -/
def State.shaped (s : State) (p n : Nat) : Bool := nthD s.tmShapeEn (p / 256) true && (s.queue p n).rate ≠ 0
/-- NET of a queue: not before the first cycle after release. (DEDUCED, log 43, unsafe) -/
def State.netOf (s : State) (p n : Nat) : Int :=
  max (s.queue p n).net ((nthD s.netBase (p / 256) 0 * 1000 * 65536 : Nat) : Int)
/-- The shaper allows the queue's head. (DEDUCED, log 43, unsafe) -/
def State.shaperAllows (s : State) (p n : Nat) : Bool :=
  !s.shaped p n || ((s.queue p n).cal = none && s.netOf p n ≤ s.shaperNow)
/-- Places a queue that the shaper holds into its calendar slot, where it waits until that slot is reached (R143); an unshaped
queue leaves the calendar. -/
def State.placeQueue (s : State) (p n : Nat) : State :=
  let q := s.queue p n
  if s.shaped p n && q.cal.isSome then s
  else if s.shaped p n && !q.entries.isEmpty && s.shaperNow < s.netOf p n then
    let slot := ((s.netOf p n + (4000 * 65536 - 1)) / (4000 * 65536)).toNat
    let last := s.time.free.toNat / 4 + 65535
    s.updQueue p n fun x => { x with cal := some (min slot last) }
  else s.updQueue p n fun x => { x with cal := none }
/-- The queue leaves the calendar and is placed by its present NET: its slot has been reached (R143), or a new entry has moved
NET (R146). -/
def State.replaceQueue (s : State) (p n : Nat) : State := (s.updQueue p n fun x => { x with cal := none }).placeQueue p n
/-- The shaper's step as the queue sends a frame of charged length c (R142). -/
def State.shaperSend (s : State) (p n c : Nat) : State :=
  if !s.shaped p n then s
  else
    let q := s.queue p n
    let i : Int := shaperI q.rate
    let net := max (s.netOf p n) (s.shaperNow - shaperBurst q.burst * i) + c * i
    s.updQueue p n fun x => { x with net := net }

/-- Puts an entry at the tail of its queue, counted (R134, R401). -/
def State.enqueue (s : State) (p n : Nat) (e : QEntry) : State :=
  let s := (s.countPort p (64 + 8 * n)).count p (65 + 8 * n) (s.chargedLen p e.bytes)
  (s.updQueue p n fun x => { x with entries := x.entries ++ [e] }).placeQueue p n

/-! ### From the floor to a queue or a service -/

/-- The queue entry of a unicast frame. -/
def flyingEntry (f : Flying) (released : Nat) : QEntry :=
  { fid := f.ctx.fid, bytes := f.ctx.bytes, src := f.ctx.src, stampUs := f.ctx.stampUs, free := f.ctx.free, cells := f.cells,
    released := released, cut := f.cut, faulty := f.faulty, result := f.ctx.result }

/-- An answer at Pitch answers a copy: of an image that sends copies under its FLOW, on one of its lines, of which the sender is
a member, with a SEQ already sent in that line's domain, whose numbers run from 0 (R36, R39, R381, R382).
(DESIGN CHOICE, log 87, unsafe) -/
def State.answersCopy (s : State) (f : Frame) (x : PitchImg) : Bool :=
  x.replicate && x.state ≠ .free && x.id.toNat % 65536 = oFlow f &&
    (List.range x.lines.length).any fun i =>
      match x.lines[i]?, s.svcSeq.find? (·.1 = ⟨BitVec.ofNat 32 (oDst f), BitVec.ofNat 32 i, BitVec.ofNat 16 (oFlow f)⟩) with
      | some l, some d => (lineMembers l.kind l.base.toNat l.mask).contains (oSrc f) && (oSeq f).toNat < d.2.toNat
      | _, _ => false

/-- An answer to a Pitch copy has arrived: an ACK and a NACK are each counted (R382); one that answers no image's copies is
stray (R37). (DESIGN CHOICE, log 87, unsafe) -/
def State.pitchAnswer (s : State) (y : Nat) (c : FrameCtx) : State :=
  let s := s.freeIngress c
  match s.pitch.find? fun x => s.answersCopy c.bytes x.2 with
  | some x => if oOp c.bytes = opAck then s.countQuad y 47 else s.updPitch x.1 fun i => { i with nacks := i.nacks + 1 }
  | none => match c.src with | .port p => s.countPort p.toNat 62 | .service _ => s

/-- A frame for a service has arrived whole: contributions and ring frames to Mash, answers to its results, Pitch frames. -/
def State.handOver (s : State) (c : FrameCtx) (target : Target) : State :=
  match target with
  | .mash y =>
    if oOp c.bytes = opPutReduce then { s with mashIn := SMap.modify s.mashIn y.toNat [] (· ++ [c]) }
    else { s with respIn := SMap.modify s.respIn y.toNat [] (· ++ [c]) }
  | .pitch y =>
    if isResponse (oOp c.bytes) then s.pitchAnswer y.toNat c
    else { s with pitchIn := SMap.modify s.pitchIn y.toNat [] (· ++ [c]) }
  | _ => s

end Sys2Proof.Machine
end

