-- ==== Sys2Proof/Machine/Forward.lean ====
section
/-! DEFINITION. The way of a frame once its header checks have passed: the departure scoreboard (R95 to R100), active lists
and spray (R91 to R94), the credits a frame returns (R52), NACKs (R60), the frames of the device's services (R449), and the
route: checks 12 to 18, groups and floods (R59, R126, R129). -/
namespace Sys2Proof.Machine

/-! ### Ports and sheaves -/

/-- FIBRE_MODE of fibre f. -/
def State.fibreMode (s : State) (f : Nat) : Nat := s.rf .oeFib [f / 16, f % 16] 0 3
/-- Lanes of port k of a fibre in a mode (R242). -/
def modeLanes (mode k : Nat) : Nat :=
  match mode, k with
  | 0, 0 => 0x03 | 0, 1 => 0x0C | 0, 2 => 0x30 | 0, 3 => 0xC0
  | 1, 0 => 0x0F | 1, 2 => 0xF0
  | 2, 0 => 0xFF
  | 3, 0 => 0x0F | 3, 2 => 0x30 | 3, 3 => 0xC0
  | 4, 0 => 0x03 | 4, 1 => 0x0C | 4, 2 => 0xF0
  | _, _ => 0
/-- Lane mask of a port. -/
def State.portLanes (s : State) (p : Nat) : Nat := modeLanes (s.fibreMode (p / 4)) (p % 4)
/-- Speed of a port in units of 200 Gb/s. -/
def State.portSpeed (s : State) (p : Nat) : Nat := popcount (s.portLanes p) 8

/-- Field i of a mesh map. -/
def mapOut (map : BitVec 24) (i : Nat) : Nat := fld map.toNat (3 * i) 3
/-- The fibre's paths are normal, and looped (R265). -/
def State.fibreNormal (s : State) (f : Nat) : Bool :=
  let m := (s.mesh (f / 4)).map
  mapOut m (f % 4) = f % 4 && mapOut m (4 + f % 4) = 4 + f % 4
def State.fibreLooped (s : State) (f : Nat) : Bool := mapOut (s.mesh (f / 4)).map (4 + f % 4) = f % 4

/-- A sheaf, if it is configured (R90). -/
def State.sheafAt (s : State) (k : Nat) : Option Sheaf := SMap.find s.sheaves k
/-- The sheaf is a trunk sheaf. -/
def State.trunkSheaf (s : State) (k : Nat) : Bool := match s.sheafAt k with | some sh => sh.trunk | none => false
/-- The active list of a sheaf, ascending (R91). -/
def State.activeList (s : State) (k : Nat) : List Nat :=
  match s.sheafAt k with
  | none => []
  | some sh => (List.range 256).map (256 * (k / 256) + ·) |>.filter fun p =>
      sh.ports.contains p && (s.port p).armed && (s.port p).up && (s.port p).hstate != .expelled && !s.fibreLooped (p / 4)

/-- Entry n of a list taken modulo its length. -/
def pickMod (l : List Nat) (n : Nat) : Option Nat := if l.isEmpty then none else l[n % l.length]?

/-- SPRAY_SEED as quadrant q holds it. -/
def State.spraySeed (s : State) (q : Nat) : Nat := s.rf .tblSeeds [q] 16 16
/-- The port an Ovdu frame of a domain takes (R92). -/
def State.sprayDom (s : State) (q sheaf : Nat) (d : Domain) (seq : W32) : Option Nat :=
  pickMod (s.activeList sheaf) (hashDom (s.spraySeed q) d % 65536 + seq.toNat)
/-- The port a general-class frame takes (R93). -/
def State.sprayMac (s : State) (q sheaf vid : Nat) (f : Frame) : Option Nat :=
  pickMod (s.activeList sheaf)
    (hashH (s.spraySeed q) (leBytes 8 (macKey vid (fDa f)).toNat ++ leBytes 8 (macKey vid (fSa f)).toNat) % 65536)

/-! ### Liveness of a link -/

/-- A credit frame or a frame with a good FCS arrives: it ends a credit silence, which the millisecond then contains (R393). -/
def heardAt (now : Nat) (x : PortSt) : PortSt :=
  { x with aliveAt := now, silentMs := x.silentMs || x.aliveAt + 512000 ≤ now }

/-! ### The departure scoreboard (R95 to R100) -/

def domIs (q : Nat) (d : Domain) (r : DomRec) : Bool := r.quad.toNat = q && decide (r.dom = d)
/-- The record of a domain in quadrant q. -/
def State.domRec (s : State) (q : Nat) (d : Domain) : Option DomRec := s.doms.find? (domIs q d)
def State.setDomRec (s : State) (r : DomRec) : State :=
  { s with doms := updWhere s.doms (domIs r.quad.toNat r.dom) fun _ => r }
/-- Some fenced frame is held on a domain in quadrant q. -/
def State.hasHeld (s : State) (q : Nat) (d : Domain) : Bool := s.held.any fun h => h.quad.toNat = q && decide (h.dom = d)

/-- SEQ y counts as having left. -/
def hasLeft (r : DomRec) (y : W32) : Bool :=
  precedes y r.l || ((y - r.l).toNat < 512 && r.map.getLsbD (y - r.l).toNat)

/-- While the bit for L is set, clears it and adds 1 to L. -/
def foldL : Nat → DomRec → DomRec
  | 0, r => r
  | n + 1, r => if r.map.getLsbD 0 then foldL n { r with l := r.l + 1, map := r.map >>> 1 } else r

/-- The departure of SEQ x in a record, and whether it slipped (R96). An ignored departure changes nothing; a slip folds
nothing. -/
def departIn (r : DomRec) (x : W32) (now : Nat) : DomRec × Bool :=
  if hasLeft r x then (r, false)
  else
    let r := { r with lastDep := now }
    let d := (x - r.l).toNat
    if d < 512 then (foldL 512 { r with map := r.map ||| (BitVec.ofNat 512 1 <<< d) }, false)
    else
      let lo := x - 511
      let hi := match r.slipHi with | none => lo | some h => if precedes h lo then lo else h
      let map : BitVec 512 := if d - 511 < 512 then r.map.ushiftRight (d - 511) else 0
      ({ r with l := lo, slipHi := some hi, map := map ||| (BitVec.ofNat 512 1 <<< 511) }, true)

/-- Makes sure quadrant q has a record of the domain, created by SEQ x if need be (R97, R98). False: none can be had.
(DESIGN CHOICE, log 84, unsafe) -/
def State.needRec (s : State) (q : Nat) (d : Domain) (x : W32) : State × Bool :=
  if (s.domRec q d).isSome then (s, true)
  else
    let mine := s.doms.filter (·.quad.toNat = q)
    let fresh : DomRec := { quad := BitVec.ofNat 2 q, dom := d, l := x - 256, map := 0, slipHi := none,
                            birth := some (s.time.core + 2000 * s.rf .tblFence [q] 16 16, x), lastDep := s.time.core }
    if mine.length < 262144 then ({ s with doms := s.doms ++ [fresh] }, true)
    else
      let idle := mine.filter fun r => !s.hasHeld q r.dom
      match idle with
      | [] => (s, false)
      | r0 :: rest =>
        let old := rest.foldl (fun (b : DomRec) r => if r.lastDep < b.lastDep then r else b) r0
        ({ s with doms := s.doms.filter (fun r => !domIs q old.dom r) ++ [fresh] }, true)

/-- The SEQ values that a fence of s with PRECNT c counts. -/
def fenceRange (sq c : W32) : List W32 := (List.range c.toNat).map fun k => sq - BitVec.ofNat 32 (k + 1)
/-- Predecessors seen leaving (R99). -/
def seenLeft (r : DomRec) (sq c : W32) : Nat := ((fenceRange sq c).filter (hasLeft r)).length
/-- The fence may be released (R99). -/
def fenceOpen (r : DomRec) (sq c : W32) : Bool :=
  (fenceRange sq c).all (hasLeft r) && (match r.slipHi with | none => true | some h => !precedes (sq - c) h)

/-- Where a waiting frame stands: ingress port p and VC v at 8p + v, services of q at 8192 + 8q + v (R119). -/
def waitKey (src : IngressSrc) (vc : Nat) : Nat :=
  match src with | .port p => 8 * p.toNat + vc | .service q => 8192 + 8 * q.toNat + vc
def State.waitList (s : State) (k : Nat) : List Waiting := SMap.get s.waiting k []
/-- Puts a frame behind those that wait for admission on its VC. -/
def State.enqueueWait (s : State) (w : Waiting) : State :=
  { s with waiting := SMap.modify s.waiting (waitKey w.ctx.src w.ctx.vcIn.toNat) [] (· ++ [w]) }

/-- A frame that has arrived whole stands in a queue: its entry, with all its cells there. -/
def wholeEntry (c : FrameCtx) (members : List W32) (group : Bool) : QEntry :=
  { fid := c.fid, bytes := c.bytes, src := c.src, stampUs := c.stampUs, free := c.free, cells := frameCells c.bytes,
    released := frameCells c.bytes, members, group, result := c.result }

/-- Sends a released frame on: into its output queue, behind what that holds, or to its service (R100). -/
def State.releaseHeld (s : State) (h : Held) : State :=
  let c := h.wait.ctx
  let cells := frameCells c.bytes
  match h.copy, h.wait.target with
  | some (cp, p), _ =>
    let n := s.queueOf p c.bytes
    (s.charge p n cells (!s.groupCharged (p / 256) c.fid)).enqueue p n (wholeEntry c cp.members true)
  | none, .unicast _ p =>
    let n := s.queueOf p c.bytes
    (s.charge p n cells true).enqueue p n (wholeEntry c [] false)
  | none, t => s.handOver c t

/-- FENCE_HOLD_US of quadrant q in CLK_CORE cycles (R44). -/
def State.holdLimit (s : State) (q : Nat) : Nat := 2000 * s.rf .portFence [q] 0 16
/-- Releases every held frame of a domain whose fence is open (R99), up to and in the cycle in which its hold limit expires
(R43). (DESIGN CHOICE, log 84, unsafe) -/
def State.releaseFences (s : State) (q : Nat) (d : Domain) : State :=
  match s.domRec q d with
  | none => s
  | some r =>
    let go (h : Held) : Bool := h.quad.toNat = q && decide (h.dom = d) && fenceOpen r h.seq h.precnt &&
      s.time.core ≤ h.since + s.holdLimit q
    let out := s.held.filter go
    out.foldl (fun s h => s.releaseHeld h) { s with held := s.held.filter fun h => !go h }

/-- Records the departure of a frame in quadrant q's scoreboard, and releases what it opens (R96, R99). -/
def State.depart (s : State) (q : Nat) (f : Frame) : State :=
  if !(s.isOvdu q f && fences (oOp f)) then s
  else
    let n := s.needRec q (oDom f) (oSeq f)
    if !n.2 then n.1.countQuad q 40
    else
      match n.1.domRec q (oDom f) with
      | none => n.1
      | some r =>
        let d := departIn r (oSeq f) s.time.core
        let s := n.1.setDomRec d.1
        let s := if d.2 then s.countQuad q 39 else s
        s.releaseFences q (oDom f)

/-- The quadrants that keep a frame's domain when no route was chosen: the Die of a service EID, else the quadrant of the sheaf
its destination's entry names, else its ingress (R95). A group frame whose members were not resolved has those that already
keep a record of its domain, or its ingress. (DESIGN CHOICE, log 84, unsafe) -/
def State.domQuads (s : State) (q : Nat) (f : Frame) : State × List Nat :=
  if fGroup f then
    let have_ := (List.range 4).filter fun y => (s.domRec y (oDom f)).isSome
    (s, if have_.isEmpty then [q] else have_)
  else if s.isSvcEid q (oDst f) then (s, [eidDie (oDst f)])
  else
    let r := s.homeEntry q (eidKey (oDst f))
    (r.1, [match r.2 with | some e => eSheaf e / 256 | none => q])

/-- The departure of a frame that is dropped in quadrant q before a route is chosen (R95, R96). -/
def State.departDropped (s : State) (q : Nat) (f : Frame) : State :=
  if !(s.isOvdu q f && fences (oOp f)) then s
  else
    let r := s.domQuads q f
    r.2.foldl (fun (s : State) y => s.depart y f) r.1

/-- A copy of a group frame is gone from quadrant q: the frame has left it once no other copy of it remains there (R42). -/
def State.departCopy (s : State) (q fid : Nat) (f : Frame) : State := if s.groupRemains q fid then s else s.depart q f

/-- A queue entry is gone from quadrant q. -/
def State.departEntry (s : State) (q : Nat) (e : QEntry) : State :=
  if e.group then s.departCopy q e.fid e.bytes else s.depart q e.bytes

/-! ### Routes -/

/-- What a route comes to: a fault of a check with its NACK reason and DETAIL, a fence that the scoreboard of quadrant `q` can
neither hold nor pass, a wait for the home, or the frame placed. -/
inductive Route where
  | fail (check reason : Nat) (detail : Nat)
  | timeout (q detail : Nat)
  | wait
  | ok
  deriving DecidableEq, Repr

/-- NACK reasons (R61). -/
def rBadVersion : Nat := 0x0001
def rBadOpcode : Nat := 0x0002
def rBadLength : Nat := 0x0003
def rAddrMismatch : Nat := 0x0004
def rBadDest : Nat := 0x0005
def rNoRoute : Nat := 0x0006
def rNoGroup : Nat := 0x0007
def rJobDenied : Nat := 0x0008
def rFenced : Nat := 0x0009
def rVcViolation : Nat := 0x000A
def rCreditOverrun : Nat := 0x000B
def rRouteLoop : Nat := 0x000C
def rFenceRange : Nat := 0x000D
def rFenceTimeout : Nat := 0x000E
def rNoService : Nat := 0x000F
def rOpUnsupported : Nat := 0x0010
def rBadAtomic : Nat := 0x0011
def rWindowDenied : Nat := 0x0012
def rAddrRange : Nat := 0x0013

/-- Index of the check counter in the port's group; the NO_GROUP outcome of check 12 has its own (R401). -/
def checkIndex (check reason : Nat) : Nat := if check = 12 && reason = rNoGroup then 38 else 16 + check

/-- Holds a fenced frame in quadrant q, or passes it on at once (R98 to R100). Its ingress cells are freed at either. -/
def State.fenceOr (s : State) (q : Nat) (w : Waiting) (copy : Option (Copy × Nat)) (pass : State → State) : State × Option Nat :=
  let f := w.ctx.bytes
  if !(s.isOvdu q f && oFence f && fences (oOp f)) then (pass s, none)
  else
    let n := s.needRec q (oDom f) (oSeq f)
    if !n.2 then (n.1, some 0)
    else
      match n.1.domRec q (oDom f) with
      | none => (n.1, some 0)
      | some r =>
        if fenceOpen r (oSeq f) (oPrecnt f) then (pass n.1, none)
        else if 4096 ≤ (n.1.held.filter (·.quad.toNat = q)).length then
          (n.1.countQuad q 41, some (seenLeft r (oSeq f) (oPrecnt f)))
        else
          let s := if copy.isNone then n.1.freeIngress w.ctx else n.1
          let w := if copy.isNone then { w with ctx := { w.ctx with share := 0 } } else w
          ({ s with held := s.held ++ [{ quad := BitVec.ofNat 2 q, dom := oDom f, seq := oSeq f, precnt := oPrecnt f,
                                         wait := w, copy, since := s.time.core }] }, none)

/-- Check 15 (R40, R41): FENCE with PRECNT above 4,095, on an opcode that honours it. -/
def badPrecnt (f : Frame) : Bool := oFence f && fences (oOp f) && 4095 < (oPrecnt f).toNat

/-- The route of a unicast frame whose destination entry is `e`: checks 13 to 16, the link, and the fence (R59, R92 to R94).
`ovdu` is false for a general-class frame, which has no JOB, no fence and no date line. (DESIGN CHOICE, log 82, unsafe) -/
def State.routeEntry (s : State) (c : FrameCtx) (ovdu : Bool) (vid : Nat) (e : Entry) : State × Route :=
  let q := srcQuad c.src
  let f := c.bytes
  if !(eJobAny e || (ovdu && oJob f = eJob e)) then (s, .fail 13 rJobDenied (eJob e))
  else if eFenced e then (s, .fail 14 rFenced 0)
  else if ovdu && badPrecnt f then (s, .fail 15 rFenceRange (oPrecnt f).toNat)
  else
    let link := if ovdu then s.sprayDom q (eSheaf e) (oDom f) (oSeq f) else s.sprayMac q (eSheaf e) vid f
    match link with
    | none => (s, .fail 12 rNoRoute 0)
    | some p =>
      let cls := s.frameClass q f
      if ovdu && (cls = clsCollective || cls = clsBulk) && oDl f && s.dateline p then
        (s, .fail 16 rRouteLoop (p % 256))
      else
        let w : Waiting := ⟨c, .unicast (eSheaf e) p⟩
        let r := s.fenceOr (eSheaf e / 256) w none (·.enqueueWait w)
        match r.2 with
        | none => (r.1, .ok)
        | some seen => (r.1, .timeout (eSheaf e / 256) ((oPrecnt f).toNat * 2 ^ 32 + seen))

/-- Opcodes a service takes (R34, check 18): results and Pitch copies are answered with ACK and NACK. -/
def svcAccepts (engine op : Nat) : Bool :=
  if engine = svcMash then op = opPutReduce || op = opAck || op = opNack
  else if engine = svcPitch then op = opPut || op = opGet || op = opAck || op = opNack
  else false

/-- Where a frame for the Mash service goes: the placed quadrant of its chunk, which the caller computes (R16, R170). -/
abbrev Placer := State → Frame → Nat

/-- The route of a frame whose DST_EID is a service EID of this device: checks 15, 17 and 18 (R59, R66, R354). A PUT or GET
to Pitch goes to the quadrant of its chunk (R381, R384). -/
def State.routeService (place : Placer) (s : State) (c : FrameCtx) : State × Route :=
  let f := c.bytes
  let d := eidDie (oDst f)
  let e := eidEngine (oDst f)
  if badPrecnt f then (s, .fail 15 rFenceRange (oPrecnt f).toNat)
  else if e > svcControl || bit s.rst.quadInReset.toNat d then (s, .fail 17 rNoService e)
  else if !svcAccepts e (oOp f) then (s, .fail 18 rOpUnsupported (oOp f))
  else
    let dest := if e = svcMash then Target.mash (BitVec.ofNat 2 (place s f))
      else Target.pitch (BitVec.ofNat 2 (if oOp f = opPut || oOp f = opGet then oAddr f / 8192 else d))
    let w : Waiting := ⟨c, dest⟩
    let r := s.fenceOr d w none (·.enqueueWait w)
    match r.2 with
    | none => (r.1, .ok)
    | some seen => (r.1, .timeout d ((oPrecnt f).toNat * 2 ^ 32 + seen))

/-- A destination lookup of a group member: a miss in the remote cache takes the home's reply within the step. -/
def State.memberFind (s : State) (q : Nat) (key : W64) : State × Option Entry :=
  let h := s.homeOf q key
  if h = q then
    let r := s.homeFind h key
    (r.1, r.2.map (·.2.2))
  else
    let r := s.cacheFind q key
    match r.2 with
    | some (_, l) => (r.1, some l.entry)
    | none =>
      if bit s.rst.quadInReset.toNat h then (r.1, none)
      else
        let r := r.1.homeFind h key
        match r.2 with
        | none => (r.1, none)
        | some (_, _, e) => (r.1.cacheInstall q e, some e)

/-- Adds a member to the copy of its sheaf, keeping the sheaves in the order their first member resolves. -/
def addCopy (cs : List Copy) (sheaf m : Nat) : List Copy :=
  if cs.any (·.sheaf = sheaf) then updWhere cs (·.sheaf = sheaf) fun c => { c with members := c.members ++ [BitVec.ofNat 32 m] }
  else cs ++ [⟨sheaf, [BitVec.ofNat 32 m]⟩]

/-- Resolves members into copies (R126, R128): none to the source, to a member that misses, to one whose entry does not allow
the JOB, or to a fenced one, which is counted. Answers also the fenced members. -/
def State.resolveMembers (s : State) (q src job : Nat) (members : List Nat) : State × List Copy × List Nat :=
  members.foldl (fun acc m =>
    if m = src then acc
    else
      let r := acc.1.memberFind q (eidKey m)
      match r.2 with
      | none => (r.1, acc.2)
      | some e =>
        if !(eJobAny e || eJob e = job) then (r.1, acc.2)
        else if eFenced e then (r.1.countQuad q 53, acc.2.1, acc.2.2 ++ [m])
        else (r.1, addCopy acc.2.1 (eSheaf e) m, acc.2.2)) (s, [], [])

/-- The route of an Ovdu group frame (R59 checks 12, 13, 15; R126). -/
def State.routeGroup (s : State) (c : FrameCtx) : State × Route :=
  let q := srcQuad c.src
  let f := c.bytes
  match SMap.find s.groups (oDst f) with
  | none => (s, .fail 12 rNoGroup (oDst f))
  | some g =>
    if g.kind = 3 then (s, .fail 12 rNoGroup (oDst f))
    else if !(g.jobAny || g.job.toNat = oJob f) then (s, .fail 13 rJobDenied g.job.toNat)
    else if badPrecnt f then (s, .fail 15 rFenceRange (oPrecnt f).toNat)
    else
      let r := s.resolveMembers q (oSrc f) (oJob f) (lineMembers g.kind g.base.toNat g.mask)
      (r.1.enqueueWait ⟨c, .copies r.2.1⟩, .ok)

/-- Floods a general-class frame to the VLAN's flood group, less the sheaf it entered by and any sheaf set as trunk since (R56,
R129). -/
def State.flood (s : State) (c : FrameCtx) (vid : Nat) : State × Route :=
  match s.groups.find? fun g => g.2.kind = 3 && g.2.vid = vid with
  | none => (s, .fail 12 rNoRoute 0)
  | some (_, g) =>
    let own := match c.src with | .port p => s.sheafOfPort p.toNat | .service _ => none
    (s.enqueueWait ⟨c, .copies ((g.sheaves.filter fun k => own ≠ some k && !s.trunkSheaf k).map fun k => ⟨k, []⟩)⟩, .ok)

/-- A frame waits for the home's reply (R70). -/
def State.awaitReply (s : State) (q : Nat) (key : W64) (c : FrameCtx) : State :=
  { s with lookups := s.lookups ++ [{ quad := BitVec.ofNat 2 q, key, ctx := c }] }

/-- The route of a frame after checks 1 to 11 and policing (R59, R66). -/
def State.route (place : Placer) (s : State) (c : FrameCtx) : State × Route :=
  let q := srcQuad c.src
  let f := c.bytes
  if s.isOvdu q f then
    if fGroup f then s.routeGroup c
    else if s.isSvcEid q (oDst f) then s.routeService place c
    else
      let r := s.lookup q (eidKey (oDst f))
      match r.2 with
      | .hit e => r.1.routeEntry c true 0 e
      | .miss => (r.1, .fail 12 rNoRoute 0)
      | .wait => (r.1.awaitReply q (eidKey (oDst f)) c, .wait)
  else
    let vid := match c.src with | .port p => s.genVid p.toNat f | .service _ => 0
    if fGroup f then s.flood c vid
    else
      let key := macKey vid (fDa f)
      let r := s.lookup q key
      match r.2 with
      | .hit e => r.1.routeEntry c false vid e
      | .miss => r.1.flood c vid
      | .wait => (r.1.awaitReply q key c, .wait)

/-! ### Frames of the device's services and NACKs (R36, R60, R449) -/

/-- A service's frame that is not forwarded: counted, and it counts as having left (R96, R449). -/
def State.ownDrop (s : State) (q : Nat) (f : Frame) : State := (s.countQuad q 52).departDropped q f

/-- A frame of a service whose lookup had to wait is not forwarded: a Mash write that it carried counts as failed (R182, R449). -/
def State.ownLost (s : State) (q : Nat) (c : FrameCtx) : State :=
  let s := s.ownDrop q c.bytes
  match c.outcome with | some k => s.countQuad k 45 | none => s

/-- A frame context for a service's own frame. -/
def State.ownCtx (s : State) (q : Nat) (f : Frame) (result : Option (Nat × Nat × Nat)) (outcome : Option Nat := none) : FrameCtx :=
  { fid := s.nextFid, bytes := f, src := .service (BitVec.ofNat 2 q), stampUs := s.time.free.toNat / 1000, free := s.time.free,
    vcIn := BitVec.ofNat 3 (vcOf (s.frameClass q f) true false), cellsIn := 0, share := 0, result,
    outcome }

/-- A service of quadrant q sends a frame: checks 11 to 14 of R59 and R94 drop it (R449); answers whether it was routed (or waits
for its lookup). -/
def State.sendOwn (place : Placer) (s : State) (q : Nat) (f : Frame) (result : Option (Nat × Nat × Nat))
    (outcome : Option Nat := none) : State × Bool :=
  let c := s.ownCtx q f result outcome
  let s := { s with nextFid := s.nextFid + 1 }
  if badDest f then (s.ownDrop q f, false)
  else
    let r := s.route place c
    match r.2 with
    | .fail .. | .timeout .. => (r.1.ownDrop q f, false)
    | _ => (r.1, true)

/-- NACK_TC. -/
def State.nackTc (s : State) (q : Nat) : Nat := s.rf .portTcmap [q] 19 3

/-- The NACK of a frame, from the Control service of quadrant q (R36, R60). (DESIGN CHOICE, log 82, unsafe) -/
def State.nackFrame (s : State) (q : Nat) (f : Frame) (reason detail : Nat) : Frame :=
  mkOvdu (s.ovduEtype q)
    { op := opNack, tc := s.nackTc q, job := oJob f, flow := oFlow f, len := 16, seq := (oSeq f).toNat,
      src := s.svcEid q svcControl, dst := oSrc f }
    (beBytes 2 reason ++ beBytes 1 (oOp f) ++ [0] ++ beBytes 4 (oDst f) ++ beBytes 8 detail)

/-- Sends a NACK for a frame of port p from quadrant q: at most one per ingress port in each 256 ns (R60). One that is dropped
on its way (R449) uses up the port's time as well. (DESIGN CHOICE, log 93, unsafe) -/
def State.nack (place : Placer) (s : State) (p q : Nat) (f : Frame) (reason detail : Nat) : State :=
  let free : Bool := match (s.port p).lastNack with | none => true | some t => t + 512 ≤ s.time.core
  if !free then s.countPort p 39
  else ((s.updPort p fun x => { x with lastNack := some s.time.core }).sendOwn place q (s.nackFrame q f reason detail) none).1

/-- A frame of port p fails a check in quadrant q: counted and tapped as a drop, its cells freed, its departure recorded, and
an Ovdu frame that is no response gets its NACK (R37, R52, R57, R59, R96). `idx` is the port counter.
(DEDUCED, log 39, unsafe) -/
def State.dropFrame (place : Placer) (s : State) (c : FrameCtx) (q idx : Nat) (answer : Option (Nat × Nat)) : State :=
  let f := c.bytes
  match c.src with
  | .service sq => s.ownLost sq.toNat c
  | .port p =>
    let ovdu := s.isOvdu q f
    let s := (s.countPort p.toNat idx).watch 2 p.toNat f ovdu false 0xFF (0x8000 + idx)
    let s := (s.freeIngress c).departDropped q f
    match answer with
    | some (reason, detail) => if ovdu && !isResponse (oOp f) then s.nack place p.toNat q f reason detail else s
    | none => s

/-- Taps a fenced frame of ingress port p that its scoreboard could neither hold nor pass, or held too long: no counter of the port
counts it (R44, R100, R407). (DEDUCED, log 77, safe) -/
def State.watchFence (s : State) (q p : Nat) (f : Frame) : State := s.watch 2 p f (s.isOvdu q f) false 0xFF 0

/-- Takes a route's outcome: a failed check drops the frame with its answer. A fence drop has no check of its own, and is
answered from the quadrant of the scoreboard that found it (R60, R100). -/
def State.settleRoute (place : Placer) (c : FrameCtx) (r : State × Route) : State :=
  match r.2 with
  | .fail check reason detail => r.1.dropFrame place c (srcQuad c.src) (checkIndex check reason) (some (reason, detail))
  | .timeout q detail =>
    match c.src with
    | .service sq => r.1.ownLost sq.toNat c
    | .port p => (((r.1.watchFence q p.toNat c.bytes).freeIngress c).depart q c.bytes).nack place p.toNat q c.bytes rFenceTimeout detail
  | _ => r.1

end Sys2Proof.Machine
end

