-- ==== Sys2Proof/Machine/MashArith.lean ====
section
/-! DEFINITION. The exact reduction arithmetic of Mash (R185 to R216): formats, the 320-bit register held as segments and
pending carries, the operators, rounding, MX blocks, and the transfer forms of ring partials. -/
namespace Sys2Proof.Machine

/-! ### Formats (R186, R187, R193, R197) -/

/-- A float format: exponent bits, bias, fraction bits, how it codes infinity and NaN, largest finite significand and its
exponent, and the canonical NaN. -/
structure FloatFmt where
  eb : Nat
  bias : Int
  f : Nat
  /-- Infinity and NaN of IEEE kind at the top exponent. -/
  ieee : Bool
  /-- The only NaN is the top code of the top exponent (E4M3). -/
  topNan : Bool
  emin : Int
  maxM : Nat
  maxE : Int
  nan : Nat
  deriving DecidableEq, Repr

def fp32 : FloatFmt := ⟨8, 127, 23, true, false, -126, 2 ^ 24 - 1, 104, 0x7FC00000⟩
def bf16 : FloatFmt := ⟨8, 127, 7, true, false, -126, 255, 120, 0x7FC0⟩
def fp16 : FloatFmt := ⟨5, 15, 10, true, false, -14, 2047, 5, 0x7E00⟩
def e4m3 : FloatFmt := ⟨4, 7, 3, false, true, -6, 14, 5, 0x7F⟩
def e5m2 : FloatFmt := ⟨5, 15, 2, true, false, -14, 7, 13, 0x7E⟩
def e2m3 : FloatFmt := ⟨2, 1, 3, false, false, 0, 15, -1, 0⟩
def e3m2 : FloatFmt := ⟨3, 3, 2, false, false, -2, 7, 2, 0⟩
def e2m1 : FloatFmt := ⟨2, 1, 1, false, false, 0, 3, 1, 0⟩

/-- The float format of a code, with whether it is an MX block format. -/
def floatOf (code : Nat) : Option (FloatFmt × Bool) :=
  match code with
  | 0x01 => some (fp32, false) | 0x02 => some (bf16, false) | 0x03 => some (fp16, false)
  | 0x04 => some (e4m3, false) | 0x05 => some (e5m2, false)
  | 0x08 => some (e4m3, true) | 0x09 => some (e5m2, true) | 0x0A => some (e2m3, true) | 0x0B => some (e3m2, true)
  | 0x0C => some (e2m1, true)
  | _ => none
def isInt (code : Nat) : Bool := code = 0x10 || code = 0x11
def isFloat (code : Nat) : Bool := (floatOf code).isSome
def isMx (code : Nat) : Bool := match floatOf code with | some (_, mx) => mx | none => false
/-- Bits of an element, without the block scale. -/
def elemBits (code : Nat) : Nat := match floatOf code with | some (x, _) => 1 + x.eb + x.f | none => 32

/-- Bytes of `n` elements, MX in whole blocks (R187). -/
def fmtBytes (code n : Nat) : Nat :=
  if isMx code then cdiv n 32 * (1 + 4 * elemBits code) else n * (elemBits code / 8)
/-- ⌊8,192 ÷ b⌋ (R163, R176); a format of no element takes one part. -/
def partLimit (code : Nat) : Nat :=
  if code = 0 then 8192 else if isMx code then 8192 * 32 / (1 + 4 * elemBits code) else 8192 / (elemBits code / 8)

/-! ### Decoded elements (R193 to R195) -/

/-- An element as Mash takes it: a finite value in units of 2^-149, a bit pattern of an integer, or a special. -/
inductive ElemVal | fin (v : Int) | nan | pinf | ninf
  deriving DecidableEq, Repr

/-- `M × 2^(E + 149)` with a sign. -/
def scaled (neg : Bool) (m : Nat) (e : Int) : Int :=
  let x : Int := m * 2 ^ (e + 149).toNat
  if neg then -x else x

/-- A float code to its value; `s` is the MX scale byte (127 for none). -/
def decodeFloat (x : FloatFmt) (s : Nat) (c : Nat) : ElemVal :=
  let F := fld c 0 x.f
  let ex := fld c x.f x.eb
  let neg := bit c (x.f + x.eb)
  let top := 2 ^ x.eb - 1
  if x.ieee && ex = top then (if F ≠ 0 then .nan else if neg then .ninf else .pinf)
  else if x.topNan && ex = top && F = 2 ^ x.f - 1 then .nan
  else
    let sc : Int := (s : Int) - 127
    if ex = 0 then .fin (scaled neg F (1 - x.bias - x.f + sc))
    else .fin (scaled neg (2 ^ x.f + F) (ex - x.bias - x.f + sc))

/-- An integer element: INT32 in two's complement, UINT32 unsigned, times 2^149. -/
def decodeInt (code c : Nat) : Int := (if code = 0x10 then sgn c 32 else (c % 2 ^ 32 : Nat)) * 2 ^ 149

/-- One MX block: 32 elements. -/
def decodeBlock (x : FloatFmt) (b : List Byte) : List ElemVal :=
  let s := leAt b 0 1
  let w := 1 + x.eb + x.f
  let v := leNat (b.drop 1)
  (List.range 32).map fun i => if s = 0xFF then .nan else decodeFloat x s (fld v (w * i) w)

/-- The first `n` elements of a payload. -/
def decodeElems (code n : Nat) (b : List Byte) : List ElemVal :=
  match floatOf code with
  | some (x, true) =>
    let bb := 1 + 4 * elemBits code
    ((List.range (cdiv n 32)).flatMap fun k => decodeBlock x (sl b (k * bb) bb)).take n
  | some (x, false) =>
    let w := elemBits code / 8
    (List.range n).map fun i => decodeFloat x 127 (leAt b (w * i) w)
  | none => (List.range n).map fun i => .fin (decodeInt code (leAt b (4 * i) 4))

/-! ### The long register (R190 to R192) -/

/-- V modulo 2^320. -/
def elemNat (e : Elem) : Nat :=
  let segs : Int := (List.range 10).foldl (fun a j => a + (nthD e.segs j 0).toNat * 2 ^ (32 * j)) 0
  let car : Int := (List.range 9).foldl (fun a j => a + nthD e.carry j 0 * 2 ^ (32 * (j + 1))) 0
  ((segs + car) % (2 ^ 320 : Nat)).toNat
/-- V as a signed value. -/
def elemInt (e : Elem) : Int := sgn (elemNat e) 320

/-- The segments of a value modulo 2^320. -/
def segsOf (v : Nat) : List W32 := (List.range 10).map fun j => BitVec.ofNat 32 (fld v (32 * j) 32)

/-- The element with value V in the normalised form. -/
def setV (e : Elem) (v : Int) : Elem :=
  { e with segs := segsOf (v % (2 ^ 320 : Nat)).toNat, carry := List.replicate 9 0 }
/-- Resolves pending carries (R192). -/
def resolve (e : Elem) : Elem := setV e (elemNat e)

/-- A pending carry into segment j+1 that stays inside -4 to +3. -/
def carryFits (e : Elem) (j : Nat) (d : Int) : Bool := j = 9 || (-4 ≤ nthD e.carry j 0 + d && nthD e.carry j 0 + d ≤ 3)

/-- Adds or subtracts one 32-bit part at segment j; its carry or borrow goes to the next segment's counter, after a resolution
when the counter has no room (R191, R192). -/
def segAdd (e : Elem) (j x : Nat) (neg : Bool) : Elem :=
  let go (e : Elem) : Elem × Bool :=
    let old := (nthD e.segs j 0).toNat
    let new : Int := if neg then (old : Int) - x else old + x
    let d : Int := if new < 0 then -1 else if new ≥ 2 ^ 32 then 1 else 0
    let e' := { e with segs := e.segs.set j (BitVec.ofInt 32 new) }
    if d = 0 || j = 9 then (e', true)
    else ({ e' with carry := e.carry.set j (nthD e.carry j 0 + d) }, carryFits e j d)
  let r := go e
  if r.2 then r.1 else (go (resolve e)).1

/-- Adds a signed magnitude, touching only the segments that its bits cover. (DEDUCED, log 56, unsafe) -/
def addMag (e : Elem) (m : Nat) (neg : Bool) : Elem :=
  (List.range 10).foldl (fun e j => let x := fld m (32 * j) 32; if x = 0 then e else segAdd e j x neg) e
/-- Adds a value into V. -/
def addV (e : Elem) (v : Int) : Elem := addMag e (v.natAbs % 2 ^ 320) (v < 0)

/-! ### Operators (R189, R195, R201 to R204) -/

/-- ARITH_FLAGS bits (R205). -/
def afNanIn : Nat := 1
def afInfIn : Nat := 2
def afInvalid : Nat := 4
def afOverflow : Nat := 8
def afUnderflow : Nat := 16
def afInexact : Nat := 32
def afNanOut : Nat := 64
def afMxClamp : Nat := 128
def afEmpty : Nat := 256
def afHopRounded : Nat := 512
def afHopSpread : Nat := 1024

/-- The bits of an integer element's value for the bitwise operators. -/
def rawBits (v : Int) : Nat := ((v / 2 ^ 149) % (2 ^ 32 : Nat)).toNat

/-- Combines a finite value into an element by OPERATOR; `first` tells that no finite value has reached it.
(DEDUCED, log 56, unsafe) -/
def combine (op : Nat) (e : Elem) (v : Int) (first : Bool) : Elem :=
  match op with
  | 0x02 => if first || v < elemInt e then setV e v else e
  | 0x03 => if first || elemInt e < v then setV e v else e
  | 0x04 => setV e (((if first then rawBits v else rawBits (elemInt e) &&& rawBits v) : Nat) * 2 ^ 149)
  | 0x05 => setV e (((rawBits (elemInt e) ||| rawBits v) : Nat) * 2 ^ 149)
  | 0x06 => setV e (((rawBits (elemInt e) ^^^ rawBits v) : Nat) * 2 ^ 149)
  | _ => addV e v

/-- Adds one contribution to an element, and the flags it raises. -/
def contribute (op : Nat) (e : Elem) (x : ElemVal) : Elem × Nat :=
  let e1 : Elem := { e with count := e.count + 1 }
  match x with
  | .fin v => ({ combine op e v (!e.fin) with count := e.count + 1, fin := true }, 0)
  | .nan => ({ e1 with nan := true }, afNanIn)
  | .pinf => ({ e1 with pinf := true, infs := e.infs + 1 }, afInfIn + (if e.ninf then afInvalid else 0))
  | .ninf => ({ e1 with ninf := true, infs := e.infs + 1 }, afInfIn + (if e.pinf then afInvalid else 0))

/-- What an element's result is before it is coded (R195). -/
def resultOf (op : Nat) (e : Elem) : ElemVal :=
  if e.nan || (e.pinf && e.ninf) then .nan
  else if e.pinf then (if op = 0x02 && e.fin then .fin (elemInt e) else .pinf)
  else if e.ninf then (if op = 0x03 && e.fin then .fin (elemInt e) else .ninf)
  else .fin (elemInt e)

/-! ### Rounding (R197 to R200) -/

/-- Codes a finite magnitude q × 2^ex with its sign. -/
def encodeFin (x : FloatFmt) (neg : Bool) (q : Nat) (ex : Int) : Nat :=
  let sgnBit := b2n neg * 2 ^ (x.f + x.eb)
  let (q, ex) := if q = 2 ^ (x.f + 1) then (2 ^ x.f, ex + 1) else (q, ex)
  if q < 2 ^ x.f then sgnBit + q
  else sgnBit + (ex + x.f + x.bias).toNat * 2 ^ x.f + (q - 2 ^ x.f)

/-- The infinity code. -/
def encodeInf (x : FloatFmt) (neg : Bool) : Nat := b2n neg * 2 ^ (x.f + x.eb) + (2 ^ x.eb - 1) * 2 ^ x.f

/-- q × 2^ex exceeds the largest finite value. -/
def overMax (x : FloatFmt) (q : Nat) (ex : Int) : Bool :=
  let b := min ex x.maxE
  x.maxM * 2 ^ (x.maxE - b).toNat < q * 2 ^ (ex - b).toNat

/-- How a remainder is rounded: to nearest with ties to even, or stochastically with 24 drawn bits (R233). -/
inductive RoundMode | nearest | stochastic (rnd : Nat)
  deriving DecidableEq, Repr

/-- R198 for V × 2^-X: the code and its flags. `sat`: overflow saturates to the largest finite value.
(DEDUCED, log 56, unsafe) -/
def roundFloat (x : FloatFmt) (sat : Bool) (X : Int) (mode : RoundMode) (v : Int) : Nat × Nat :=
  if v = 0 then (0, 0)
  else
    let neg := v < 0
    let m := v.natAbs
    let L : Int := Nat.log2 m
    let e := max (L - 149 - X) x.emin
    let k := e - x.f + 149 + X
    let (q, r) : Nat × Bool :=
      if k ≤ 0 then (m * 2 ^ (-k).toNat, false)
      else
        let kk := k.toNat
        let q := m / 2 ^ kk
        let r := m % 2 ^ kk
        match mode with
        | .nearest =>
          let h := 2 ^ (kk - 1)
          (if r > h || (r = h && q % 2 = 1) then q + 1 else q, r ≠ 0)
        | .stochastic rnd => (if 2 ^ 24 ≤ r * 2 ^ 24 / 2 ^ kk + rnd then q + 1 else q, r ≠ 0)
    let ex := e - x.f
    if overMax x q ex then
      ((if sat || !x.ieee then encodeFin x neg x.maxM x.maxE else encodeInf x neg), afOverflow + afInexact)
    else
      (encodeFin x neg q ex,
        (if r then afInexact else 0) + (if r && q < 2 ^ x.f then afUnderflow else 0))

/-- A result in a plain float format. (DEDUCED, log 56, unsafe) -/
def encodeFloat (x : FloatFmt) (r : ElemVal) : Nat × Nat :=
  match r with
  | .fin v => roundFloat x false 0 .nearest v
  | .nan => (x.nan, afNanOut)
  | .pinf => if x.ieee then (encodeInf x false, 0) else (x.nan, afNanOut)
  | .ninf => if x.ieee then (encodeInf x true, 0) else (x.nan, afNanOut)

/-- A result in an integer format (R200); specials never reach an integer plan. (DEDUCED, log 56, unsafe) -/
def encodeInt (code : Nat) (r : ElemVal) : Nat × Nat :=
  match r with
  | .fin v =>
    let n := v / 2 ^ 149
    let lo : Int := if code = 0x10 then -2 ^ 31 else 0
    let hi : Int := if code = 0x10 then 2 ^ 31 - 1 else 2 ^ 32 - 1
    let c := if n < lo then lo else if n > hi then hi else n
    ((c % (2 ^ 32 : Nat)).toNat, if c = n then 0 else afOverflow)
  | _ => (0, 0)

/-- emax_e of R199. -/
def emaxOf (x : FloatFmt) : Int := x.maxE + x.f

/-- An MX block of exact results times 2^ps, at most 32 of them (R199): scale byte, element codes, flags.
(DEDUCED, log 56, unsafe) -/
def encodeBlock (x : FloatFmt) (ps : Int) (mode : Nat → RoundMode) (rs : List ElemVal) : Nat × List Nat × Nat :=
  let finOf (r : ElemVal) : Option Int := match r with | .fin v => some v | _ => none
  match rs.mapM finOf with
  | none => (0xFF, List.replicate 32 0, afNanOut)
  | some vs =>
    let a := (vs.map Int.natAbs).foldl max 0
    if a = 0 then (0, List.replicate 32 0, 0)
    else
      let x0 : Int := (Nat.log2 a : Int) - 149 + ps - emaxOf x
      let X := if x0 > 127 then 127 else if x0 < -127 then -127 else x0
      let cs := vs.mapIdx fun i v => roundFloat x true (X - ps) (mode i) v
      ((X + 127).toNat, cs.map (·.1) ++ List.replicate (32 - cs.length) 0,
        cs.foldl (fun f c => f ||| c.2) (if X = x0 then 0 else afMxClamp))

/-- The bytes of an MX block. -/
def blockBytes (x : FloatFmt) (scale : Nat) (codes : List Nat) : List Byte :=
  let w := 1 + x.eb + x.f
  leBytes 1 scale ++ leBytes (4 * w) ((codes.mapIdx fun i c => c * 2 ^ (w * i)).foldl (· + ·) 0)

/-- Splits a list into pieces of n. -/
def chunksOf {α : Type} (n : Nat) : Nat → List α → List (List α)
  | 0, _ => []
  | k + 1, l => if l.isEmpty then [] else l.take n :: chunksOf n k (l.drop n)

/-- The bytes of results in OUT_FMT, and their flags (R196 to R200). -/
def encodeResults (code : Nat) (rs : List ElemVal) : List Byte × Nat :=
  match floatOf code with
  | some (x, true) =>
    let bs := (chunksOf 32 rs.length rs).map (encodeBlock x 0 fun _ => .nearest)
    (bs.flatMap fun b => blockBytes x b.1 b.2.1, bs.foldl (fun f b => f ||| b.2.2) 0)
  | some (x, false) =>
    let cs := rs.map (encodeFloat x)
    (cs.flatMap fun c => leBytes (elemBits code / 8) c.1, cs.foldl (fun f c => f ||| c.2) 0)
  | none =>
    let cs := rs.map (encodeInt code)
    (cs.flatMap fun c => leBytes 4 c.1, cs.foldl (fun f c => f ||| c.2) 0)

/-- The final rounding of elements (R196, R204). The bitwise operators write their 32 bits back unchanged, so an INT32 plan's
bits are coded unsigned and never saturate (R202). -/
def finishElems (op code : Nat) (es : List Elem) : List Byte × Nat :=
  let r := encodeResults (if 4 ≤ op && op ≤ 6 then 0x11 else code) (es.map (resultOf op))
  (r.1, r.2 ||| (if es.any (·.count = 0) then afEmpty else 0))

/-! ### Ring partials (R207 to R216) -/

/-- The trimmed-long record of an element (R208). (DEDUCED, log 56, unsafe) -/
def trimRecord (e : Elem) : List Byte :=
  let v := elemNat e
  let flags := b2n e.nan + 2 * b2n e.pinf + 4 * b2n e.ninf + 8 * b2n (e.count = 0)
  if v = 0 then leBytes 1 0 ++ leBytes 1 flags
  else
    let seg (j : Nat) : Nat := fld v (32 * j) 32
    let lo := ((List.range 10).find? fun j => seg j ≠ 0).getD 0
    -- the lowest segment above which every bit equals its top bit
    let okTop (j : Nat) : Bool := decide (sgn (v % 2 ^ (32 * (j + 1))) (32 * (j + 1)) = sgn v 320)
    let top := ((List.range 10).find? okTop).getD 9
    let n := top + 1 - lo
    leBytes 1 (n + 16 * lo) ++ leBytes 1 flags ++ leBytes (4 * n) (v / 2 ^ (32 * lo))

/-- A partial's element as received: value, specials, empty. -/
structure Partial where
  v : Int
  nan : Bool := false
  pinf : Bool := false
  ninf : Bool := false
  empty : Bool := false
  /-- The record has a segment. -/
  seg : Bool := false
  deriving DecidableEq, Repr

/-- Reads `n` trimmed-long records; answers the BAD_ENCODING cause and element index on a fault (R216).
(DEDUCED, log 56, unsafe) -/
def readTrimmed : Nat → Nat → List Byte → Except (Nat × Nat) (List Partial)
  | i, 0, b => if b.isEmpty then .ok [] else .error (2, i)
  | i, n + 1, b =>
    if b.length < 2 then .error (2, i)
    else
      let d0 := leAt b 0 1
      let d1 := leAt b 1 1
      let k := fld d0 0 4
      let lo := fld d0 4 4
      if 10 < lo + k || 16 ≤ d1 || (bit d1 3 && (k ≠ 0 || fld d1 0 3 ≠ 0)) then .error (1, i)
      else if b.length < 2 + 4 * k then .error (2, i)
      else
        let v : Int := if k = 0 then 0 else sgn (leAt b 2 (4 * k)) (32 * k) * 2 ^ (32 * lo)
        match readTrimmed (i + 1) n (b.drop (2 + 4 * k)) with
        | .error x => .error x
        | .ok r => .ok ({ v, nan := bit d1 0, pinf := bit d1 1, ninf := bit d1 2, empty := bit d1 3, seg := decide (k ≠ 0) } :: r)

/-- Adds a trimmed-long partial to an element (R204, R208): an empty one leaves an element of MIN or MAX as it is and is an
addend of 0 for any other operator; under AND it leaves COUNT too, for a 0 that is no contribution must not reach a later AND
(R206). A special partial with no segments brings no finite value. (DEDUCED, log 56, unsafe) -/
def addPartial (op : Nat) (e : Elem) (p : Partial) : Elem × Nat :=
  let fl := (if p.nan then afNanIn else 0) + (if p.pinf || p.ninf then afInfIn else 0)
  let e' := { e with nan := e.nan || p.nan, pinf := e.pinf || p.pinf, ninf := e.ninf || p.ninf }
  let inv := if e'.pinf && e'.ninf && !(e.pinf && e.ninf) then afInvalid else 0
  if p.empty then
    (if op = 0x02 || op = 0x03 || op = 0x04 then e else { e with count := e.count + 1 }, 0)
  else if (p.nan || p.pinf || p.ninf) && !p.seg then
    ({ e' with count := e.count + 1, infs := e.infs + b2n (p.pinf || p.ninf) }, fl ||| inv)
  else
    ({ combine op e' p.v (!e.fin) with count := e.count + 1, fin := true }, fl ||| inv)

/-- The FP32 code of a partial under form 0x02 (R209): an empty element is +0, with HOP_ROUNDED and the rounding's flags. -/
def hopCode (x : FloatFmt) (e : Elem) : Nat × Nat :=
  let r := encodeFloat x (resultOf 0x01 e)
  (r.1, r.2 ||| afHopRounded)

end Sys2Proof.Machine
end

