-- ==== Sys2Proof/Machine/KilnArith.lean ====
section
/-! DEFINITION. What a Kiln array computes (R213, R218, R222, R224, R232 to R234): the two reads of a held block with binary32
accumulation, the quantizer with its rounding, and the decoder. Exact values are counted in units of 2^-449. -/
namespace Sys2Proof.Machine

/-- A value on an array's streaming side. -/
inductive KVal | fin (v : Int) | nan | inf (neg : Bool)
  deriving DecidableEq, Repr

def kOf (x : FloatFmt) (c : Nat) : KVal :=
  match decodeFloat x 127 c with
  | .fin v => .fin (v * 2 ^ 300) | .nan => .nan | .pinf => .inf false | .ninf => .inf true

/-- The binary32 code of an exact value, rounded once (R218). (DEDUCED, log 55, unsafe) -/
def kRound (v : Int) : Nat := (roundFloat fp32 false 300 .nearest v).1

/-- A held entry times a streaming value, in units of 2^-449. (DEDUCED, log 55, unsafe) -/
def kMul (w : Nat) (x : KVal) : KVal :=
  match kOf bf16 w with
  | .fin a =>
    match x with
    -- a is a multiple of 2^(300 + 16); the product is exact in units of 2^-449
    | .fin v => .fin (a / 2 ^ 300 * v / 2 ^ 149)
    | .nan => .nan
    | .inf neg => if a = 0 then .nan else .inf (neg != decide (a < 0))
  | _ => .nan

/-- One accumulation step: the exact sum rounded to binary32 (R218). (DEDUCED, log 55, unsafe) -/
def kAcc (acc : Nat) (p : KVal) : Nat :=
  match kOf fp32 acc, p with
  | .nan, _ => fp32.nan
  | _, .nan => fp32.nan
  | .inf a, .inf b => if a = b then acc else fp32.nan
  | .inf _, .fin _ => acc
  | .fin _, .inf b => encodeInf fp32 b
  | .fin a, .fin b => kRound (a + b)

/-- The normal read, or the transposed read, of a block of 256 entries (R218): 16 binary32 codes. -/
def kRead (w : List W16) (transposed : Bool) (x : List KVal) : List Nat :=
  (List.range 16).map fun o => (List.range 16).foldl (fun acc k =>
    let e := if transposed then nthD w (16 * o + k) 0 else nthD w (16 * k + o) 0
    kAcc acc (kMul e.toNat (nthD x k (.fin 0)))) 0

/-- BF16 of a binary32 output (R224). -/
def kBf16 (c : Nat) : Nat × Nat := encodeFloat bf16 (decodeFloat fp32 127 c)
/-- A code of a format with IEEE specials is an infinity or a NaN. (DEDUCED, log 55, unsafe) -/
def kSpecial (x : FloatFmt) (c : Nat) : Bool := fld c x.f x.eb = 2 ^ x.eb - 1

/-- Vector u of a group of 16 vectors gathered by lanes (GATHER 1). -/
def gather (vs : List (List Nat)) (u : Nat) : List Nat := (List.range 16).map fun v => nthD (nthD vs v []) u 0

/-- The 24 bits drawn for coded element e of chunk c (R233). -/
def kRnd (seed c e : Nat) : Nat :=
  let m := 2 ^ 64
  let z := (c * 8192 + e + seed * 0x9E3779B97F4A7C15) % m
  let z := (z ^^^ (z >>> 31)) * 0x8F3A52C71D6BE4A9 % m
  let z := (z ^^^ (z >>> 29)) * 0x5B1E9C83F27D0615 % m
  let z := z ^^^ (z >>> 32)
  z >>> 40

/-- A coded element as the stream keeps it: block scale × 256 + code. (DEDUCED, log 55, unsafe) -/
def packCoded (scale code : Nat) : W32 := BitVec.ofNat 32 (scale * 256 + code)

/-- The quantizer over the coded outputs of a tile, whose first coded index is e0 (R232): `bad` tells the coded positions that
belong to a non-finite group. (DEDUCED, log 55, unsafe) -/
def quantize (prog : KilnProg) (seed c e0 : Nat) (outs : List Nat) (bad : Nat → Bool) : List W32 × Nat :=
  let mode (e : Nat) : RoundMode := if prog.stochastic then .stochastic (kRnd seed c e) else .nearest
  match floatOf prog.codedFmt with
  | none => ([], 0)
  | some (x, false) =>
    let rs := outs.mapIdx fun i o =>
      if bad i then (x.nan, 0)
      else match decodeFloat fp32 127 o with
        | .fin v => roundFloat x true (-prog.preshift) (mode (e0 + i)) v
        | _ => (x.nan, 0)
    (rs.map fun r => packCoded 0 r.1, rs.foldl (fun f r => f ||| r.2) 0)
  | some (x, true) =>
    let bs := (chunksOf 32 outs.length outs).mapIdx fun k blk =>
      let spoilt := (List.range blk.length).any fun i => bad (32 * k + i)
      let r := if spoilt then (0xFF, List.replicate 32 0, 0)
        else encodeBlock x prog.preshift (fun i => mode (e0 + 32 * k + i)) (blk.map fun o => decodeFloat fp32 127 o)
      ((r.2.1.take blk.length).map (packCoded r.1), r.2.2)
    (bs.flatMap (·.1), bs.foldl (fun f r => f ||| r.2) 0)

/-- Groups of a tile: 16 or 256 elements. -/
def kGroup (prog : KilnProg) : Nat := if prog.passes = 2 then 256 else 16
/-- Coded elements of one group. -/
def kGroupCoded (prog : KilnProg) : Nat := if prog.passes = 2 then 16 * prog.lanes else prog.lanes

/-- Send side, last or only pass over a tile's BF16 vectors: the binary32 outputs kept, in coded order. -/
def sendOutputs (prog : KilnProg) (w : List W16) (vecs : List (List Nat)) : List Nat :=
  vecs.flatMap fun v => (kRead w false (v.map (kOf bf16))).take prog.lanes

/-- First pass of a two-pass send: BF16 intermediates of each vector, in order, and whether an output or intermediate of
each vector is special. -/
def sendFirst (w : List W16) (vecs : List (List Nat)) : List (List Nat) :=
  vecs.map fun v => (kRead w false (v.map (kOf bf16))).map fun o => (kBf16 o).1

/-- A coded element decoded exactly, times 2^-PRESHIFT (R234). -/
def kDecode (prog : KilnProg) (v : W32) : KVal :=
  match floatOf prog.codedFmt with
  | none => .nan
  | some (x, mx) =>
    let scale := v.toNat / 256
    if mx && scale = 0xFF then .nan
    else match decodeFloat x 127 (v.toNat % 256) with
      | .fin a =>
        let e : Int := (if mx then (scale : Int) - 127 else 0) - prog.preshift + 300
        .fin (if 0 ≤ e then a * 2 ^ e.toNat else a / 2 ^ (-e).toNat)
      | .nan => .nan
      | .pinf => .inf false
      | .ninf => .inf true

/-- The coded element makes its group the canonical NaN (R213, R234). -/
def kCanonical (prog : KilnProg) (v : W32) : Bool :=
  match floatOf prog.codedFmt with
  | none => false
  | some (x, mx) => if mx then v.toNat / 256 = 0xFF else v.toNat % 256 = x.nan

/-- Coded bytes of a run of coded elements of the ring part (R212, R228): FP8 bytes, or whole MX blocks. -/
def codedBytes (fmt : Nat) (vs : List W32) : List Byte :=
  match floatOf fmt with
  | some (x, true) => (chunksOf 32 vs.length vs).flatMap fun b =>
      let cs := b.map (·.toNat % 256)
      blockBytes x ((b.headD 0).toNat / 256) cs
  | _ => vs.map fun v => BitVec.ofNat 8 v.toNat

/-- The coded elements that a part's bytes hold. -/
def codedOf (fmt n : Nat) (b : List Byte) : List W32 :=
  match floatOf fmt with
  | some (x, true) =>
    let w := 1 + x.eb + x.f
    let bb := 1 + 4 * w
    ((List.range (cdiv n 32)).flatMap fun k =>
      let blk := sl b (k * bb) bb
      let v := leNat (blk.drop 1)
      (List.range 32).map fun i => packCoded (leAt blk 0 1) (fld v (w * i) w)).take n
  | _ => (b.take n).map fun x => packCoded 0 x.toNat

/-- Coded elements that one ring part may hold (R212). -/
def codedPart (fmt : Nat) : Nat :=
  match fmt with
  | 0x04 | 0x05 => 8192 | 0x08 | 0x09 => 7936 | 0x0A | 0x0B => 10432 | _ => 15360

end Sys2Proof.Machine
end

