-- ==== Sys2Proof/Machine/KilnStream.lean ====
section
/-! DEFINITION. The Kiln streams and their buffers (R220, R226 to R230): tiles, the stream and operand buffers, and what moves
when room appears. -/
namespace Sys2Proof.Machine

/-- Stream k of quadrant q has key 64q + k. -/
def kstreamKey (q k : Nat) : Nat := 64 * q + k
/-- Bytes of a stream buffer (R220). -/
def streamBytes : Nat := 393216
/-- Elements of a tile under a program: up to 128 vectors (R220). -/
def tileElems : Nat := 2048

/-- The tiles of a chunk of `len` elements: tile number, first group, groups. -/
def chunkTiles (prog : KilnProg) (len : Nat) : List (Nat × Nat × Nat) :=
  (List.range (cdiv len tileElems)).map fun t =>
    (t, t * (tileElems / kGroup prog), min (tileElems / kGroup prog) ((len - t * tileElems) / kGroup prog))

/-- Tiles of a stream assigned to array a: tile number n goes to entry n mod L of the list (R227). (DEDUCED, log 54, safe) -/
def assignedTo (k : KStream) (a : Nat) : List (Nat × Tile) :=
  match k.arrays.length with
  | 0 => []
  | l => k.tiles.filter fun t => k.arrays[t.1 % l]? = some a

/-- Array key of array a of quadrant q. -/
def arrKey (q : Quad) (a : BitVec 8) : Nat := 256 * q.toNat + a.toNat
/-- Key of array a of the quadrant of a stream. -/
def streamArray (key a : Nat) : Nat := 256 * (key / 64) + a

/-! ### Room (R220, R229, R230) -/

/-- Coded elements of a tile. -/
def tileCoded (prog : KilnProg) (t : Tile) : Nat := t.groups * kGroupCoded prog
/-- Tiles that an array holds in its operand buffer; a tile keeps its place until its outputs are written. -/
def heldTiles (x : ArraySt) : List (Nat × Tile) := x.opbuf ++ x.issued ++ x.mid
/-- An operand buffer holds four tiles (R220). -/
def opRoom (x : ArraySt) : Bool := (heldTiles x).length < 4

/-- Bytes of a stream buffer in use. A partial takes 2 bytes an element until an operand buffer has its tile, and the space of
its coded outputs is kept from its entry; coded elements take their coded bytes. (DESIGN CHOICE, log 88, safe) -/
def State.streamLoad (s : State) (prog : KilnProg) (key : Nat) (k : KStream) : Nat :=
  let coded (n : Nat) : Nat := fmtBytes prog.codedFmt n
  let inArrays := k.arrays.flatMap fun a => heldTiles (s.array (streamArray key a))
  let tiles := if k.recv then k.tiles else k.tiles ++ inArrays
  coded k.coded.length + (tiles.map fun t => coded (tileCoded prog t.2)).sum +
    (if k.recv then 0 else (k.tiles.map fun t => 2 * t.2.data.length).sum)

/-- The stream buffer has room for a tile of a partial, and for its coded outputs. -/
def State.tileRoom (s : State) (prog : KilnProg) (key : Nat) (k : KStream) (t : Tile) : Bool :=
  s.streamLoad prog key k + 2 * t.data.length + fmtBytes prog.codedFmt (tileCoded prog t) ≤ streamBytes

/-- It has room for a received part; a stream without a whole tile takes one all the same, for nothing else could free room.
(DESIGN CHOICE, log 88, safe) -/
def State.partRoom (s : State) (prog : KilnProg) (key : Nat) (k : KStream) (x : KPart) : Bool :=
  s.streamLoad prog key k + fmtBytes prog.codedFmt x.vals.length ≤ streamBytes ||
    (k.tiles.isEmpty && k.arrays.all fun a => (heldTiles (s.array (streamArray key a))).isEmpty)

/-! ### What moves -/

/-- Moves the oldest tile assigned to array a into its operand buffer, if it has room. -/
def State.fillArray (s : State) (key a : Nat) : State :=
  match s.kstream key with
  | none => s
  | some k =>
    match assignedTo k a with
    | [] => s
    | t :: _ =>
      if !opRoom (s.array (streamArray key a)) then s
      else (s.updArray (streamArray key a) fun x => { x with opbuf := x.opbuf ++ [t] }).updKstream key fun k =>
        { k with tiles := k.tiles.filter (·.1 ≠ t.1) }

/-- Fills the operand buffers of a stream's arrays. -/
def State.fillArrays (s : State) (key : Nat) : State :=
  match s.kstream key with
  | none => s
  | some k => k.arrays.foldl (fun s a => (List.range 4).foldl (fun s _ => s.fillArray key a) s) s

/-- A received part enters the stream buffer, its frame's ingress share goes, and the tiles whose coded elements are all present
enter the stream's order (R228). -/
def State.takeKilnPart (s : State) (prog : KilnProg) (key : Nat) (x : KPart) : State :=
  let s := (s.freeIngress x.ctx).updKstream key fun k =>
    { k with coded := k.coded ++ x.vals.mapIdx fun j v => (x.n, x.c, x.start + j, v) }
  (chunkTiles prog x.len).foldl (fun s t =>
    match s.kstream key with
    | none => s
    | some k =>
      let lo := t.2.1 * kGroupCoded prog
      let m := t.2.2 * kGroupCoded prog
      let d := (List.range m).filterMap fun e => (k.coded.find? fun y => y.1 = x.n && y.2.1 = x.c && y.2.2.1 = lo + e).map (·.2.2.2)
      if d.length ≠ m then s
      else s.updKstream key fun k =>
        { k with coded := k.coded.filter (fun y => !(y.1 = x.n && y.2.1 = x.c && lo ≤ y.2.2.1 && y.2.2.1 < lo + m)),
                 tiles := k.tiles ++ [(k.entered, { slot := k.slot, n := x.n, c := x.c, t := t.1, group := t.2.1, groups := t.2.2,
                                                    pass := 1, data := d })],
                 entered := k.entered + 1 }) s

/-- Moves what can move in a stream: tiles into operand buffers, then the tile of a partial or the received part that waits
longest into the stream buffer, and so on. -/
def State.pumpStream (prog : KilnProg) (key : Nat) : Nat → State → State
  | 0, s => s.fillArrays key
  | fuel + 1, s =>
    let s := s.fillArrays key
    match s.kstream key with
    | none => s
    | some k =>
      match k.feed, k.waiting with
      | t :: r, _ =>
        if s.tileRoom prog key k t then
          State.pumpStream prog key fuel (s.updKstream key fun k =>
            { k with feed := r, tiles := k.tiles ++ [(k.entered, t)], entered := k.entered + 1 })
        else s
      | [], x :: r =>
        if s.partRoom prog key k x then
          State.pumpStream prog key fuel ((s.updKstream key fun k => { k with waiting := r }).takeKilnPart prog key x)
        else s
      | [], [] => s

/-- Moves what can move in a stream, and notes the bytes then in use. -/
def State.pump (s : State) (prog : KilnProg) (key : Nat) : State :=
  let n := match s.kstream key with | some k => k.feed.length + k.waiting.length | none => 0
  let s := s.pumpStream prog key n
  match s.kstream key with
  | none => s
  | some k => s.updKstream key fun x => { x with used := s.streamLoad prog key k }

/-- Puts a tile in its place by number. -/
def insTile (t : Nat × Tile) : List (Nat × Tile) → List (Nat × Tile)
  | [] => [t]
  | u :: r => if t.1 ≤ u.1 then t :: u :: r else u :: insTile t r

/-- The tiles of a stream that have not issued leave the operand buffers, to be assigned anew (R227). -/
def State.unassign (s : State) (key : Nat) : State :=
  match s.kstream key with
  | none => s
  | some k =>
    let back := k.arrays.flatMap fun a => (s.array (streamArray key a)).opbuf
    let s := k.arrays.foldl (fun s a => s.updArray (streamArray key a) fun x => { x with opbuf := [] }) s
    s.updKstream key fun k => { k with tiles := back.foldl (fun l t => insTile t l) k.tiles }

end Sys2Proof.Machine
end

