-- ==== Sys2Proof/Machine/MashOps.lean ====
section
/-! DEFINITION. The life of collectives below the frames: plan geometry (R157, R158, R163, R171, R172), placement (R170),
identities (R179), slots, sending and completing results (R173, R176, R177), outcomes (R181, R182) and the end of an
instance (R166 to R168). -/
namespace Sys2Proof.Machine

/-! ### Plans, instances, chunks -/

def State.plan (s : State) (slot : Nat) : Option Plan := SMap.find s.plans slot
def State.updPlan (s : State) (slot : Nat) (f : Plan → Plan) : State :=
  match SMap.find s.plans slot with
  | some p => { s with plans := SMap.put s.plans slot (f p) }
  | none => s
def findInst (p : Plan) (n : Nat) : Option Inst := p.insts.find? (·.n = n)
def State.inst (s : State) (slot n : Nat) : Option Inst := (s.plan slot).bind (findInst · n)
def State.updInst (s : State) (slot n : Nat) (f : Inst → Inst) : State :=
  s.updPlan slot fun p => { p with insts := updWhere p.insts (·.n = n) f }
def findChunk (i : Inst) (c : Nat) : Option Chunk := i.chunks.find? (·.c = c)
def State.updChunk (s : State) (slot n c : Nat) (f : Chunk → Chunk) : State :=
  s.updInst slot n fun i => { i with chunks := updWhere i.chunks (·.c = c) f }
/-- Adds ARITH_FLAGS of an instance. -/
def State.arithFlags (s : State) (slot n fl : Nat) : State :=
  s.updInst slot n fun i => { i with arith := i.arith ||| BitVec.ofNat 32 fl }

/-- d = (n − BASE) mod 2^20 (R166). -/
def instD (p : Plan) (n : Nat) : Nat := (n + 2 ^ 20 - p.base) % 2 ^ 20
/-- The instance is counting, running or waiting. -/
def isOpen (i : Inst) : Bool := i.state != .ended

/-! ### Identities (R158, R179) -/

/-- A line's member EIDs, in ascending bit order. -/
def lineEids (l : Line) : List Nat := lineMembers l.kind l.base.toNat l.mask
/-- The receivers as enumerated: line index and EID. -/
def receiversOf (img : Image) : List (Nat × Nat) := (img.lines.mapIdx fun k l => (lineEids l).map fun e => (k, e)).flatten
def numReceivers (img : Image) : Nat := (receiversOf img).length

/-- An instance's place in serial order from BASE: negative behind the window (R166). -/
def instPlace (p : Plan) (n : Nat) : Int := if instD p n < 2 ^ 19 then instD p n else (instD p n : Int) - 2 ^ 20
/-- The EID that index i names for instance n, from its first name and the moves: a move holds for its boundary instance and those
after it. -/
def reboundEid (p : Plan) (receiver : Bool) (i n : Nat) (first : Nat) : Nat :=
  p.rebinds.foldl (fun e r =>
    if r.receiver = receiver && r.idx = i && (match r.n with | none => true | some b => instPlace p b ≤ instPlace p n) then r.eid.toNat
    else e) first
def contribEid (p : Plan) (n i : Nat) : Nat := reboundEid p false i n ((p.img.contribs[i]?.map (·.eid.toNat)).getD 0)
def receiverEid (p : Plan) (n r : Nat) : Nat := reboundEid p true r n (((receiversOf p.img)[r]?.map (·.2)).getD 0)
/-- Indices of the receivers of line k. -/
def lineIdx (img : Image) (k : Nat) : List Nat :=
  let rs := receiversOf img
  (List.range rs.length).filter fun r => (rs[r]?.map (·.1)) = some k

/-! ### Geometry (R163, R171, R172) -/

/-- Elements of a level-0 part. -/
def partElems (img : Image) : Nat := if img.kind = 6 then img.chunkElems else min img.chunkElems (partLimit img.inFmt)
/-- Chunks of an instance; a barrier has one. -/
def numChunks (img : Image) (ext : Nat) : Nat := if img.kind = 6 then 1 else cdiv ext img.chunkElems
/-- Elements of chunk c. -/
def chunkLo (img : Image) (c : Nat) : Nat := c * img.chunkElems
def chunkHi (img : Image) (ext c : Nat) : Nat := min ((c + 1) * img.chunkElems) ext
def chunkLen (img : Image) (ext c : Nat) : Nat := if img.kind = 6 then 0 else chunkHi img ext c - chunkLo img c

/-- OFFSET of contributor i after the count phase (R175). -/
def countOffset (i : Inst) (idx : Nat) : Nat := i.ringBase.getD 0 + ((i.counts.take idx).map (·.getD 0)).sum
/-- First element and end of contributor i's range (R156, R175). -/
def contribRange (img : Image) (i : Inst) (idx : Nat) : Nat × Nat :=
  if img.kind ≠ 4 then (0, i.extent)
  else if img.countPhase then (countOffset i idx, countOffset i idx + ((nthD i.counts idx none).getD 0))
  else match img.contribs[idx]? with | some x => (x.offset, x.offset + x.count) | none => (0, 0)
/-- First element and end of receiver r's range. -/
def receiverRange (img : Image) (i : Inst) (r : Nat) : Nat × Nat :=
  if img.kind ≠ 2 then (0, i.extent)
  else if img.countPhase then (countOffset i r, countOffset i r + ((nthD i.counts r none).getD 0))
  else (r * img.rangeElems, (r + 1) * img.rangeElems)

/-- The elements that part k of chunk c has from contributor idx: a part of KIND 0x04 is cut to the contributor's range. The
manual does not say what a contributor sends where its range cuts a part: the model expects one short part that begins at the
range's first element. (DESIGN CHOICE, log 98, unsafe) -/
def partSpan (img : Image) (i : Inst) (c idx k : Nat) : Nat × Nat :=
  let lo := chunkLo img c + k * partElems img
  let hi := min (lo + partElems img) (chunkHi img i.extent c)
  let r := contribRange img i idx
  (max lo r.1, min hi r.2)
/-- Parts that chunk c expects from contributor idx (R171). -/
def expected (img : Image) (i : Inst) (c idx : Nat) : List Nat :=
  if img.kind = 6 then [0]
  else (List.range (cdiv (chunkLen img i.extent c) (partElems img))).filter fun k =>
    (partSpan img i c idx k).1 < (partSpan img i c idx k).2

/-- Elements per ring part of a chunk under forms 0x01 and 0x02, coded elements under 0x03 (R207, R212). -/
def ringPart (img : Image) : Nat :=
  match img.ringForm with
  | 0x01 => 192
  | 0x02 => 2048
  | _ => match img.kiln with | some k => codedPart k.codedFmt | none => 1
/-- Values of a ring partial: elements, or coded elements. A barrier carries one empty element. -/
def ringLen (img : Image) (len : Nat) : Nat :=
  if img.kind = 6 then 1
  else match img.ringForm, img.kiln with
    | 0x03, some k => len * k.lanes / 16
    | _, _ => len
/-- Ring parts of a partial over `len` elements. -/
def ringParts (img : Image) (len : Nat) : Nat := if img.levels = 2 then cdiv (ringLen img len) (ringPart img) else 0
/-- Parts of a ring result. -/
def resParts (img : Image) (len : Nat) : Nat := if img.kind = 6 then 1 else cdiv len (partLimit img.outFmt)

/-- k of chunk c (R172); 0 with LEVELS 1. -/
def ringK (img : Image) (c : Nat) : Nat :=
  match img.levels, img.ring with
  | 2, some t => (t.p + t.h - c % t.h) % t.h
  | _, _ => 0
def ringH (img : Image) : Nat := match img.ring with | some t => t.h | none => 1
/-- The chunk takes a ring partial. -/
def takesPartial (img : Image) (c : Nat) : Bool := img.levels = 2 && ringK img c ≠ 1
/-- The chunk takes a ring result. -/
def takesResult (img : Image) (c : Nat) : Bool := img.levels = 2 && ringK img c ≠ 0

/-- X of R171. -/
def xSlots (img : Image) : Nat :=
  let p0 := cdiv img.chunkElems (partElems img)
  let p1 := ringParts img img.chunkElems
  let b := img.contribs.length * p0 + p1 + numReceivers img
  cdiv (64 + cdiv b 8) 48
/-- Element slots of the plan in use in a quadrant. -/
def usedSlots (p : Plan) (q : Nat) : Nat :=
  ((p.insts.flatMap (·.chunks)).filter (·.quad = q)).foldl
    (fun a ch => a + xSlots p.img + (if ch.staged then 0 else p.img.chunkElems)) 0
/-- LOW: the lowest chunk of the instance that is not complete (R168). -/
def lowOf (img : Image) (i : Inst) : Nat :=
  ((List.range (numChunks img i.extent)).find? fun c => !i.done.contains c).getD (numChunks img i.extent)

/-! ### Placement (R170) -/

/-- Quadrant and tun of chunk c of instance n. -/
def placeOf (p : Plan) (n c : Nat) : Nat × Nat :=
  let h := hashH (p.img.seed.toNat % 65536)
    (beBytes 2 p.img.job.toNat ++ beBytes 4 p.img.uid.toNat ++ beBytes 4 (n % 2 ^ 20) ++ beBytes 6 (c % 2 ^ 43))
  ((nthD p.qtab (h % 64) 0).toNat, h / 64 % 64)

/-- Fields of a Mash frame (R163). -/
def mSlot (f : Frame) : Nat := fld (oWinNo f) 20 12
def mInst (f : Frame) : Nat := fld (oWinNo f) 0 20
def mPhase (f : Frame) : Nat := fld (oAddr f) 62 2
def mLevel (f : Frame) : Nat := fld (oAddr f) 60 2
def mIndex (f : Frame) : Nat := fld (oAddr f) 48 12
def mElem (f : Frame) : Nat := fld (oAddr f) 0 43

/-- The quadrant that a frame for the Mash service goes to (R16, R170): the placed quadrant of a contribution, ring partial or
ring result; the service itself for counts, responses and frames of no plan. -/
def mashPlace (s : State) (f : Frame) : Nat :=
  match s.plan (mSlot f) with
  | some p =>
    if oOp f = opPutReduce && (mPhase f = 0 || mPhase f = 2) then (placeOf p (mInst f) (mElem f / p.img.chunkElems)).1
    else eidDie (oDst f)
  | none => eidDie (oDst f)

/-! ### Sending from the Mash service (R36, R176, R181) -/

/-- The next SEQ of an ordering domain the services send in. -/
def State.nextSeq (s : State) (d : Domain) : State × W32 :=
  match s.svcSeq.find? (·.1 = d) with
  | some (_, x) => ({ s with svcSeq := updWhere s.svcSeq (·.1 = d) fun y => (y.1, y.2 + 1) }, x)
  | none => ({ s with svcSeq := s.svcSeq ++ [(d, 1)] }, 0)

/-- Sends one unicast frame of a service of quadrant q with the next SEQ of its domain: state, routed, SEQ. -/
def State.sendUni (s : State) (q : Nat) (h : Hdr) (payload : List Byte) (result : Option (Nat × Nat × Nat))
    (outcome : Option Nat := none) : State × Bool × W32 :=
  let x := s.nextSeq ⟨BitVec.ofNat 32 h.src, BitVec.ofNat 32 h.dst, BitVec.ofNat 16 h.flow⟩
  let r := x.1.sendOwn mashPlace q (mkOvdu (s.ovduEtype q) { h with seq := x.2.toNat } payload) result outcome
  (r.1, r.2, x.2)

/-- Sends one frame of a service of quadrant q to the members of a line: state, fenced members, SEQ (R126 to R128). -/
def State.sendLine (s : State) (q : Nat) (h : Hdr) (payload : List Byte) (members : List Nat)
    (result : Option (Nat × Nat × Nat)) (outcome : Option Nat := none) : State × List Nat × W32 :=
  let x := s.nextSeq ⟨BitVec.ofNat 32 h.src, BitVec.ofNat 32 h.dst, BitVec.ofNat 16 h.flow⟩
  let f := mkOvdu (s.ovduEtype q) { h with seq := x.2.toNat, group := true } payload
  let c := x.1.ownCtx q f result outcome
  let r := ({ x.1 with nextFid := x.1.nextFid + 1 }).resolveMembers q h.src h.job members
  (r.1.enqueueWait ⟨c, .copies r.2.1⟩, r.2.2, x.2)

/-- The ACK of a message whose request had header `req`, sent from quadrant q with the given SEQ (R36, R32). -/
def State.sendAck (s : State) (q : Nat) (req : Frame) (seq : W32) (ecn : Bool) : State :=
  let f := mkOvdu (s.ovduEtype q)
    { op := opAck, tc := s.nackTc q, ecn, job := oJob req, flow := oFlow req, seq := seq.toNat, src := oDst req, dst := oSrc req } []
  (s.sendOwn mashPlace q f none).1

/-- The window of the plan in WIN: PLAN_SLOT, INSTANCE and KEY. -/
def mashWin (p : Plan) (n : Nat) : Nat := (p.slot * 2 ^ 20 + n % 2 ^ 20) * 2 ^ 32 + p.img.key.toNat
def mashAddr (phase level index elem : Nat) : Nat := phase <<< 62 + level <<< 60 + index <<< 48 + elem

/-- Notes a message that a Mash service of quadrant q has sent and that waits for its answer (R37). -/
def State.openReq (s : State) (slot q dst : Nat) (status : Bool) (seqs : List W32) : State :=
  match seqs.getLast? with
  | none => s
  | some x => s.updPlan slot fun p => { p with opens := p.opens ++ [{ quad := q, dst, status, last := x, frames := seqs }] }

/-- Sends pieces in order: `go` sends one, told whether it is the last; answers the SEQs as well. -/
def sendPieces (go : State → Nat × List Byte → Bool → State × W32) (s : State) (pieces : List (Nat × List Byte)) :
    State × List W32 :=
  pieces.foldl (fun (acc : State × List W32) pc =>
    let r := go acc.1 pc (acc.2.length + 1 = pieces.length)
    (r.1, acc.2 ++ [r.2])) (s, [])

/-- Sends the frames of one ring message to SUCC_EID: pieces are first elements and payloads (R172, R174).
(DEDUCED, log 50, unsafe) -/
def State.sendRing (s : State) (p : Plan) (n q phase : Nat) (pieces : List (Nat × List Byte)) : State :=
  match p.img.ring with
  | none => s
  | some t =>
    let r := sendPieces (fun s x last =>
      let h : Hdr := { op := opPutReduce, tc := p.img.resultTc, last, job := p.img.job.toNat,
                       flow := p.slot, len := x.2.length, src := s.svcEid q svcMash, dst := t.succ.toNat,
                       addr := mashAddr phase 1 t.p x.1, win := mashWin p n }
      let y := s.sendUni q h x.2 none
      (y.1, y.2.2)) s pieces
    r.1.openReq p.slot q t.succ.toNat false r.2

/-! ### Outcomes (R181, R182) -/

/-- Bytes of a status slot (S of R181). -/
def slotBytes (img : Image) : Nat := 128 + 64 * cdiv img.contribs.length 512 + 64 * cdiv (numReceivers img) 512
/-- Bits set at given positions, padded to 64-byte units. -/
def bitmap (n : Nat) (set : List Nat) : List Byte :=
  leBytes (64 * cdiv n 512) ((set.filter (· < n)).foldl (fun v i => v ||| 2 ^ i) 0)

def Outcome.code : Outcome → Nat
  | .done => 1 | .doneLost => 2 | .incomplete => 3 | .aborted => 4

/-- The outcome record of an instance (R181). An instance that ends or waits in COUNTING has no total yet, and R181 names no other
EXTENT for it: the model writes the plan's. (DESIGN CHOICE, log 99, unsafe) -/
def outcomeRecord (p : Plan) (i : Inst) (o : Outcome) : List Byte :=
  recordOf 64
    [(0, [0x4D]), (1, leBytes 1 o.code), (2, leBytes 2 p.img.job.toNat), (4, leBytes 4 p.img.uid.toNat), (8, leBytes 4 i.n),
     (12, leBytes 2 p.slot), (14, leBytes 1 p.img.entryQ),
     (15, leBytes 1 (b2n i.substituted + 2 * b2n i.ringMissing + 4 * b2n i.countOver + 8 * b2n i.hostAbort)),
     (16, leBytes 4 i.missing.length), (20, leBytes 4 i.lost.length), (24, leBytes 8 i.extent), (32, leBytes 8 i.done.length),
     (40, leBytes 4 i.arith.toNat), (48, leBytes 8 i.openNs.toNat), (56, leBytes 8 i.endNs.toNat)]

/-- Header of a status write. -/
def statusHdr (s : State) (p : Plan) (dst : Nat) (win addr : Nat) (len : Nat) (last : Bool) : Hdr :=
  { op := opPut, tc := p.img.resultTc, last, job := p.img.job.toNat, flow := 0x1000 + p.slot, len,
    src := s.svcEid p.img.entryQ svcMash, dst, addr := addr % 2 ^ 64, win }

/-- An outcome write fails (R182). -/
def State.outcomeFailed (s : State) (q : Nat) : State := s.countQuad q 45

/-- Writes pieces at offsets of status slot n to contributor i: sent once, in order, LAST on the last. A write counts as
failed once, at its last frame. (DEDUCED, log 12, unsafe; DEDUCED, log 51, unsafe) -/
def State.statusTo (s : State) (p : Plan) (n i : Nat) (pieces : List (Nat × List Byte)) : State :=
  match p.img.contribs[i]? with
  | none => s
  | some x =>
    let base := x.statusAddr.toNat + n % p.img.ctxDepth * slotBytes p.img
    let q := p.img.entryQ
    let r := sendPieces (fun s pc last =>
      let y := s.sendUni q (statusHdr s p (contribEid p n i) x.statusWin.toNat (base + pc.1) pc.2.length last) pc.2 none
        (if last then some q else none)
      (if y.2.1 || !last then y.1 else y.1.outcomeFailed q, y.2.2)) s pieces
    r.1.openReq p.slot q (contribEid p n i) true r.2

/-- Writes pieces at offsets of status slot n to the members of receiver line k.
(DEDUCED, log 51, unsafe; DESIGN CHOICE, log 92, unsafe) -/
def State.statusLine (s : State) (p : Plan) (n k : Nat) (pieces : List (Nat × List Byte)) : State :=
  match p.img.lines[k]? with
  | none => s
  | some l =>
    let base := l.statusAddr.toNat + n % p.img.ctxDepth * slotBytes p.img
    let members := (lineIdx p.img k).map (receiverEid p n)
    let q := p.img.entryQ
    let r := sendPieces (fun s pc last =>
      let y := s.sendLine q (statusHdr s p k l.statusWin.toNat (base + pc.1) pc.2.length last) pc.2 members none
        (if last then some q else none)
      (if last then y.2.1.foldl (fun s _ => s.outcomeFailed q) y.1 else y.1, y.2.2)) s pieces
    members.foldl (fun (s : State) m => s.openReq p.slot q m true r.2) r.1

/-- The frames that the bitmaps of an outcome write take, at their offsets in the slot: R181 does not say where one ends.
(DESIGN CHOICE, log 89, safe) -/
def bitmapPieces (missing lost : List Byte) : List (Nat × List Byte) :=
  let b := missing ++ lost
  let cuts := (List.range (b.length / 64)).filter fun j => j = 0 || Config.outcomeCut missing.length lost.length j
  cuts.map fun j =>
    let stop := (cuts.find? (j < ·)).getD (b.length / 64)
    (128 + 64 * j, sl b (64 * j) (64 * (stop - j)))

/-- Bytes 0 to 15 of the host's copy of a status slot, once the count phase has its answer: an OFFSET, which the manual does
not give the host, and G (R175, R181, R182). (DESIGN CHOICE, log 89, safe) -/
def hostCount (p : Plan) (i : Inst) : List Byte :=
  if p.img.countPhase && i.before ≠ .counting then beBytes 8 (Config.hostOffset p.slot i.n).toNat ++ beBytes 8 i.extent else []

/-- Writes the outcome of an instance to members and, where R182 asks, to the host. (DEDUCED, log 51, unsafe) -/
def State.writeOutcome (s : State) (slot n : Nat) (o : Outcome) : State :=
  match s.plan slot with
  | none => s
  | some p =>
    match findInst p n with
    | none => s
    | some i =>
      let rec_ := outcomeRecord p i o
      let missing := bitmap p.img.contribs.length i.missing
      let lost := bitmap (numReceivers p.img) i.lost
      let pieces := bitmapPieces missing lost ++ [(64, rec_)]
      let s := (List.range p.img.contribs.length).foldl (fun s k => s.statusTo p n k pieces) s
      let s := (List.range p.img.lines.length).foldl (fun s k => s.statusLine p n k pieces) s
      if o = .done && !p.img.hostEvent then s
      else
        let at_ := p.outBuf + n % p.img.ctxDepth * slotBytes p.img
        -- a slot whose source is poisoned is omitted and counted (R364)
        if i.poisoned then s.countQuad p.img.entryQ 50
        else ((s.hostWrite at_ (hostCount p i)).hostWrite (at_ + 64) (rec_ ++ missing ++ lost)).eventBytes rec_

/-! ### Mesh maps bound to an instance (R268) -/

/-- The instance's plan-bound maps that are not applied yet take a group's mesh, in the order of their commands (R266, R268).
(DEDUCED, log 65, unsafe) -/
def meshBind (slot n : Nat) (x : MeshSt) : MeshSt :=
  let mine (b : BoundMap) : Bool := b.slot = slot && b.n = n && b.prev.isNone
  if !x.bound.any mine then x
  else
    let r := x.bound.foldl (fun (acc : List BoundMap × BitVec 24) b =>
      if mine b then (acc.1 ++ [{ b with prev := some acc.2 }], b.map) else (acc.1 ++ [b], acc.2)) ([], x.map)
    { x with bound := r.1, map := r.2, settled := false, prev := some (x.map, x.prev.bind (·.2)) }
/-- Applies the plan-bound maps of an instance that leaves FREE. -/
def State.meshOpen (s : State) (slot n : Nat) : State := { s with meshes := SMap.mapVals s.meshes {} (meshBind slot n) }
/-- A group's plan-bound maps of an instance go, `n` none those of the whole plan; the map that the first of them replaced comes
back. (DEDUCED, log 65, unsafe) -/
def meshUnbind (slot : Nat) (n : Option Nat) (x : MeshSt) : MeshSt :=
  let mine (b : BoundMap) : Bool := b.slot = slot && (n = none || n = some b.n)
  let y := { x with bound := x.bound.filter fun b => !mine b, kept := x.kept.filter fun b => !mine b }
  match (x.bound.filter mine).findSome? (·.prev), (x.kept.filter mine).findSome? (·.prev) with
  | some m, _ => { y with map := m, settled := false, prev := some (x.map, x.prev.bind (·.2)) }
  -- the map to which a failed check goes back has gone with the instance
  | none, some m => { y with prev := x.prev.map fun p => (m, p.2) }
  | none, none => y
/-- Restores the map before an instance's plan-bound map; `n` none restores every map of the plan (R268). -/
def State.meshEnd (s : State) (slot : Nat) (n : Option Nat) : State :=
  { s with meshes := SMap.mapVals s.meshes {} (meshUnbind slot n) }

/-! ### The end of an instance (R166 to R168, R180) -/

/-- Retires the instance at BASE while it is ENDED (R166). -/
def retire : Nat → Plan → Plan
  | 0, p => p
  | k + 1, p =>
    match findInst p p.base with
    | some i =>
      if i.state = .ended then
        retire k { p with base := (p.base + 1) % 2 ^ 20, insts := p.insts.filter (·.n ≠ p.base),
                          -- a boundary that the whole order has passed holds for every instance
                          rebinds := updWhere p.rebinds (·.n = some ((p.base + 1 + 2 ^ 19) % 2 ^ 20)) fun r => { r with n := none } }
      else p
    | none => p

/-- Frees the staging of instance n, of one chunk of it or of all (R173). -/
def unstage (n : Nat) (c : Option Nat) (p : Plan) : Plan :=
  let mine (x : StagedRes) : Bool := x.n = n && (c = none || c = some x.c)
  { p with staging := p.staging.filter fun x => !mine x,
           staged := (p.staging.filter mine).foldl (fun l x => modNth l x.quad (· - x.bytes.length)) p.staged }

/-- Drops the work of an instance that is queued on tuns or in Kiln streams; what waited behind it moves up. -/
def State.dropWork (s : State) (slot n : Nat) : State :=
  let mine (w : Work) : Bool := w.slot = slot && w.n = n
  let parts := s.kstreams.flatMap fun (k : Nat × KStream) => if k.2.slot = slot then k.2.waiting.filter (·.n = n) else []
  let dead := (s.tuns.flatMap fun t => (t.2.queue.filter mine).map (·.ctx)) ++ parts.map (·.ctx)
  let s := dead.foldl (fun s c => s.freeIngress c) s
  let s := { s with tuns := SMap.mapVals s.tuns {} fun t => { t with queue := t.queue.filter fun w => !mine w } }
  let other (t : Tile) : Bool := !(t.slot = slot && t.n = n)
  let ks (k : KStream) : KStream :=
    if k.slot ≠ slot then k
    else { k with tiles := k.tiles.filter (other ·.2), feed := k.feed.filter other, waiting := k.waiting.filter (·.n ≠ n),
                  coded := k.coded.filter (fun x => x.1 ≠ n), sent := k.sent.filter (fun x => x.1 ≠ n) }
  let arr (a : ArraySt) : ArraySt :=
    { a with opbuf := a.opbuf.filter (other ·.2), issued := a.issued.filter (other ·.2), mid := a.mid.filter (other ·.2) }
  let s := { s with kstreams := s.kstreams.map (fun (k : Nat × KStream) => (k.1, ks k.2)), arrays := SMap.mapVals s.arrays {} arr }
  match (s.plan slot).bind (·.img.kiln) with
  | none => s
  | some prog => (s.kstreams.filter fun k => k.2.slot = slot).foldl (fun (s : State) k => s.pump prog k.1) s

/-- An instance becomes ENDED with an outcome (R167): its chunk slots are freed and its outcome is sent.
(DEDUCED, log 51, unsafe) -/
def State.endInst (s : State) (slot n : Nat) (o : Outcome) : State :=
  let s := s.dropWork slot n
  let s := s.updInst slot n fun i => { i with state := .ended, outcome := some o, endNs := s.time.ns, chunks := [] }
  let s := (s.writeOutcome slot n o).meshEnd slot (some n)
  s.updPlan slot fun p => retire 257 (unstage n none { p with aborted := p.aborted + b2n (o = .aborted && p.unload.isSome) })

/-- Ends a running instance when every chunk of it is complete (R167). (DEDUCED, log 51, unsafe) -/
def State.settleInst (s : State) (slot n : Nat) : State :=
  match s.plan slot with
  | none => s
  | some p =>
    match findInst p n with
    | none => s
    | some i =>
      if i.state = .running && numChunks p.img i.extent ≤ i.done.length then
        s.endInst slot n (if i.lost.isEmpty then .done else .doneLost)
      else s

/-! ### Results (R173, R176, R177) -/

/-- The elements of chunk c that line or receiver r takes, from r's range. -/
def portionOf (img : Image) (i : Inst) (c r : Nat) : Nat × Nat :=
  let rg := receiverRange img i r
  (max (chunkLo img c) rg.1, min (chunkHi img i.extent c) rg.2)
/-- Receivers the chunk concerns. -/
def concerned (img : Image) (i : Inst) (c : Nat) : List Nat :=
  (List.range (numReceivers img)).filter fun r => img.kind ≠ 2 || (portionOf img i c r).1 < (portionOf img i c r).2

/-- The pieces of a result message: address offset and bytes of each frame (R176). -/
def resultPieces (img : Image) (i : Inst) (c r : Nat) (bytes : List Byte) : List (Nat × List Byte) :=
  if img.kind = 6 then [(0, [])]
  else
    let po := portionOf img i c r
    let start := (receiverRange img i r).1
    let step := partLimit img.outFmt
    (List.range (cdiv (po.2 - po.1) step)).map fun k =>
      let a := po.1 + k * step
      let b := min (a + step) po.2
      (fmtBytes img.outFmt (a - start), sl bytes (fmtBytes img.outFmt (a - chunkLo img c)) (fmtBytes img.outFmt (b - a)))

/-- Header of a result frame. -/
def resultHdr (s : State) (p : Plan) (q dst : Nat) (l : Line) (off len : Nat) (last : Bool) : Hdr :=
  { op := opPut, tc := p.img.resultTc, last, job := p.img.job.toNat, flow := p.slot, len, src := s.svcEid q svcMash, dst,
    addr := (l.resultAddr.toNat + off) % 2 ^ 64, win := l.resultWin.toNat }

/-- Marks a receiver lost for the instance, in every chunk of it (R177). -/
def State.loseReceiver (s : State) (slot n r : Nat) : State :=
  s.updInst slot n fun i =>
    { i with lost := insNat r i.lost,
             chunks := i.chunks.map fun ch => { ch with recvs := updWhere ch.recvs (·.idx = r) fun x => { x with lost := true } } }

/-- Completes a chunk that holds its result once every receiver it concerns has acknowledged it or is lost (R173). -/
def State.settleChunk (s : State) (slot n c : Nat) : State :=
  match s.inst slot n with
  | none => s
  | some i =>
    match findChunk i c with
    | none => s
    | some ch =>
      if ch.result.isSome && ch.recvs.all (fun r => r.acked || r.lost || i.lost.contains r.idx) then
        let s := s.updInst slot n fun i => { i with done := insNat c i.done, chunks := i.chunks.filter (·.c ≠ c) }
        (s.updPlan slot (unstage n (some c))).settleInst slot n
      else s

/-- Completes every chunk of an instance that can be (R173, R177). -/
def State.settleChunks (s : State) (slot n : Nat) : State :=
  match s.inst slot n with
  | none => s
  | some i => i.chunks.foldl (fun s ch => if ch.recvs.isEmpty then s else s.settleChunk slot n ch.c) s

/-- Marks the receiver with an EID lost for a result that the replicator meets fenced (R128). -/
def State.fencedReceiver (s : State) (rc : Nat × Nat × Nat) (eid : Nat) : State :=
  let (slot, n, c) := rc
  match s.plan slot with
  | none => s
  | some p =>
    match (List.range (numReceivers p.img)).find? fun r => receiverEid p n r = eid with
    | none => s
    | some r => ((s.loseReceiver slot n r).settleChunk slot n c).settleChunks slot n

/-- STAGE_RESULTS: a result that has first been sent is copied into the plan's staging, where that has room, and its element
slots are freed (R173). It is written over what a wiped plan has left in that region (R184). (DESIGN CHOICE, log 91, safe) -/
def State.stageResult (s : State) (slot n c q : Nat) (bytes : List Byte) : State :=
  match s.plan slot with
  | none => s
  | some p =>
    if p.img.stageResults && nthD p.staged q 0 + bytes.length ≤ nthD p.img.stageMib q 0 * 2 ^ 20 then
      let s := { s with stageLeft := s.stageLeft.filter (·.quad ≠ q) }
      (s.updChunk slot n c fun ch => { ch with staged := true, elems := [], result := some [] }).updPlan slot fun p =>
        { p with staged := modNth p.staged q (· + bytes.length), staging := p.staging ++ [{ quad := q, n, c, bytes }] }
    else s

/-- Sends the result of a chunk to its receivers, line by line (R176, R173). R176 sends one PUT to the line, and gives no group
number that DST_EID and DA then carry: the model puts the line's index in the plan there. (DESIGN CHOICE, log 92, unsafe) -/
def State.deliver (s : State) (slot n c : Nat) : State :=
  match s.plan slot with
  | none => s
  | some p =>
    match findInst p n with
    | none => s
    | some i =>
      match findChunk i c with
      | none => s
      | some ch =>
        let bytes := ch.result.getD []
        let who := concerned p.img i c
        let s := s.updChunk slot n c fun ch =>
          { ch with recvs := who.map fun r => { idx := r, sends := 1, sentAt := s.time.core, lost := i.lost.contains r } }
        let s := (List.range p.img.lines.length).foldl (fun s k =>
          match p.img.lines[k]? with
          | none => s
          | some l =>
            let mine := (lineIdx p.img k).filter who.contains
            match mine with
            | [] => s
            | r0 :: _ =>
              let x := sendPieces (fun s pc last =>
                let y := s.sendLine ch.quad (resultHdr s p ch.quad k l pc.1 pc.2.length last) pc.2 (mine.map (receiverEid p n))
                  (some (slot, n, c))
                let gone := mine.filter fun r => y.2.1.contains (receiverEid p n r)
                (gone.foldl (fun s r => s.loseReceiver slot n r) y.1, y.2.2)) s (resultPieces p.img i c r0 bytes)
              x.1.updChunk slot n c fun ch =>
                { ch with recvs := updWhere ch.recvs (fun y => mine.contains y.idx) fun y =>
                    { y with seqs := x.2.getLast?.toList, frames := x.2 } }) s
        ((s.stageResult slot n c ch.quad bytes).settleChunk slot n c).settleChunks slot n

/-- The result that a chunk holds, or that staging holds for it (R173). -/
def heldResult (p : Plan) (n : Nat) (ch : Chunk) : List Byte :=
  if ch.staged then ((p.staging.find? fun x => x.n = n && x.c = ch.c).map (·.bytes)).getD [] else ch.result.getD []

/-- Sends a frame of a service again: the SEQ of the frame it replaces, with RETRY (R39). -/
def State.sendAgain (s : State) (q : Nat) (h : Hdr) (seq : W32) (payload : List Byte) (result : Option (Nat × Nat × Nat)) : State :=
  (s.sendOwn mashPlace q (mkOvdu (s.ovduEtype q) { h with seq := seq.toNat, retry := true } payload) result).1

/-- Sends a result to one receiver again, as a unicast message (R177): the first such message to an endpoint has new frames of
their ordering domain, a later one those of the first with RETRY (R39). (DEDUCED, log 12, unsafe; DEDUCED, log 50, unsafe) -/
def State.resend (s : State) (slot n c r : Nat) : State :=
  match s.plan slot with
  | none => s
  | some p =>
    match findInst p n with
    | none => s
    | some i =>
      match findChunk i c, (receiversOf p.img)[r]? with
      | some ch, some (k, _) =>
        match p.img.lines[k]? with
        | none => s
        | some l =>
          let dst := receiverEid p n r
          let old := match ch.recvs.find? (·.idx = r) with | some y => (if y.uniTo = dst then y.uni else []) | none => []
          let pieces := resultPieces p.img i c r (heldResult p n ch)
          let hdr (s : State) (pc : Nat × List Byte) (last : Bool) : Hdr := resultHdr s p ch.quad dst l pc.1 pc.2.length last
          let x := if old.isEmpty then
              sendPieces (fun s pc last =>
                let y := s.sendUni ch.quad (hdr s pc last) pc.2 (some (slot, n, c))
                (y.1, y.2.2)) s pieces
            else ((pieces.zip old).foldl (fun (acc : State × Nat) z =>
                (acc.1.sendAgain ch.quad (hdr acc.1 z.1 (acc.2 + 1 = pieces.length)) z.2 z.1.2 (some (slot, n, c)), acc.2 + 1)) (s, 0)
              |>.1, old)
          x.1.updChunk slot n c fun ch =>
            { ch with recvs := updWhere ch.recvs (·.idx = r) fun y =>
                { y with sends := y.sends + 1, sentAt := s.time.core, frames := x.2, uniTo := dst, uni := x.2,
                         seqs := if old.isEmpty then y.seqs ++ x.2.getLast?.toList else y.seqs } }
      | _, _ => s

/-! ### The chunk's own work (R172) -/

/-- Parts of a message added, all of those expected. -/
def msgDone (m : Option MsgSt) (parts : List Nat) : Bool :=
  match m with | none => parts.isEmpty | some m => parts.all m.added.contains
/-- Level 0 of a chunk is complete. -/
def level0Done (img : Image) (i : Inst) (ch : Chunk) : Bool :=
  (List.range img.contribs.length).all fun k => msgDone (ch.msgs.find? (·.idx = k)) (expected img i ch.c k)
/-- The ring partial of the chunk has been added, or none is due. -/
def partialDone (img : Image) (i : Inst) (ch : Chunk) : Bool :=
  !takesPartial img ch.c || msgDone ch.ringMsg (List.range (ringParts img (chunkLen img i.extent ch.c)))

/-- The payloads of a ring partial under forms 0x01 and 0x02, with the flags of its rounding (R208, R209). -/
def ringPieces (img : Image) (i : Inst) (ch : Chunk) : List (Nat × List Byte) × Nat :=
  if img.kind = 6 then ([(0, trimRecord {})], 0)
  else
    let step := ringPart img
    let es := (chunksOf step ch.elems.length ch.elems).mapIdx fun k l => (k, l)
    let base := chunkLo img ch.c
    let _ := i
    if img.ringForm = 1 then (es.map fun x => (base + x.1 * step, x.2.flatMap trimRecord), 0)
    else
      let cs := es.map fun x => (base + x.1 * step, x.2.map (hopCode fp32))
      (cs.map fun x => (x.1, x.2.flatMap fun c => leBytes 4 c.1), cs.foldl (fun f x => x.2.foldl (fun f c => f ||| c.2) f) 0)

/-- The payloads of a ring result. -/
def ringResultPieces (img : Image) (i : Inst) (c : Nat) (bytes : List Byte) : List (Nat × List Byte) :=
  if img.kind = 6 then [(0, [])]
  else
    let step := partLimit img.outFmt
    (List.range (resParts img (chunkLen img i.extent c))).map fun k =>
      let n := min step (chunkLen img i.extent c - k * step)
      (chunkLo img c + k * step, sl bytes (fmtBytes img.outFmt (k * step)) (fmtBytes img.outFmt n))

/-- What a chunk does when level 0 and any ring partial are complete: the owner rounds, delivers and sends the result round;
another spine sends its partial. A Kiln leg waits for its hand-over (R172, R228). -/
def State.advanceChunk (s : State) (slot n c : Nat) : State :=
  match s.plan slot with
  | none => s
  | some p =>
    match findInst p n with
    | none => s
    | some i =>
      match findChunk i c with
      | none => s
      | some ch =>
        if !(level0Done p.img i ch && partialDone p.img i ch) || ch.result.isSome || ch.ringSent then s
        else
        -- pending carries are resolved before a value is rounded or trimmed (R192)
        let ch := { ch with elems := ch.elems.map resolve }
        let s := s.updChunk slot n c fun _ => ch
        if ringK p.img c = 0 then
          let r := if p.img.kind = 6 then ([], 0) else finishElems p.img.op p.img.outFmt ch.elems
          let s := (s.updChunk slot n c fun ch => { ch with result := some r.1 }).arithFlags slot n r.2
          let s := if p.img.levels = 2 then s.sendRing p n ch.quad 2 (ringResultPieces p.img i c r.1) else s
          s.deliver slot n c
        else if p.img.ringForm = 3 then s
        else
          let r := ringPieces p.img i ch
          let s := (s.updChunk slot n c fun ch => { ch with ringSent := true }).arithFlags slot n r.2
          s.sendRing p n ch.quad 0 r.1

/-- Opens the slot of a chunk in its placed quadrant (R171). -/
def State.openChunk (s : State) (slot n c : Nat) : State :=
  match s.plan slot with
  | none => s
  | some p =>
    let pl := placeOf p n c
    s.updInst slot n fun i => { i with chunks := i.chunks ++
      [{ c, quad := pl.1, tun := pl.2, elems := List.replicate (chunkLen p.img i.extent c) {} }] }

/-- The instance leaves FREE (R167). (DEDUCED, log 51, unsafe) -/
def State.openInst (s : State) (slot n : Nat) : State :=
  match s.plan slot with
  | none => s
  | some p =>
    if (findInst p n).isSome then s
    else
      let st : CtxState := if p.img.countPhase then .counting else .running
      (s.updPlan slot fun p => { p with insts := p.insts ++
        [{ n, state := st, before := st, extent := p.img.extent, counts := List.replicate p.img.contribs.length none,
           openNs := s.time.ns, timer := s.time.core }] }).meshOpen slot n

/-! ### What an instance owes (R168, R180) -/

/-- Contributor k owes a count frame, a part of an open chunk, or its first frame. -/
def owesContrib (img : Image) (i : Inst) (k : Nat) : Bool :=
  if i.before = .counting then (nthD i.counts k none).isNone
  else
    (i.chunks.any fun ch => !((expected img i ch.c k).all fun x =>
      match ch.msgs.find? (·.idx = k) with | some m => m.taken.contains x | none => false)) ||
    (!i.heard.contains k && (img.kind ≠ 4 || (contribRange img i k).1 < (contribRange img i k).2) && !img.countPhase)

/-- Every part of a message has arrived. -/
def msgTaken (m : Option MsgSt) (parts : Nat) : Bool :=
  match m with | none => parts = 0 | some m => (List.range parts).all m.taken.contains

/-- A ring partial, ring count or ring result is owed: some part of it has not arrived (R168), or, under form 0x03, its tiles are
held by a receive stream whose list of arrays is empty, `stuck` telling so of a quadrant (R238). -/
def owesRing (stuck : Nat → Bool) (img : Image) (i : Inst) : Bool :=
  img.levels = 2 &&
  (if i.before = .counting then
    (match img.ring with
     | some t => (t.p ≠ 0 && i.ringBase.isNone) || (t.p + 1 ≠ t.h && i.grand.isNone)
     | none => false)
   else i.chunks.any fun ch =>
    let len := chunkLen img i.extent ch.c
    (takesPartial img ch.c && (!msgTaken ch.ringMsg (ringParts img len) ||
      (img.ringForm = 3 && !msgDone ch.ringMsg (List.range (ringParts img len)) && stuck ch.quad))) ||
      (takesResult img ch.c && !msgTaken ch.resMsg (resParts img len)))

/-- Contributors marked missing at an expiry: those that owe, and those that have sent nothing at all (R180). -/
def missingAt (img : Image) (i : Inst) : List Nat :=
  (List.range img.contribs.length).filter fun k => owesContrib img i k || !i.heard.contains k

/-- The plan's receive stream in a quadrant has no array left (R238). -/
def State.stuck (s : State) (slot q : Nat) : Bool :=
  s.kstreams.any fun k => k.1 / 64 = q && k.2.slot = slot && k.2.recv && k.2.arrays.isEmpty

/-- The instance owes anything (R168). -/
def owesAny (stuck : Nat → Bool) (img : Image) (i : Inst) : Bool :=
  (List.range img.contribs.length).any (owesContrib img i) || owesRing stuck img i ||
    (i.before = .running && i.done.length + i.chunks.length < numChunks img i.extent)

end Sys2Proof.Machine
end

