-- ==== Sys2Proof/Machine/QueueOps.lean ====
section
/-! DEFINITION. The egress side below its rows: buffer shares and thresholds (R117 to R119), deficit round robin (R138 to R141),
entries that leave their queue, flushes (R123, R124) and sending on a fibre (R29, R31,
R51, R244, R245, R306, R310). -/
namespace Sys2Proof.Machine

/-! ### Buffer shares (R117 to R119) -/

/-- The sum of ING_SHARE over the ports of quadrant q. -/
def State.ingSum (s : State) (q : Nat) : Nat :=
  let lo := Reg.flrIng.addr [q, 0]
  let l := s.regs.filter fun x => lo ≤ x.1 && x.1 < lo + 1024
  (256 - l.length) * 0x1000 + (l.map fun x => x.2.toNat % 2 ^ 21).sum
/-- F: free cells of the egress region (R119). -/
def State.egressFree (s : State) (q : Nat) : Nat := 3847932 - s.ingSum q - (s.floor q).used
/-- T of R119 for quadrant q. -/
def State.threshold (s : State) (q : Nat) : Nat :=
  min (s.rf .flrThresh [q] 8 22) (s.egressFree q >>> min 12 (s.rf .flrThresh [q] 0 4))

/-- An empty VC, and an empty queue of VC5, have deficit 0 and no visit (R139). -/
def State.drrSettle (s : State) (p n : Nat) : State :=
  let vc := queueVc n
  let qEmpty (m : Nat) : Bool := (s.queue p m).entries.isEmpty
  let vEmpty := if vc = 5 then (List.range 3).all qEmpty else qEmpty n
  s.updPort p fun x =>
    let d := x.drr
    let d := if n < 3 && qEmpty n then { d with gcur := if d.gcur = some n then none else d.gcur,
                                                glast := if d.gcur = some n then n else d.glast, gdef := d.gdef.set n 0 } else d
    let d := if vEmpty then { d with cur := if d.cur = some vc then none else d.cur, last := if d.cur = some vc then vc else d.last,
                                     deficit := d.deficit.set vc 0 } else d
    { x with drr := d }

/-- Takes an entry off its queue, returns its cells and settles the round robin (R119, R139). -/
def State.leaveQueue (s : State) (p n : Nat) (e : QEntry) : State :=
  let s := s.updQueue p n fun x =>
    { x with entries := x.entries.filter (·.fid ≠ e.fid), depth := x.depth - e.cells }
  let s := s.drrSettle p n
  if e.group then s.freeGroup (p / 256) e.fid e.cells
  else s.updFloor (p / 256) fun f => { f with used := f.used - e.cells }

/-! ### Drops at and before a queue -/

def isService (src : IngressSrc) : Bool := match src with | .port _ => false | .service _ => true
/-- Counts and taps a frame dropped at queue n of port p; j is the counter of the queue. -/
def State.queueCount (s : State) (p n j : Nat) (f : Frame) (src : IngressSrc) : State :=
  (s.countPort p (64 + 8 * n + j)).watch 2 p f (s.isOvdu (p / 256) f) (isService src) n (0x8000 + 64 + 8 * n + j)
/-- The same for a frame of which no copy is left, whose departure is recorded. -/
def State.queueDrop (s : State) (p n j : Nat) (f : Frame) (src : IngressSrc) : State := (s.queueCount p n j f src).depart (p / 256) f
/-- Counts and taps at output port p a frame that a poisoned cell has touched. The manual names no counter for it: the model takes
that of the frames ended with an inverted FCS, index 14 (R364, R401). (DESIGN CHOICE, log 30, unsafe) -/
def State.poisonCount (s : State) (p n : Nat) (f : Frame) (src : IngressSrc) : State :=
  (s.countPort p 14).watch 2 p f (s.isOvdu (p / 256) f) (isService src) n 0x800E

/-- Drops an entry of queue n of port p. -/
def State.dropEntry (s : State) (p n j : Nat) (e : QEntry) : State :=
  ((s.leaveQueue p n e).queueCount p n j e.bytes e.src).departEntry (p / 256) e
/-- Drops a frame that waits for admission to queue n of port p. -/
def State.dropWaiting (s : State) (c : FrameCtx) (p n j : Nat) : State := (s.freeIngress c).queueDrop p n j c.bytes c.src

/-- The frame waits for admission to port p. -/
def bound (p : Nat) (w : Waiting) : Bool := match w.target with | .unicast _ x => x = p | _ => false

/-- Marks frames in flight as dropped. (DEDUCED, log 45, safe) -/
def dropFlying (l : SMap Flying) (p : Nat → Flying → Bool) : SMap Flying :=
  l.map fun x => if p x.1 x.2 then (x.1, { x.2 with dropped := true }) else x

/-! ### Copies at a replicator (R127) -/

/-- The link that the spray gives a copy in quadrant q (R92, R93). A general-class frame takes no trunk port (R56). -/
def State.copyLink (s : State) (q : Nat) (c : FrameCtx) (cp : Copy) : Option Nat :=
  let vid := match c.src with | .port i => s.genVid i.toNat c.bytes | .service _ => 0
  if s.isOvdu q c.bytes then s.sprayDom q cp.sheaf (oDom c.bytes) (oSeq c.bytes)
  else match s.sprayMac q cp.sheaf vid c.bytes with
    | some p => if s.isTrunk p then none else some p
    | none => none

/-- The replicator of quadrant q drops copies of a frame; the rest of its list stays. -/
def State.takeCopies (s : State) (q fid : Nat) (p : Copy → Bool) : State :=
  s.updFloor q fun f => { f with repl := updWhere f.repl (·.ctx.fid = fid) fun r => { r with copies := r.copies.filter fun c => !p c } }

/-- The copies at the replicator of quadrant p / 256 that wait for the queues of port p. -/
def State.copiesFor (s : State) (p : Nat) : List (FrameCtx × List Copy) :=
  (s.floor (p / 256)).repl.map fun r => (r.ctx, r.copies.filter fun c => s.copyLink (p / 256) r.ctx c = some p)

/-! ### Flushes (R123, R124) -/

/-- Drops every copy that waits at the replicator for port p (R123). -/
def State.flushCopies (s : State) (p : Nat) : State :=
  (s.copiesFor p).foldl (fun (s : State) x =>
    if x.2.isEmpty then s
    else
      let n := s.queueOf p x.1.bytes
      let s := x.2.foldl (fun (s : State) _ => s.queueCount p n 6 x.1.bytes x.1.src) s
      (s.takeCopies (p / 256) x.1.fid x.2.contains).departCopy (p / 256) x.1.fid x.1.bytes) s

/-- A held frame is held for port p. -/
def heldFor (p : Nat) (h : Held) : Bool := match h.copy with | some c => c.2 = p | none => bound p h.wait

/-- R123: drops every frame in the queues of port p, on its way to them, waiting for them, or held fenced for the port.
(DEDUCED, log 45, safe) -/
def State.flushPort (s : State) (p : Nat) : State :=
  let q := p / 256
  let hs := s.held.filter (heldFor p)
  let s := { s with held := s.held.filter fun h => !heldFor p h }
  let s := (List.range 8).foldl (fun (s : State) n => (s.queue p n).entries.foldl (fun (s : State) e =>
    let s := s.dropEntry p n 6 e
    { s with flying := dropFlying s.flying fun k _ => k = e.fid && !e.group }) s) s
  let mine (f : Flying) : Bool := !f.dropped && bound p ⟨f.ctx, f.target⟩
  let away (s : State) (x : Nat × Flying) : State :=
    let s := s.updQueue p x.2.queue fun q => { q with depth := q.depth - x.2.cells }
    let s := s.updFloor q fun f => { f with used := f.used - x.2.cells }
    s.queueDrop p x.2.queue 6 x.2.ctx.bytes x.2.ctx.src
  let s := (s.flying.filter fun x => mine x.2).foldl away s
  let s := { s with flying := dropFlying s.flying fun _ f => mine f }
  let ws := s.waiting.flatMap fun x => x.2.filter (bound p)
  let s := { s with waiting := SMap.mapVals s.waiting [] fun l => l.filter fun w => !bound p w }
  let s := ws.foldl (fun (s : State) w => s.dropWaiting w.ctx p (s.queueOf p w.ctx.bytes) 6) s
  hs.foldl (fun (s : State) h =>
    let s := s.queueCount p (s.queueOf p h.wait.ctx.bytes) 6 h.wait.ctx.bytes h.wait.ctx.src
    if h.copy.isSome then s.departCopy q h.wait.ctx.fid h.wait.ctx.bytes else s.depart q h.wait.ctx.bytes) s

/-! ### Deficit round robin (R138 to R141) -/

/-- The state of a round robin: under visit, served last, deficits. -/
structure DrrView where
  cur : Option Nat
  last : Nat
  deficit : List Nat
  deriving DecidableEq, Repr

/-- The end of a visit: an empty class loses its deficit, another keeps it within its bound. -/
def endVisit (quantum : Nat → Nat) (empty : Nat → Bool) (d : DrrView) (v : Nat) : DrrView :=
  ⟨none, v, modNth d.deficit v fun x => if empty v then 0 else min x (quantum v + 9236)⟩

/-- The class of n that sends next, if one may, with the state after its frame is charged; a visit to a class that may send no more
ends. Where only classes of weight 0 may send, it is the next of them in cyclic order. (DESIGN CHOICE, log 90, unsafe) -/
def drrNext (n : Nat) (quantum cost : Nat → Nat) (elig empty : Nat → Bool) : Nat → DrrView → Option Nat × DrrView
  | 0, d => (none, d)
  | k + 1, d =>
    match d.cur with
    | some v =>
      if elig v && cost v ≤ nthD d.deficit v 0 then (some v, { d with deficit := modNth d.deficit v (· - cost v) })
      else drrNext n quantum cost elig empty k (endVisit quantum empty d v)
    | none =>
      let order := (List.range n).map fun i => (d.last + 1 + i) % n
      match order.find? fun v => quantum v ≠ 0 && elig v with
      | some v => drrNext n quantum cost elig empty k { d with cur := some v, deficit := modNth d.deficit v (· + quantum v) }
      | none =>
        -- a class of weight 0 is served only when no other is eligible, one frame at a time (R140)
        match order.find? elig with
        | some v => (some v, { d with last := v })
        | none => (none, d)

/-- Steps that any choice takes at most: 37 visits of 256 bytes cover the longest charged length, 9,236 bytes, in each of six
classes, and a visit takes two steps. -/
def drrSteps : Nat := 450

/-! ### Sending on a fibre -/

/-- Lanes in a width. -/
def widthLanes (w : BitVec 8) : Nat := popcount w.toNat 8
/-- R310: a frame of length l that starts now ends before the preamble of every launch pending on the port. A port that trains
sends on every lane of its mode. -/
def State.fitsLaunch (s : State) (p l : Nat) : Bool :=
  let w := widthLanes (s.port p).width
  let rate := 200 * (if w = 0 then s.portSpeed p else w)
  s.launches.all fun x => x.port ≠ p || (s.stampAt p true).1 * rate + ((l + 20) * 8 + 64) * 2 ^ 32 ≤ x.t * rate * 2 ^ 32
/-- Bytes the retry buffer of a port holds: 32 KiB for each lane of its mode (R245). -/
def State.retryRoom (s : State) (p : Nat) : Nat := 32768 * s.portSpeed p
/-- The next frame has room in the retry buffer, or the port keeps none. -/
def State.retryFits (s : State) (p l : Nat) : Bool :=
  !(s.port p).retryOn || ((s.port p).retryBuf.map fun e => frameLen e.bytes).sum + l ≤ s.retryRoom p
/-- The VC holds the credits for a frame (R51). -/
def State.creditsFor (s : State) (p vc cells : Nat) : Bool :=
  let x := s.port p
  let d := (nthD x.limitHeld vc 0 - nthD x.sent vc 0).toNat
  cells ≤ d && d < 2 ^ 31

/-- Lasers of engine o whose channel no port's width uses any more go off (R258). -/
def State.dousedAt (s : State) (o : Nat) : State :=
  let used (l : Laser) : Bool := s.ports.any fun x => x.1 / 64 = o && x.2.up && bit x.2.width.toNat l.channel.toNat
  (List.range 10).foldl (fun (s : State) n =>
    if (s.laser o n).lingers && !used (s.laser o n) then s.updLaser o n fun l => { l with lingers := false } else s) s
/-- Width changes of port p fall due: it keeps the lanes that all of them name (R251). -/
def State.takeWidth (s : State) (p : Nat) (masks : List (BitVec 8)) : State :=
  let w := masks.foldl (· &&& ·) (s.port p).width
  ((s.updPort p fun y => { y with width := w }).portEvent p 4 0 w).dousedAt (p / 64)
/-- The width change that falls at the next LSN sent is made (R251). -/
def State.widthNow (s : State) (p : Nat) : State :=
  let x := s.port p
  match x.widthAt.filter fun (w : BitVec 8 × W16) => w.2 = x.lsnNext with
  | [] => s
  | now => (s.updPort p fun y => { y with widthAt := y.widthAt.filter fun w => w.2 ≠ x.lsnNext }).takeWidth p (now.map (·.1))

/-- A loopback path uses the transmitter of fibre f: it is joined to a receiver (R265, R271). -/
def State.loopUses (s : State) (f : Nat) : Bool := fld (s.mesh (f / 4)).map.toNat (3 * (4 + f % 4)) 3 < 4
/-- The transmit shutter of fibre f is open, and so the fibre may carry the device's light: TX_ON and LASER_EN, a port of it armed
and not suppressed or a loopback path on its transmitter, its group not recalibrating; closed through every reset (R263, R271,
R272). -/
def State.shutterOpen (s : State) (f : Nat) : Bool :=
  (s.engine (f / 16)).txOn && s.pins.laserEn && !s.coreHeld && s.pwr.state ≠ 3 && (s.mesh (f / 4)).recal.isNone &&
    (s.loopUses f || (List.range 4).any fun k => (s.port (4 * f + k)).armed && !(s.port (4 * f + k)).suppressed)
/-- The port's transmit light is allowed: armed and not suppressed, on a fibre whose shutter is open (R252, R271). -/
def State.txAllowed (s : State) (p : Nat) : Bool := (s.port p).armed && !(s.port p).suppressed && s.shutterOpen (p / 4)
/-- A frame as it goes on the fibre, with its preamble (R244). -/
def txFrame (p : Nat) (lsn : W16) (replay : Bool) (vc cells : Nat) (bytes : Frame) (fcsOk : Bool) : TxFrame :=
  { port := p, pre := preamble lsn replay false vc cells, lsn, replay, vc, cells, bytes, fcsOk }

/-- A data frame leaves on port p, charged to a VC: LSN, credits, retry buffer, counters (R51, R244, R245, R402). A frame ended
with an inverted FCS is not kept: it is not sent again (R116, R29). -/
def State.wireSend (s : State) (p vc : Nat) (f : Frame) (fcsOk own : Bool) (queue : Nat) : State :=
  let s := s.widthNow p
  let x := s.port p
  let cells := frameCells f
  let s := s.updPort p fun y =>
    { y with lsnNext := x.lsnNext + 1, sent := modNth y.sent vc (· + BitVec.ofNat 32 cells), wireTx := y.wireTx + frameLen f + 20,
             retryBuf := if x.retryOn && fcsOk then
                 y.retryBuf ++ [{ lsn := x.lsnNext, bytes := f, vc := BitVec.ofNat 3 vc, cells, own, queue }] else y.retryBuf }
  let s := (s.countPort p 2).count p 3 (frameLen f)
  { s with out := { s.out with tx := txFrame p x.lsnNext false vc cells f fcsOk :: s.out.tx } }

/-- The body of a link control frame: KIND, and bytes 18 to 41 (R53, R247). -/
def ctlBody (x : PortSt) (mask : BitVec 8) (limits : List W32) (k mode now : Nat) : LinkCtl → Nat × List Byte
  | .credit => (1, limits.flatMap fun l => beBytes 4 l.toNat)
  | .retryReq l => (2, beBytes 2 l.toNat)
  | .linkAck l => (3, beBytes 2 l.toNat)
  | .train => (4, [mask, BitVec.ofNat 8 mode] ++ beBytes 2 k ++ beBytes 8 now ++ beBytes 8 x.partnerCount.toNat)
  | .width m l => (5, [m, 0] ++ beBytes 2 l.toNat)
  | .widthAck m l => (6, [m, 0] ++ beBytes 2 l.toNat)

/-- LIMIT of VC v: cells freed plus GRANT, which is ignored for VC2 and VC4 of a leaf port (R51, R58). -/
def State.limitOf (s : State) (p v : Nat) : W32 :=
  let g := if s.isLeaf p && (v = 2 || v = 4) then 0 else s.rf .portCredit (pix p ++ [v]) 0 20
  nthD (s.port p).freed v 0 + BitVec.ofNat 32 g

/-- The channel of an engine is retired: a laser on it is (R258). -/
def State.channelRetired (s : State) (o n : Nat) : Bool :=
  (List.range 10).any fun k => (s.laser o k).state = .retired && (s.laser o k).channel.toNat = n
/-- Lanes of port p that it still has: its mode's lanes less those of retired rings and channels. (DEDUCED, log 41, safe) -/
def State.laneMask (s : State) (p : Nat) : BitVec 8 :=
  let f := p / 4
  let ok (n : Nat) : Bool := bit (s.portLanes p) n && !s.channelRetired (f / 16) n &&
    [false, true].all fun rx => (s.microRing ⟨BitVec.ofNat 8 f, rx, BitVec.ofNat 3 n⟩).state ≠ .retired
  BitVec.ofNat 8 (((List.range 8).filter ok).map fun n => 2 ^ n).sum

/-- A link control frame of port p, from DA to the last byte before FCS. -/
def State.ctlFrame (s : State) (p : Nat) (c : LinkCtl) : Frame :=
  let b := ctlBody (s.port p) (s.laneMask p) ((List.range 6).map (s.limitOf p)) (p % 4) (s.fibreMode (p / 4)) s.time.free.toNat c
  padTo 62 (List.replicate 6 0xFF ++ [2, 0] ++ beBytes 4 (s.svcEid (p / 256) svcControl) ++ beBytes 2 (s.ovduEtype (p / 256)) ++ [0x1F, BitVec.ofNat 8 b.1, 0, 0] ++ b.2)

/-- Sends a link control frame: outside the LSN sequence and the VCs, so that the LSN of its preamble is open; a credit frame
advertises the limits it carries. (DEDUCED, log 37, safe) -/
def State.sendCtl (s : State) (p : Nat) (c : LinkCtl) : State :=
  let f := s.ctlFrame p c
  let lim := (List.range 6).map (s.limitOf p)
  let s := s.updPort p fun x =>
    { x with wireTx := x.wireTx + 86,
             advertised := if c = .credit then lim else x.advertised,
             creditDue := if c = .credit then false else x.creditDue,
             creditAt := if c = .credit then s.time.core else x.creditAt,
             retryPoints := x.retryPoints + (match c with | .retryReq _ => 1 | _ => 0) }
  let s := match c with | .retryReq _ => s.countPort p 6 | _ => s
  let lsn := s.fresh
  { lsn.2 with out := { s.out with ctl := (p, preamble (lsn.1.setWidth 16) false true 0 0, f) :: s.out.ctl } }.watch 1 p f true true
    0xFF 0

/-! ### What changes in a frame as it leaves (R31, R47, R153, R306, R307) -/

/-- Rewrites DL, and sets ECN when the queue is deeper than its threshold; answers also whether it marked. -/
def State.egressOvdu (s : State) (p n depthLeft : Nat) (f : Frame) : Frame × Bool :=
  let q := p / 256
  let cls := s.tcClass q (oTc f)
  let f := setDl f (s.dlOut p cls (oDl f))
  if cls ≠ clsGeneral && s.rf .tmQecn (pix p ++ [n]) 0 22 < depthLeft then (setEcn f, true) else (f, false)

/-- Residence time in 2^-16 ns: FREE difference times INCR, with the receive and transmit latencies (R307).
(DESIGN CHOICE, log 58, safe) -/
def State.residence (s : State) (e : QEntry) (p : Nat) : Nat :=
  let lat := (match e.src with | .port i => (s.port i.toNat).rxLat.toNat | .service _ => 0) + (s.port p).txLat.toNat
  let d := (s.time.free - e.free).toNat * s.time.incr.toNat + lat * 2 ^ 28
  rateQuot d 65536

/-- The transparent clock on a general-class Ethernet frame. -/
def State.egressPtp (s : State) (p : Nat) (e : QEntry) : Frame :=
  if !s.rb .timeCtrl [] 4 then e.bytes
  else match ptpAt e.bytes with
    | some (o, udp) => if ptpType e.bytes o < 2 then addCorrection e.bytes o udp (s.residence e p) else e.bytes
    | none => e.bytes

end Sys2Proof.Machine
end

