-- ==== Sys2Proof/Machine/Queues.lean ====
section
/-! DEFINITION. The rows of the egress side: admission (R119 to R122, R127), frame boundaries (R138), shapers and policers
(R142 to R147), refill boundaries (R145, R154, R405) and scheduled launches at their time (R310, R311). -/
namespace Sys2Proof.Machine

/-! ### Admission (R119, R120, R127) -/

/-- Lanes on which a port runs: its present width (R249). -/
def State.portWidth (s : State) (p : Nat) : Nat := widthLanes (s.port p).width

/-- R115: the frame may be cut through at output port p. FENCE on a response is ignored (R41).
(DESIGN CHOICE, log 82, unsafe) -/
def State.mayCut (s : State) (p : Nat) (c : FrameCtx) : Bool :=
  match c.src with
  | .service _ => false
  | .port i =>
    s.rb .flrCtrl [p / 256] 0 && !(s.isOvdu (p / 256) c.bytes && oFence c.bytes && fences (oOp c.bytes)) &&
    !s.transitHold (i.toNat / 256) (p / 256) &&
    (List.range 8).all (fun n => (s.queue p n).depth = 0) && (s.port p).replay.isEmpty &&
    !(s.waiting.any fun x => x.2.any fun w => w.ctx.fid ≠ c.fid && bound p w) && ((s.copiesFor p).all fun x => x.2.isEmpty) &&
    s.portWidth p ≤ s.portWidth i.toNat

/-- The output quadrants of a set of copies, ascending. -/
def copyQuads (cs : List Copy) : List Nat := (List.range 4).filter fun y => cs.any fun c => c.sheaf / 256 = y

/-- A frame bound for a port is admitted: charged, its ingress cells freed, and packed into its stream (R101, R104, R119). -/
def State.admitTo (s : State) (w : Waiting) (p n cells : Nat) (faulty : Bool := false) : State :=
  let c := w.ctx
  let cut := s.mayCut p c
  let s := (s.charge p n cells true).freeIngress c
  let s := { s with flying := SMap.put s.flying c.fid { ctx := c, target := w.target, queue := n, cells, cut, faulty } }
  s.pack (unicastStream c.src (p / 4)) c.fid (floorBytes c.bytes 0) cut

/-! ### Messages of PUT frames at Pitch (R35, R381) -/

/-- The PUT frames of a domain that are known, a new one put in its place by SEQ. -/
def insPut (x : PitchPut) : List PitchPut → List PitchPut
  | [] => [x]
  | y :: r =>
    if y.seq = x.seq then { x with held := x.held || y.held, acked := y.acked && !x.held } :: r
    else if precedes x.seq y.seq then x :: y :: r else y :: insPut x r

/-- Every frame of the message that ends at SEQ e is held: those since the LAST before it, or since `next`. -/
def messageHeld (d : PitchDom) (e : W32) : Bool :=
  let before := d.puts.filter fun y => y.last && precedes y.seq e
  let start := before.foldl (fun (_ : W32) y => y.seq + 1) d.next
  let n := (e - start).toNat + 1
  n ≤ d.puts.length && (List.range n).all fun k => d.puts.any fun y => y.seq = start + BitVec.ofNat 32 k && y.held

/-- Forgets the frames of the messages at the front whose ACK went. (DESIGN CHOICE, log 87, unsafe) -/
def settlePuts : Nat → PitchDom → PitchDom
  | 0, d => d
  | k + 1, d =>
    match d.puts.find? (·.last) with
    | some y => if y.acked then settlePuts k { d with next := y.seq + 1, puts := d.puts.filter fun z => precedes y.seq z.seq } else d
    | none => d

/-- A PUT has been judged at Pitch in quadrant q, and its chunk is held or not; the ACK of every message of its domain that is
now held goes out, from the quadrant that serves its LAST frame (R35, R381). (DESIGN CHOICE, log 87, unsafe) -/
def State.pitchPut (s : State) (q : Nat) (f : Frame) (held : Bool) : State :=
  let dom := oDom f
  let d := (s.pitchDoms.find? (·.dom = dom)).getD { dom, next := 0 }
  if precedes (oSeq f) d.next then
    if held && oLast f then s.sendAck q f (oSeq f) (oEcn f) else s
  else
    let d := { d with puts := insPut { seq := oSeq f, last := oLast f, held, acked := false, quad := q, hdr := f.take 62 } d.puts }
    let due := d.puts.filter fun y => y.last && !y.acked && messageHeld d y.seq
    let d := { d with puts := d.puts.map fun y => if due.contains y then { y with acked := true } else y }
    let d := settlePuts d.puts.length d
    let s := { s with pitchDoms := s.pitchDoms.filter (·.dom ≠ dom) ++ [d] }
    due.foldl (fun (s : State) y => s.sendAck y.quad y.hdr y.seq (oEcn y.hdr)) s

/-- A Pitch copy is admitted everywhere or gone: the PUT whose last copy it was is held, and its cells go (R381). -/
def State.pitchCopyGone (s : State) (fid : Nat) : State :=
  if !s.pitchAcks.any (·.copies.contains fid) then s
  else
    let acks := s.pitchAcks.map fun (a : PitchAck) => { a with copies := a.copies.filter (· ≠ fid) }
    let due := acks.filter (·.copies.isEmpty)
    let s := { s with pitchAcks := acks.filter fun a => !a.copies.isEmpty }
    due.foldl (fun (s : State) a => (s.freeIngress a.ctx).pitchPut a.quad a.ctx.bytes true) s

/-- A yellow frame that R119 drops above half the threshold is counted at its ingress port (R151). (DEDUCED, log 38, safe) -/
def State.yellowDrop (s : State) (c : FrameCtx) : State :=
  match c.src with
  | .port i => if c.yellow then s.countPort i.toNat 10 else s
  | .service _ => s

/-- FRAME_ADMIT: the frame at the head of a VC of an ingress port, or of the services of a quadrant (R101, R118 to R123). A frame
bound for Pitch, for which R101 has no stream, goes on a stream of KIND Mash. (DESIGN CHOICE, log 96, unsafe) -/
def execFrameAdmit (src : IngressSrc) (vc : BitVec 3) (s : State) : Res :=
  if !s.live then done s else
  let key := waitKey src vc.toNat
  match s.waitList key with
  | [] => done s
  | w :: rest =>
    let popped : State := { s with waiting := SMap.set s.waiting key rest [] }
    let c := w.ctx
    let f := c.bytes
    if s.partitioned then done s
    else match w.target with
    | .mash y | .pitch y =>
      let s := { popped with flying := SMap.put s.flying c.fid { ctx := c, target := w.target, queue := 0, cells := frameCells f } }
      done (s.pack (mashStream c.src y.toNat) c.fid (floorBytes f 0) false)
    | .copies cs =>
      let ys := copyQuads cs
      if ys.any (s.transitHold (srcQuad c.src)) then done s
      else if ys.isEmpty then done (((popped.freeIngress c).departDropped (srcQuad c.src) f).pitchCopyGone c.fid)
      else
        let fl : Flying := { ctx := c, target := w.target, queue := 0, cells := frameCells f, quads := ys.length }
        let s := { popped with flying := SMap.put s.flying c.fid fl }
        done (ys.foldl (fun (s : State) y =>
          s.pack (multicastStream c.src y) c.fid (floorBytes f (cs.filter fun x => x.sheaf / 256 = y).length) false) s)
    | .unicast _ p =>
      let n := s.queueOf p f
      let cells := frameCells f
      if !(s.port p).armed || (!(s.port p).up && !s.smallClass) then done (popped.dropWaiting c p n 6)
      else if s.tooOld c.stampUs then done (popped.dropWaiting c p n 5)
      else if s.transitHold (srcQuad c.src) (p / 256) then done s
      else
        let t := s.threshold (p / 256)
        let gen := s.isGeneral (p / 256) f
        let room := (s.queue p n).depth + cells ≤ (if gen && c.yellow then t / 2 else t)
        if room then done (popped.admitTo w p n cells)
        else if !gen then done s
        else
          done ((popped.yellowDrop c).dropWaiting c p n 4)

/-- AGE_DISCARD_WAITING: in small configuration a frame waiting on the VC has passed AGE_LIMIT_US (R122).
(DEDUCED, log 38, safe) -/
def execAgeDiscardWaiting (src : IngressSrc) (vc : BitVec 3) (s : State) : Res :=
  if !s.live then done s else
  let key := waitKey src vc.toNat
  let old (w : Waiting) : Bool := (match w.target with | .unicast .. => true | _ => false) && s.tooOld w.ctx.stampUs
  let dead := (s.waitList key).filter old
  let s := { s with waiting := SMap.set s.waiting key ((s.waitList key).filter fun w => !old w) [] }
  done (dead.foldl (fun (s : State) w =>
    match w.target with
    | .unicast _ p => s.dropWaiting w.ctx p (s.queueOf p w.ctx.bytes) 5
    | _ => s) s)

/-- The replicator of quadrant q is through with the first copy of an item; the frame's ingress cells go when every quadrant is
through with it (R118, R127). -/
def State.copyDone (s : State) (q : Nat) (item : ReplItem) (charged : Bool) : State :=
  let rest := item.copies.drop 1
  let fid := item.ctx.fid
  let s := s.updFloor q fun f =>
    { f with repl := if rest.isEmpty then f.repl.filter (·.ctx.fid ≠ fid)
        else updWhere f.repl (·.ctx.fid = fid) fun r => { r with copies := rest, charged := charged } }
  if !rest.isEmpty then s
  else
    let s := if charged then s.freeGroup q fid (frameCells item.ctx.bytes) else s
    match SMap.find s.flying fid with
    | none => s
    | some f =>
      if f.quads ≤ 1 then ({ s with flying := SMap.erase s.flying fid }.freeIngress item.ctx).pitchCopyGone fid
      else { s with flying := SMap.put s.flying fid { f with quads := f.quads - 1 } }

/-- The first copy of an item is dropped, counted by `k`, and the item goes on; the frame has left with its last copy (R42). -/
def State.copyLost (s : State) (q : Nat) (item : ReplItem) (k : State → State) : State :=
  ((k s).copyDone q item item.charged).departCopy q item.ctx.fid item.ctx.bytes

/-- A copy that has no link, or meets its date line again: counted for its ingress (R48, R94, R449). -/
def State.copyDrop (s : State) (q idx : Nat) (c : FrameCtx) : State :=
  match c.src with
  | .service sq =>
    let s := s.countQuad sq.toNat 52
    match c.outcome with | some k => s.countQuad k 45 | none => s
  | .port i => (s.countPort i.toNat idx).watch 2 i.toNat c.bytes (s.isOvdu q c.bytes) false 0xFF (0x8000 + idx)

/-- What the replicator does with the first copy of an item: `none` where the copy must wait (R92, R93, R119, R127).
(DEDUCED, log 38, safe) -/
def State.replicate (s : State) (qn : Nat) (item : ReplItem) : Option State :=
  match item.copies with
  | [] => some (s.copyDone qn item item.charged)
  | cp :: _ =>
    let c := item.ctx
    let f := c.bytes
    let ovdu := s.isOvdu qn f
    match s.copyLink qn c cp with
    | none => some (s.copyLost qn item fun s => s.copyDrop qn (checkIndex 12 rNoRoute) c)
    | some p =>
      let cls := s.frameClass qn f
      if ovdu && (cls = clsCollective || cls = clsBulk) && oDl f && s.dateline p then
        some (s.copyLost qn item fun s => s.copyDrop qn (checkIndex 16 rRouteLoop) c)
      else
        let n := s.queueOf p f
        let cells := frameCells f
        -- a frame with a poisoned cell is dropped and counted at its output (R364)
        if c.poison.isSome then some (s.copyLost qn item fun s => s.poisonCount p n f c.src)
        else if s.tooOld c.stampUs then some (s.copyLost qn item fun s => s.queueCount p n 5 f c.src)
        else
          let gen := cls = clsGeneral
          let t := s.threshold qn
          let room := (s.queue p n).depth + cells ≤ (if gen && c.yellow then t / 2 else t)
          let admitCopy (s : State) : State :=
            if room then
              let s := s.charge p n cells (!s.groupCharged qn c.fid)
              (s.enqueue p n (wholeEntry c cp.members true)).copyDone qn item true
            else s.copyLost qn item fun s => (s.yellowDrop c).queueCount p n 4 f c.src
          -- an open fence passes the copy; a closed one takes it out of the list
          let w : Waiting := ⟨c, .copies [cp]⟩
          let fenced := ovdu && oFence f && fences (oOp f)
          if !fenced && !room && !gen then none
          else
            let r := s.fenceOr qn w (some (cp, p)) admitCopy
            match r.2 with
            | some seen =>
              let s := r.1.copyLost qn item id
              some (match c.src with
                | .port i => (s.watchFence qn i.toNat f).nack mashPlace i.toNat qn f rFenceTimeout ((oPrecnt f).toNat * 2 ^ 32 + seen)
                | .service _ => s)
            | none =>
              if r.1.held.length ≤ s.held.length then (if !room && !gen then none else some r.1)
              else some (r.1.copyDone qn item item.charged)

/-- The first item, in order, whose first copy need not wait: a copy that waits holds back only the copies after it in its own
list (R127). -/
def State.replicateFirst (s : State) (q : Nat) : List ReplItem → State
  | [] => s
  | item :: rest => match s.replicate q item with | some t => t | none => s.replicateFirst q rest

/-- GROUP_COPY_ADMIT: the replicator of quadrant q takes its next copy (R92, R93, R119, R127). (DEDUCED, log 38, safe) -/
def execGroupCopyAdmit (q : Quad) (s : State) : Res :=
  if !s.live then done s else done (s.replicateFirst q.toNat (s.floor q.toNat).repl)

/-! ### Frame boundaries (R138) -/

/-- The endpoint is fenced, as its home holds it (R390). -/
def State.fencedAt (s : State) (q eid : Nat) : State × Bool :=
  let r := s.homeEntry q (eidKey eid)
  (r.1, match r.2 with | some x => eFenced x | none => false)

/-- The members of a list that are fenced. -/
def State.fencedOf (s : State) (q : Nat) (ms : List W32) : State × List W32 :=
  ms.foldl (fun (acc : State × List W32) m =>
    let r := acc.1.fencedAt q m.toNat
    (r.1, if r.2 then acc.2 ++ [m] else acc.2)) (s, [])

/-- A queue's head is to be dropped there: fenced destination (R390), every member of a copy fenced (R128). -/
def State.headFenced (s : State) (q : Nat) (e : QEntry) : State × Bool :=
  if !s.isOvdu q e.bytes then (s, false)
  else if e.group then
    let r := s.fencedOf q e.members
    (r.1, !e.members.isEmpty && r.2.length = e.members.length)
  else s.fencedAt q (oDst e.bytes)

/-- Discards at the head of a queue the frames that are too old or fenced (R122, R128, R390).
(DEDUCED, log 37, safe; DEDUCED, log 38, safe) -/
def State.cleanHead (p n : Nat) : Nat → State → State
  | 0, s => s
  | k + 1, s =>
    match (s.queue p n).entries with
    | [] => s
    | e :: _ =>
      let drop (s : State) (j : Nat) : State :=
        let s := s.dropEntry p n j e
        { s with flying := dropFlying s.flying fun i _ => i = e.fid && !e.group }
      if s.tooOld e.stampUs then State.cleanHead p n k (drop s 5)
      else
        let r := s.headFenced (p / 256) e
        if r.2 then
          let s := drop r.1 7
          let s := match e.result with
            | some rc => e.members.foldl (fun (s : State) m => s.fencedReceiver rc m.toNat) s
            | none => s
          State.cleanHead p n k s
        else r.1

/-- Fenced members of the result copy that leaves: the replicator reports them (R128). -/
def State.reportFenced (s : State) (q : Nat) (e : QEntry) : State :=
  match e.result with
  | none => s
  | some rc =>
    let r := s.fencedOf q e.members
    r.2.foldl (fun (s : State) m => s.fencedReceiver rc m.toNat) r.1

/-- The head of queue n is eligible: credits on its VC, and its shaper (R138). -/
def State.queueElig (s : State) (p n : Nat) : Bool :=
  match (s.queue p n).entries with
  | [] => false
  | e :: _ => s.creditsFor p (queueVc n) e.cells && s.shaperAllows p n
def State.headCost (s : State) (p n : Nat) : Nat :=
  match (s.queue p n).entries with | [] => 0 | e :: _ => s.chargedLen p e.bytes

/-- VCW of VC v and GW of queue n, in bytes. -/
def State.vcQuantum (s : State) (p v : Nat) : Nat :=
  256 * (if v < 4 then s.rf .tmVcw0 (pix p) (8 * v) 8 else s.rf .tmVcw1 (pix p) (8 * (v - 4)) 8)
def State.genQuantum (s : State) (p n : Nat) : Nat := 256 * s.rf .tmGenw (pix p) (8 * n) 8

/-- The queue that sends next on port p, if one may, with the round robin after it. (DEDUCED, log 37, safe) -/
def State.pickQueue (s : State) (p : Nat) : Option Nat × DrrSt :=
  let d := (s.port p).drr
  let inner := drrNext 3 (s.genQuantum p) (s.headCost p) (s.queueElig p) (fun n => (s.queue p n).entries.isEmpty) drrSteps
    ⟨d.gcur, d.glast, d.gdef⟩
  let head (v : Nat) : Option Nat := if v = 5 then inner.1 else if s.queueElig p (7 - v) then some (7 - v) else none
  let empty (v : Nat) : Bool :=
    if v = 5 then (List.range 3).all fun n => (s.queue p n).entries.isEmpty else (s.queue p (7 - v)).entries.isEmpty
  let o := drrNext 6 (s.vcQuantum p) (fun v => match head v with | some n => s.headCost p n | none => 0) (fun v => (head v).isSome) empty
    drrSteps ⟨d.cur, d.last, d.deficit⟩
  -- VC5's own round robin moves when VC5 sends, and where it has nothing to send
  let g := if o.1 = some 5 || inner.1.isNone then inner.2 else ⟨d.gcur, d.glast, d.gdef⟩
  (o.1.bind head, { cur := o.2.cur, last := o.2.last, deficit := o.2.deficit, gcur := g.cur, glast := g.last, gdef := g.deficit })

/-- Sends the head of queue n of port p; `late` tells that a cut-through frame's next cell is not there in time (R116);
a frame whose fault was found after its cut-through had begun ends with an inverted FCS as well (R29).
(DEDUCED, log 37, safe) -/
def State.sendHead (s : State) (p n : Nat) (late : Bool) (drr : DrrSt) : State :=
  match (s.queue p n).entries with
  | [] => s
  | e :: _ =>
    let q := p / 256
    let c := s.chargedLen p e.bytes
    let under := late && e.cut && decide (e.released < e.cells)
    let bad := under || e.faulty
    let left := (s.queue p n).depth - e.cells
    let r := if s.isOvdu q e.bytes then s.egressOvdu p n left e.bytes else (s.egressPtp p e, false)
    let s := s.updPort p fun x => { x with drr := drr }
    let s := if r.2 then s.countPort p 12 else s
    let s := if under then s.countPort p 13 else s
    let s := if bad then s.countPort p 14 else s
    let s := (s.countPort p (66 + 8 * n)).count p (67 + 8 * n) c
    let s := s.shaperSend p n c
    let s := s.wireSend p (queueVc n) r.1 (!bad) (isService e.src) n
    let s := s.watch 1 p r.1 (s.isOvdu q e.bytes) (isService e.src) n 0
    (((s.reportFenced q e).leaveQueue p n e).departEntry q e).placeQueue p n

/-- FRAME_BOUNDARY on port p: link control first, then a replay, then the round robin's choice (R137, R138, R245, R310).
(DEDUCED, log 37, safe) -/
def execFrameBoundary (p : Port) (late : Bool) (s : State) : Res :=
  if !s.live then done s else
  let pn := p.toNat
  let x := s.port pn
  if !s.txAllowed pn then done s else
  match x.ctl with
  | c :: rest =>
    done (if s.fitsLaunch pn 66 then (s.updPort pn fun x => { x with ctl := rest }).sendCtl pn c else s)
  | [] =>
    if !x.up then done (if x.trainStep = 4 && s.fitsLaunch pn 66 then s.sendCtl pn .train else s)
    else match x.replay with
    | e :: rest =>
      if !s.fitsLaunch pn (frameLen e.bytes) then done s
      else
        let s := s.updPort pn fun x => { x with replay := rest, wireTx := x.wireTx + frameLen e.bytes + 20 }
        let s := (s.countPort pn 162).count pn 163 (frameLen e.bytes)
        let s := { s with out := { s.out with tx := txFrame pn e.lsn true e.vc.toNat e.cells e.bytes true :: s.out.tx } }
        done (s.watch 1 pn e.bytes (s.isOvdu (pn / 256) e.bytes) e.own e.queue 0)
    | [] =>
      let s := (List.range 8).foldl (fun (s : State) n => State.cleanHead pn n (s.queue pn n).entries.length s) s
      match s.pickQueue pn with
      | (none, drr) => done (s.updPort pn fun x => { x with drr := drr })
      | (some n, drr) =>
        match (s.queue pn n).entries with
        | [] => done s
        | e :: _ =>
          -- the frame that a WIDTH names goes only once its WIDTH_ACK has come (R251)
          if x.widthPend.any fun w => w.2.1 = x.lsnNext then done s
          else if s.retryFits pn (frameLen e.bytes) && s.fitsLaunch pn (frameLen e.bytes) then done (s.sendHead pn n late drr)
          else done s

/-- SHAPER_CALENDAR_SLOT: the calendar reaches the slot of queue n of port p; a NET still ahead places the queue again (R143). A
slot that FREE has not come to is not reached. -/
def execShaperCalendarSlot (p : Port) (n : BitVec 3) (s : State) : Res :=
  if !s.live then done s else
  match (s.queue p.toNat n.toNat).cal with
  | none => done s
  | some slot => done (if 4 * slot ≤ s.time.free.toNat then s.replaceQueue p.toNat n.toNat else s)

/-! ### Commits and refill boundaries (R145 to R147, R152, R154, R405) -/

/-- A staged word, or the committed one. -/
def State.stagedTm (s : State) (r : Reg) (ix : List Nat) : Nat :=
  match SMap.find s.stageTm (r.addr ix) with | some v => v.toNat | none => s.reg r ix

/-- Of the entries committed before FREE `now`, the last governs; one committed at `now` stands beside it (R145). -/
def governs {α : Type} (at_ : α → Nat) (l : List α) (now : Nat) : List α :=
  match (l.filter fun x => at_ x ≠ now).getLast? with | some x => [x] | none => []

/-- What takes effect at a boundary at FREE `now`, and what waits for the boundary after it (R145). -/
def takeEffect {α : Type} (at_ : α → Nat) (l : List α) (now : Nat) : Option α × List α :=
  ((l.filter fun x => at_ x ≠ now).getLast?, l.filter fun x => at_ x = now)

/-- SHAPER_COMMIT: a write of TM_SHP_B commits both halves. -/
def execShaperCommit (p : Port) (n : BitVec 3) (v : W32) (s : State) : Res :=
  done (s.host fun s =>
    if s.quadHeld (p.toNat / 256) then s.ignoredWrite
    else
      let ix := pix p.toNat ++ [n.toNat]
      let rate := s.stagedTm .tmShpA ix % 2 ^ 21
      let burst := v.toNat % 2 ^ 16
      let s := { s with stageTm := SMap.erase s.stageTm (Reg.tmShpA.addr ix) }
      let s := (s.setReg .tmShpA ix rate).setReg .tmShpB ix burst
      s.updQueue p.toNat n.toNat fun q =>
        { q with pend := governs (·.2.2) q.pend s.time.free.toNat ++ [(min 1600000 rate, burst, s.time.free.toNat)] })

/-- POLICER_COMMIT: a write of TM_POL_C commits all three registers. -/
def execPolicerCommit (p : Port) (t : BitVec 3) (v : W32) (s : State) : Res :=
  done (s.host fun s =>
    if s.quadHeld (p.toNat / 256) then s.ignoredWrite
    else
      let ix := pix p.toNat ++ [t.toNat]
      let a := s.stagedTm .tmPolA ix % 2 ^ 24
      let b := s.stagedTm .tmPolB ix % 2 ^ 21
      let s := { s with stageTm := SMap.erase (SMap.erase s.stageTm (Reg.tmPolA.addr ix)) (Reg.tmPolB.addr ix) }
      let s := ((s.setReg .tmPolA ix a).setReg .tmPolB ix b).setReg .tmPolC ix v.toNat
      s.updPol p.toNat t.toNat fun x =>
        { x with pend := governs (·.2) x.pend s.time.free.toNat ++
            [({ cir := fld a 0 21, en := bit a 21, aware := bit a 22, redAct := bit a 23, pir := b, cbs := fld v.toNat 0 16,
                pbs := fld v.toNat 16 16 }, s.time.free.toNat)] })

/-- A queue's committed shaper entry takes effect (R146). (DEDUCED, log 43, unsafe) -/
def State.shaperBoundary (s : State) (p n : Nat) : State :=
  match takeEffect (·.2.2) (s.queue p n).pend s.time.free.toNat with
  | (none, _) => s.placeQueue p n
  | (some (rate, burst, _), rest) =>
    let net := s.netOf p n
    let lim : Int := s.shaperNow + 9216 * shaperI rate
    (s.updQueue p n fun q =>
      { q with rate := rate, burst := burst, pend := rest, net := if rate = 0 then net else min net lim }).replaceQueue p n

/-- A policer at a boundary: the new entry first, buckets cut down, full ones where it starts, then the refill (R147, R149,
R152). `was` and `is_` are POL_EN before and at the boundary. (DEDUCED, log 43, unsafe) -/
def polBoundary (was is_ : Bool) (now : Nat) (x : PolSt) : PolSt :=
  let on := x.cfg.en && was
  let e := takeEffect (·.2) x.pend now
  let c := match e.1 with | some y => y.1 | none => x.cfg
  let on' := c.en && is_
  let mc := 256000 * c.cbs
  let mp := 256000 * c.pbs
  let tc := if on' && !on then mc else min mc x.tc
  let tp := if on' && !on then mp else min mp x.tp
  { cfg := c, pend := e.2, tc := if on' then min mc (tc + 128 * c.cir) else tc,
    tp := if on' then min mp (tp + 128 * max c.pir c.cir) else tp }

/-- The sample of one queue (R154). (DEDUCED, log 44, safe) -/
def State.sampleQueue (s : State) (x : QueueSt) : QueueSt :=
  let delay := match x.entries with | [] => 0 | e :: _ => s.time.free.toNat - e.stampUs * 1000
  { x with maxDepth := max x.maxDepth x.depth, maxDelay := max x.maxDelay delay }

/-- The end of a sampling window in quadrant q: maxima to TM_QSAMP, cleared, SAMPLE_SEQ counts. (DEDUCED, log 44, safe) -/
def State.sampleEnd (s : State) (q : Nat) : State :=
  let base := Reg.tmQsamp.addr [q, 0, 0]
  let s := { s with regs := s.regs.filter fun x => !(base ≤ x.1 && x.1 < base + 0x4000 && (x.1 - base) % 8 = 0) }
  let one (s : State) (x : Nat × QueueSt) : State :=
    if x.1 / 2048 ≠ q then s
    else s.setReg .tmQsamp [q, x.1 % 2048 / 8, x.1 % 8]
      (min 262143 (cdiv x.2.maxDepth 16) + min 16383 (cdiv x.2.maxDelay 256) * 2 ^ 18)
  let s := s.queues.foldl one s
  let clear (x : Nat × QueueSt) : Nat × QueueSt :=
    if x.1 / 2048 = q then (x.1, { x.2 with maxDepth := 0, maxDelay := 0 }) else x
  let s := { s with queues := s.queues.map clear }
  let s := s.setRf .tmSample [q] 20 12 (s.rf .tmSample [q] 20 12 + 1)
  { s with sampleStart := s.sampleStart.set q s.time.free.toNat, sampleWin := s.sampleWin.set q (max 1 (s.rf .tmSample [q] 0 20)) }

/-- Sets a counter that is not a count of events. -/
def State.setCtr (s : State) (g i v : Nat) : State :=
  { s with ctrs := SMap.set s.ctrs (512 * g + i) { word := BitVec.ofNat 49 (v % 2 ^ 48) } {} }

/-- The end of a bandwidth window (R405). (DEDUCED, log 44, safe) -/
def State.bandwidthEnd (s : State) : State :=
  let s := { s with ctrs := s.ctrs.filter fun x => !(x.1 / 512 < 1024 && (x.1 % 512 = 160 || x.1 % 512 = 161)) }
  let s := s.ports.foldl (fun (s : State) x => (s.setCtr x.1 160 x.2.wireRx).setCtr x.1 161 x.2.wireTx) s
  let s := { s with ports := SMap.mapVals s.ports {} fun x => { x with wireRx := 0, wireTx := 0 } }
  let s := s.setRf .cntBw [] 20 12 (s.rf .cntBw [] 20 12 + 1)
  { s with bwStart := s.time.free.toNat, bwWin := min 1000000 (max 1 (s.rf .cntBw [] 0 20)) }

/-- SHAPE_EN and POL_EN of quadrant q as last written before this boundary's cycle take effect (R145, R147). -/
def State.tmBoundary (s : State) (q : Nat) : State :=
  let e := takeEffect (·.2.2) (SMap.get s.tmPend q []) s.time.free.toNat
  let s := { s with tmPend := SMap.set s.tmPend q e.2 [] }
  match e.1 with
  | some (shape, pol, _) => { s with tmShapeEn := s.tmShapeEn.set q shape, tmPolEn := s.tmPolEn.set q pol }
  | none => s

/-- REFILL_BOUNDARY: the boundary of all four quadrants. (DEDUCED, log 43, unsafe) -/
def execRefillBoundary (s : State) : Res :=
  if !s.live then done s
  else
    let now := s.time.free.toNat
    let polWas := s.tmPolEn
    let s := (List.range 4).foldl (fun (s : State) q => s.tmBoundary q) s
    let s := s.queues.foldl (fun (s : State) x => s.shaperBoundary (x.1 / 8) (x.1 % 8)) s
    let pol (x : Nat × PolSt) : Nat × PolSt :=
      (x.1, polBoundary (nthD polWas (x.1 / 2048) true) (nthD s.tmPolEn (x.1 / 2048) true) now x.2)
    let s := { s with pols := (s.pols.map pol).filter fun x => x.2 ≠ ({} : PolSt) }
    let s := { s with queues := SMap.mapVals s.queues {} s.sampleQueue }
    let s := (List.range 4).foldl (fun (s : State) q =>
      if nthD s.sampleWin q 1 * 1000 ≤ now - nthD s.sampleStart q 0 then s.sampleEnd q else s) s
    let s := { s with queues := s.queues.filter fun x => x.2 ≠ ({} : QueueSt) }.tapBoundary
    done (if s.bwWin * 1000 ≤ now - s.bwStart then s.bandwidthEnd else s)

/-! ### Scheduled launches (R310, R311) -/

/-- The launch of port p whose time comes first. -/
def State.nextLaunch (s : State) (p : Nat) : Option Launch :=
  (s.launches.filter (·.port = p)).foldl (fun (b : Option Launch) l =>
    match b with | none => some l | some m => if l.t < m.t then some l else b) none

/-- LAUNCH_TIME: device time reaches the time of port p's first pending launch. (DEDUCED, log 60, unsafe) -/
def execLaunchTime (p : Port) (s : State) : Res :=
  match s.nextLaunch p.toNat with
  | none => done s
  | some l =>
    let pn := p.toNat
    let x := s.port pn
    let q := pn / 256
    let ovdu := s.isOvdu q l.bytes
    let f := if ovdu then setDl l.bytes (s.dlOut pn (s.tcClass q (oTc l.bytes)) (oDl l.bytes)) else l.bytes
    let vc := s.outVc pn l.bytes
    if !x.up || !s.txAllowed pn || !x.widthPend.isEmpty || !x.widthAt.isEmpty || !x.widthIn.isEmpty then done (s.launchMissed l 1)
    else if !s.creditsFor pn vc (frameCells l.bytes) then done (s.launchMissed l 2)
    else
      let s := { s with launches := s.launches.filter (· ≠ l) }
      let s := ((s.wireSend pn vc f true true 0xFF).watch 1 pn f ovdu true 0xFF 0).depart q l.bytes
      done (s.complete l.cmd .success (leBytes 8 ((s.stampAt pn true).1 / 2 ^ 32)))

end Sys2Proof.Machine
end

