-- ==== Sys2Proof/Machine/Floor.lean ====
section
/-! DEFINITION. The rows of the floor (R104 to R116): open cells, the two stages, the crossbar, resequencing and lost cells. -/
namespace Sys2Proof.Machine

/-- PACK_WAIT_EXPIRY: a frame ended in the open cell of the stream and no new one began (R104). (DEDUCED, log 41, safe) -/
def execPackWaitExpiry (st : StreamId) (s : State) : Res :=
  if !s.live then done s else
  done (if (s.stream st).endedAt.isSome then s.flushOpen st else s)

/-- STAGE1_SLOT: the slot of group g of quadrant q in the present cycle (R105, R107, R108, R364). (DEDUCED, log 41, safe) -/
def execStage1Slot (q : Quad) (g : Group) (s : State) : Res :=
  if !s.live then done s else
  let x := q.toNat
  let t := s.time.core
  let y := (x + slotOffset g.toNat t) % 4
  if !hasSlot g.toNat t || y = x || s.dirDown x y || s.slotTaken x g.toNat then done s
  else
    match s.s1q x g.toNat y with
    | [] => done s
    | c :: rest =>
      -- a poisoned cell, or one that fails TCHK, is discarded instead of being sent (R114, R364)
      if c.poisoned || !tagOk c then done ((s.setS1q x g.toNat y rest).noteLost c) else
      -- in even cycles stage-2 cells take lanes first
      let claimed := s.lanesTaken x y + (if t % 2 = 0 then (s.s2q x y).length else 0)
      if claimed < (s.lanesAt x y t).length then
        done (((s.setS1q x g.toNat y rest).sendLane x y c).updFloor x fun f => { f with slotUsed := f.slotUsed ++ [g.toNat] })
      else done s

/-- STAGE2_LANE_START: a lane of direction x to y starts a stage-2 cell (R108, R109, R364). (DEDUCED, log 41, safe) -/
def execStage2LaneStart (x y : Quad) (s : State) : Res :=
  if !s.live then done s else
  let xn := x.toNat
  let yn := y.toNat
  let t := s.time.core
  if xn = yn || s.dirDown xn yn then done s
  else
    match s.s2q xn yn with
    | [] => done s
    | c :: rest =>
      if c.poisoned || !tagOk c then done ((s.setS2q xn yn rest).noteLost c) else
      -- in odd cycles stage-1 cells take lanes first
      let claimed := s.lanesTaken xn yn + (if t % 2 = 1 then s.s1Ready xn yn t else 0)
      if claimed < (s.lanesAt xn yn t).length then done ((s.setS2q xn yn rest).sendLane xn yn c) else done s

/-- CROSSBAR_JOIN: lane s of quadrant q meets port group (s + t) mod 64 (R111). (DEDUCED, log 41, safe) -/
def execCrossbarJoin (q : Quad) (lane : Group) (s : State) : Res :=
  if !s.live then done s else
  let s := s.settleArrivals
  let g := (lane.toNat + s.time.core) % 64
  let key := (q.toNat * 64 + lane.toNat) * 64 + g
  match SMap.get s.lanesIn key [] with
  | [] => done s
  | c :: rest => done ({ s with lanesIn := SMap.set s.lanesIn key rest [] }.toReseq c)

/-! ### Resequencing (R112 to R116) -/

def State.updFlying (s : State) (fid : Nat) (f : Flying → Flying) : State :=
  match SMap.find s.flying fid with
  | some x => { s with flying := SMap.put s.flying fid (f x) }
  | none => s

/-- A frame gives back the room it holds for queue f.queue of port p, and has left. -/
def State.dropFlown (s : State) (f : Flying) (p : Nat) : State :=
  let s := s.updQueue p f.queue fun q => { q with depth := q.depth - f.cells }
  (s.updFloor (p / 256) fun x => { x with used := x.used - f.cells }).depart (p / 256) f.ctx.bytes

/-- A piece of a unicast frame is released at its output group: the frame joins its queue with its last cell, or, cut through,
with its CT_START-th (R112, R116). One that a poisoned cell has touched (`bad`) is dropped and counted, or, queued already, ends
with an inverted FCS (R364). -/
def State.unicastFrag (s : State) (f : Flying) (p : Nat) (last bad : Bool) : State :=
  let fid := f.ctx.fid
  let n := f.released + 1
  let have_ := if last then f.cells else min n (f.cells - 1)
  let s := if last then { s with flying := SMap.erase s.flying fid } else s.updFlying fid fun x => { x with released := n }
  if f.dropped then s
  else if f.queued then
    let mine (e : QEntry) : Bool := e.fid = fid && !e.group
    s.updQueue p f.queue fun q =>
      { q with entries := updWhere q.entries mine fun e => { e with released := have_, faulty := e.faulty || bad } }
  else if bad then (if last then (s.poisonCount p f.queue f.ctx.bytes f.ctx.src).dropFlown f p else s)
  else if last || (f.cut && s.rf .flrCtrl [p / 256] 1 6 ≤ n) then
    (s.updFlying fid fun x => { x with queued := true }).enqueue p f.queue (flyingEntry f have_)
  else s

/-- Taps a frame that the floor has lost: at its output port, or where it has none at its ingress port; no counter of a port
counts it (R114, R407). (DEDUCED, log 77, safe) -/
def State.watchLost (s : State) (f : Flying) : State :=
  let see (p n : Nat) : State := s.watch 2 p f.ctx.bytes (s.isOvdu (p / 256) f.ctx.bytes) (isService f.ctx.src) n 0
  match f.target, f.ctx.src with
  | .unicast _ p, _ => see p f.queue
  | _, .port p => see p.toNat 0xFF
  | _, .service _ => s

/-- One piece of a frame is released at the end of stream st. -/
def State.releaseFrag (s : State) (st : StreamId) (g : Frag) : State :=
  if (s.reseqOf st).skip.contains g.fid then
    (if g.last then s.updReseq st fun r => { r with skip := r.skip.filter (· ≠ g.fid) } else s)
  else
    let bad := (s.reseqOf st).bad.contains g.fid
    let s := if g.last then s.updReseq st fun r => { r with bad := r.bad.filter (· ≠ g.fid) } else s
    match SMap.find s.flying g.fid with
    | none => s
    | some f =>
      match f.target with
      | .unicast _ p => s.unicastFrag f p g.last bad
      | .copies cs =>
        if !g.last then s
        else
          let y := streamTo st
          let c : FrameCtx := { f.ctx with poison := (if bad then some 1 else none) }
          s.updFloor y fun x => { x with repl := x.repl ++ [{ ctx := c, copies := cs.filter fun c => c.sheaf / 256 = y }] }
      | _ =>
        if !g.last then s
        else
          let s := { s with flying := SMap.erase s.flying g.fid }
          if bad then ((s.watchLost f).freeIngress f.ctx).depart (eidDie (oDst f.ctx.bytes)) f.ctx.bytes else s.handOver f.ctx f.target

/-- Releases the expected cell of a stream while it is there (R112). -/
def State.releaseRun (st : StreamId) : Nat → State → State
  | 0, s => s
  | k + 1, s =>
    let r := s.reseqOf st
    match r.cells.find? (·.cseq = r.expect) with
    | none => s
    | some c =>
      let rest := r.cells.filter (·.cseq ≠ r.expect)
      let s := s.updReseq st fun r =>
        { r with expect := r.expect + 1, cells := rest, missingAt := if rest.isEmpty then none else r.missingAt,
                 lost := r.lost.filter (·.1 ≠ c.cseq), bad := if c.poisoned then r.bad ++ c.frags.map (·.fid) else r.bad }
      let s := c.frags.foldl (fun (s : State) g => s.releaseFrag st g) s
      State.releaseRun st k (s.report st)

/-- CELL_RESEQUENCE: the end of stream st releases its cells in order. (DEDUCED, log 41, safe) -/
def execCellResequence (st : StreamId) (s : State) : Res := if !s.live then done s else done (State.releaseRun st ((s.reseqOf st).cells.length) s)

/-- The frames a missing cell holds: noted when it was discarded, or read from where the cell still is. -/
def State.missingFrames (s : State) (st : StreamId) : List Nat :=
  let r := s.reseqOf st
  let is (c : Cell) : Bool := decide (c.st = st) && c.cseq = r.expect
  match r.lost.find? (·.1 = r.expect) with
  | some x => x.2
  | none =>
    let flits : List Cell := s.bundles.flatMap fun b => (b.2.flight ++ b.2.kept).filterMap fun (f : FlitSt) =>
      match f.body with | .cell c => some c | _ => none
    let cells : List Cell := s.s1.flatMap (·.2) ++ s.s2.flatMap (·.2) ++ s.lanesIn.flatMap (·.2) ++ s.arriving.map (·.2.2) ++ flits
    match cells.find? is with
    | some c => c.frags.map fun (f : Frag) => f.fid
    | none => []

/-- Drops a frame with a lost cell of stream st (R114). -/
def State.loseFrame (s : State) (st : StreamId) (fid : Nat) : State :=
  match SMap.find s.flying fid with
  | none => s
  | some f =>
    match f.target with
    | .unicast _ p =>
      let s := { s with flying := SMap.erase s.flying fid }
      if f.dropped then s
      else
        let s := s.watchLost f
        match (s.queue p f.queue).entries.find? fun e => e.fid = fid && !e.group with
        | some e => (s.leaveQueue p f.queue e).departEntry (p / 256) e
        | none =>
          if f.queued then s
          else s.dropFlown f p
    | .copies _ =>
      let s := ((s.watchLost f).updReseq st fun r => { r with skip := r.skip ++ [fid] }).depart (streamTo st) f.ctx.bytes
      if f.quads ≤ 1 then ({ s with flying := SMap.erase s.flying fid }.freeIngress f.ctx).pitchCopyGone fid
      else s.updFlying fid fun x => { x with quads := x.quads - 1 }
    | _ => ({ s with flying := SMap.erase s.flying fid }.watchLost f |>.freeIngress f.ctx).depart (eidDie (oDst f.ctx.bytes)) f.ctx.bytes

/-- CELL_LOSS_TIMEOUT: the expected cell of stream st has been missing for 500 µs while later cells wait (R114).
(DEDUCED, log 41, safe) -/
def execCellLossTimeout (st : StreamId) (s : State) : Res :=
  if !s.live then done s else
  let r := s.reseqOf st
  if r.missingAt.isNone || r.cells.any (·.cseq = r.expect) then done s
  else
    let y := streamTo st
    let fids := s.missingFrames st
    let s := s.updReseq st fun r => { r with expect := r.expect + 1, lost := r.lost.filter (·.1 ≠ r.expect) }
    let s := (s.countQuad y 42).errorAt 0x03 sevContained (BitVec.ofNat 8 y)
      [(32, [1]), (36, leBytes 4 (streamTag st)), (40, leBytes 4 1)]
    let s := fids.foldl (fun (s : State) fid => s.loseFrame st fid) s
    done (State.releaseRun st ((s.reseqOf st).cells.length) (s.report st))

end Sys2Proof.Machine
end

