-- ==== Sys2Proof/Machine/D2d.lean ====
section
/-! DEFINITION. Die-to-die links (R273 to R290) and the test access port (R291, R292): flits and their checks, retry, wire
maps, quiet points and training. A direction runs from sending quadrant x to receiving quadrant y. -/
namespace Sys2Proof.Machine

/-! ### Flits (R275, R276) -/

/-- The bits a flit's checks run over: valid-word bits [63:8], then the data, each lowest bit first.
(DEDUCED, log 46, unsafe) -/
def flitBits (w : WireFlit) : List Bool :=
  bitsLow 56 (w.valid.toNat / 256) ++ (padTo 256 (w.data.take 256)).flatMap fun b => bitsLow 8 b.toNat
/-- LCHK of a flit (R275). (DEDUCED, log 46, unsafe) -/
def flitLchk (w : WireFlit) : Nat := crcBits 8 0x07 0xFF (flitBits w)
/-- CHK64 of a flit (R276). (DEDUCED, log 46, unsafe) -/
def flitChk64 (w : WireFlit) : Nat := crcBits 64 0x42F0E1EBA9EA3693 Config.chk64Init.toNat (flitBits w)
/-- FTYPE bits [10:8], and REPLAY. -/
def flitType (w : WireFlit) : Nat := fld w.valid.toNat 8 3
def flitReplay (w : WireFlit) : Bool := bit w.valid.toNat 11
/-- The flit fails: LCHK, CHK64 on a checked bundle, or a reserved type. (DEDUCED, log 46, unsafe) -/
def flitFails (checked : Bool) (w : WireFlit) : Bool :=
  fld w.valid.toNat 0 8 ≠ flitLchk w || 5 ≤ flitType w || (checked && w.chk64.toNat ≠ flitChk64 w)

/-! ### What a flit carries on the wire (R275) -/

/-- FTYPE of a flit: its type, and REPLAY. -/
def flitCode (f : FlitSt) : Nat :=
  (match f.body with | .cell _ => 1 | .message .. => 2 | .retry .. => 3) + 8 * b2n f.replay
/-- Bits [63:12] of a flit's valid word. -/
def flitHead (f : FlitSt) : Nat :=
  match f.body with
  | .cell c => tagNow c / 2 ^ 12
  | .message m ms => m.toNat * 2 ^ 36 + ms.length % 256 * 2 ^ 28
  | .retry b slot => slot % 2 ^ 12 * 2 ^ 40 + b % 2 ^ 6 * 2 ^ 34
/-- The flit as it goes on the bundle: FTYPE and LCHK in the valid word, LCHK and CHK64 over the word and the data, which are the
bytes of the cell or of the messages and which the manual does not lay out (R275, R276). (DEDUCED, log 46, unsafe) -/
def wireOf (f : FlitSt) (data : List Byte) : WireFlit :=
  let w : WireFlit := { valid := BitVec.ofNat 64 (flitHead f * 2 ^ 12 + flitCode f * 2 ^ 8), data, chk64 := 0 }
  { w with valid := BitVec.ofNat 64 (flitHead f * 2 ^ 12 + flitCode f * 2 ^ 8 + flitLchk w), chk64 := BitVec.ofNat 64 (flitChk64 w) }

/-- The bundle carries flits. -/
def carries (b : BundleSt) : Bool := (b.width = 1 || b.width = 2) && !b.inReset

/-- Saturating 16-bit count. -/
def sat16 (n : Nat) : Nat := satTo 65535 n

/-- The flit that a slot carried is discarded: the oldest on its way, unless that is the replay which is asked for, or the slot
carried an Empty flit. (DEDUCED, log 47, safe) -/
def State.discardFlit (s : State) (x y b : Nat) (empty : Bool) : State :=
  let s := s.updBundle x y b fun z => { z with lostSlots := z.lostSlots + 1 }
  match (s.bundle x y b).flight with
  | [] => s
  | f :: rest =>
    if empty || f.replay then s
    else
      let s := s.updBundle x y b fun z => { z with flight := rest }
      match f.body with | .cell c => s.noteLost c | _ => s

/-- The cells on their way over bundle b of direction x to y are gone, and noted at the ends of their streams (R114). -/
def State.loseFlight (s : State) (x y b : Nat) : State :=
  let z := s.bundle x y b
  z.flight.foldl (fun (s : State) f => match f.body with | .cell c => s.noteLost c | _ => s)
    (s.updBundle x y b fun z => { z with flight := [], kept := [] })

/-- Quadrant y applies a message of quadrant x (R278). -/
def State.takeMsg (s : State) (x y : Nat) (m : XMsg) : State :=
  match m with
  | .request key => s.answerHome y x key
  | .table t => s.setChan x y (s.chanOf x y ++ [t])
  | .learn r => s.learnArrive y r
  | .refresh key => s.updTable y fun t => { t with refresh := t.refresh ++ [key] }
  | .rearm key => s.cacheRearm y key
  | .hold h => s.updFloor y fun f => { f with seen := f.seen.set x h }
  | .progress l => l.foldl (fun (s : State) p => (List.range p.2).foldl (fun (s : State) _ => s.progress p.1) s) s
  | .notice => s

/-- Quadrant y applies the messages of one flit, in order. -/
def State.takeMsgs (s : State) (x y : Nat) (ms : List XMsg) : State := ms.foldl (fun (s : State) m => s.takeMsg x y m) s

/-- The message flits that came early and are now next in order are applied. -/
def State.takeEarly (x y : Nat) : Nat → State → State
  | 0, s => s
  | n + 1, s =>
    let d := s.dir x y
    match d.early.find? (·.1 = d.mseqExpect) with
    | none => s
    | some e =>
      State.takeEarly x y n ((s.updDir x y fun d =>
        { d with mseqExpect := d.mseqExpect + 1, early := d.early.filter (·.1 ≠ e.1) }).takeMsgs x y e.2)

/-- A message flit with number m arrives with its messages: they are applied in MSEQ order (R278, R280). -/
def State.msgArrive (s : State) (x y : Nat) (m : W16) (ms : List XMsg) : State :=
  let d := s.dir x y
  if m = d.mseqExpect then
    let s := (s.updDir x y fun d => { d with mseqExpect := d.mseqExpect + 1 }).takeMsgs x y ms
    (State.takeEarly x y d.early.length s).updDir x y fun d => { d with gapAt := if d.early.isEmpty then none else d.gapAt }
  else if (m - d.mseqExpect).toNat < 32768 && !d.early.any (·.1 = m) then
    s.updDir x y fun d => { d with early := d.early ++ [(m, ms)], gapAt := d.gapAt.or (some s.time.core) }
  else s

/-- The sender of direction x to y, bundle b, has a flit on its way: it is taken off. -/
def State.landFlit (s : State) (x y b : Nat) : State := s.updBundle x y b fun z => { z with flight := z.flight.drop 1 }

/-- The sender of bundle b of direction x to y replays every slot from one that it still holds, in order and ahead of new flits, the
slots of Empty flits too: they take the bundle's next slots, and are kept again from there (R279). -/
def State.replayFrom (s : State) (x y b slot : Nat) : State :=
  let z := s.bundle x y b
  let now := s.time.core
  let after (k : Nat) : Nat := (k + 4096 - slot) % 4096
  let n := slotLen z
  let first := (now + n) - (now + n + n - b % n) % n
  -- the last slot that has been started, or that a replay under way will take
  let count := after (slotAt b z (max now (z.busyUntil - 1))) + 1
  let again := ((keptNow now z.kept).filter fun f => after f.slot < count).map fun f =>
    { f with replay := true, sentAt := first + n * after f.slot, slot := slotAt b z (first + n * after f.slot) }
  s.updBundle x y b fun z =>
    { z with flight := z.flight.filter (!·.replay) ++ again, kept := (keptNow now z.kept).filter (·.sentAt ≤ now) ++ again,
             busyUntil := first + n * count }

/-- The sender of bundle b of direction x to y still holds a slot: it started no more than 1,024 cycles ago (R279, R280). A slot
from before the last quiet point is held while its flit is. -/
def State.heldSlot (s : State) (x y b slot : Nat) : Bool :=
  let z := s.bundle x y b
  let back := (s.slotNow b z + 4096 - slot) % 4096
  !z.quiet && ((decide (back < slotsBy b z s.time.core - z.slotBase) && decide (back * slotLen z ≤ 1024)) ||
    (keptNow s.time.core z.kept).any (·.slot = slot))

/-- The receiver gives up on a replay: it resumes at the next good flit, and the lost slots are counted and recorded (R280). -/
def State.slotsLost (s : State) (x y b : Nat) : State :=
  let n := max 1 (s.bundle x y b).lostSlots
  let s := s.updBundle x y b fun z => { z with await := none, lostSlots := 0 }
  (s.count (1024 + y) 43 n).errorAt 0x04 sevContained (BitVec.ofNat 8 y)
    [(32, [1]), (33, leBytes 1 x), (34, leBytes 1 b), (36, leBytes 4 n)]

/-- A request for a slot of bundle b of direction x to y reaches its sender: it replays from there, or, where it no longer holds
the slot, the receiver resumes without (R279, R280). -/
def State.replayAsked (s : State) (x y b slot : Nat) : State :=
  if s.heldSlot x y b slot then s.replayFrom x y b slot
  else if (s.bundle x y b).await.isSome then s.slotsLost x y b
  else s

/-- A good flit is delivered: a cell, with the tag that its valid word carries, to stage 2 or the crossbar; as many messages as it
counts, in the order of its MSEQ; a retry request to the sender of the reverse direction (R275, R278, R279).
(DEDUCED, log 47, safe) -/
def State.deliverFlit (s : State) (x y b : Nat) (w : WireFlit) : State :=
  let v := w.valid.toNat
  if flitType w = 1 then
    match (s.bundle x y b).flight with
    | [] => s
    | f :: _ =>
      match f.body with
      | .cell c => match cellOf v c with | some d => (s.landFlit x y b).toStage2 x y d | none => s.landFlit x y b
      | _ => s
  else if flitType w = 2 then
    let ms := match (s.bundle x y b).flight with
      | f :: _ => (match f.body with | .message _ ms => ms.take (fld v 40 8) | _ => [])
      | [] => []
    ((s.landFlit x y b).msgArrive x y (BitVec.ofNat 16 (fld v 48 16)) ms).tblSettle
  else if flitType w = 3 then (s.landFlit x y b).replayAsked y x (fld v 46 6) (fld v 52 12)
  else s

/-- FLIT_RECEIVE: the flit of a slot of bundle b (R275, R276, R279). (DEDUCED, log 47, safe) -/
def execFlitReceive (x y : Quad) (b : BitVec 6) (w : WireFlit) (s : State) : Res :=
  let (xn, yn, bn) := (x.toNat, y.toNat, b.toNat)
  let z := s.bundle xn yn bn
  if xn = yn || !s.live || !carries z then done s
  else
    let bad := flitFails z.checked w
    match z.await with
    | some _ =>
      if !bad && flitReplay w then
        done ((s.updBundle xn yn bn fun z =>
          { z with await := none, lostSlots := 0, flight := z.flight.dropWhile (!·.replay) }).deliverFlit xn yn bn w)
      else done ((s.discardFlit xn yn bn (!bad && flitType w = 0)).updBundle xn yn bn fun z => { z with fails := z.fails + b2n bad })
    | none =>
      if !bad then done (s.deliverFlit xn yn bn w)
      else
        let slot := match z.flight with | [] => s.slotNow bn z | f :: _ => f.slot
        let s := s.discardFlit xn yn bn false
        done ((s.updBundle xn yn bn fun z =>
          { z with fails := z.fails + 1, await := some (slot, s.time.core), replays := sat16 (z.replays + 1) }).updDir yn xn fun d =>
            { d with outRetry := d.outRetry ++ [(bn, slot)] })

/-- D2D_RETRY_REQUEST: the sender replays from the named slot, in order and ahead of new flits, if it still holds it (R279,
R280). (DEDUCED, log 47, safe) -/
def execD2dRetryRequest (x y : Quad) (b : BitVec 6) (slot : BitVec 12) (s : State) : Res :=
  let (xn, yn, bn) := (x.toNat, y.toNat, b.toNat)
  if xn = yn || !s.live || !carries (s.bundle xn yn bn) then done s else done (s.replayAsked xn yn bn slot.toNat)

/-- D2D_RETRY_REPEAT: 128 cycles without a replay, the request goes out again (R279). (DEDUCED, log 47, safe) -/
def execD2dRetryRepeat (x y : Quad) (b : BitVec 6) (s : State) : Res :=
  let (xn, yn, bn) := (x.toNat, y.toNat, b.toNat)
  if !s.live then done s else
  match (s.bundle xn yn bn).await with
  | none => done s
  | some (slot, _) =>
    done ((s.updBundle xn yn bn fun z => { z with await := some (slot, s.time.core), replays := sat16 (z.replays + 1) }).updDir
      yn xn fun d => { d with outRetry := d.outRetry ++ [(bn, slot)] })

/-- D2D_REPLAY_WINDOW_EXPIRY: the window passes without a replay (R280). (DEDUCED, log 47, safe) -/
def execD2dReplayWindowExpiry (x y : Quad) (b : BitVec 6) (s : State) : Res :=
  done (if s.live && (s.bundle x.toNat y.toNat b.toNat).await.isSome then s.slotsLost x.toNat y.toNat b.toNat else s)

/-- MSEQ_GAP_TIMEOUT: a gap in the messages of x to y is not filled within 2 µs (R280). -/
def execMseqGapTimeout (x y : Quad) (s : State) : Res :=
  let (xn, yn) := (x.toNat, y.toNat)
  let d := s.dir xn yn
  if !s.live || d.gapAt.isNone then done s
  else
    let next := d.early.foldl (fun (m : W16) e => if (e.1 - d.mseqExpect).toNat < (m - d.mseqExpect).toNat then e.1 else m)
      (d.mseqExpect - 1)
    let s := (s.cacheClear yn).updDir xn yn fun d => { d with mseqExpect := next }
    let s := ((State.takeEarly xn yn d.early.length s).updDir xn yn fun d =>
      { d with gapAt := if d.early.isEmpty then none else some s.time.core }).tblSettle
    done (s.errorAt 0x04 sevContained (BitVec.ofNat 8 yn) [(32, [2]), (33, leBytes 1 xn)])

/-! ### Widths, quiet points, training (R281 to R290) -/

/-- Working wires. -/
def workCount (w : BitVec 34) : Nat := popcount w.toNat 34
/-- WIDTH that a working vector gives (R281). -/
def widthFor (w : BitVec 34) : Nat := if 32 ≤ workCount w then 2 else if 16 ≤ workCount w then 1 else 0
/-- Working wires, ascending. -/
def workWires (w : BitVec 34) : List Nat := (List.range 34).filter w.getLsbD
/-- Data positions that a width sends (R281). -/
def dataCount (width : Nat) : Nat := if width = 2 then 32 else if width = 1 then 16 else 0
/-- The wire map: the wire of data position d (R281). -/
def dataWire (width : Nat) (w : BitVec 34) (d : Nat) : Option Nat := if d < dataCount width then (workWires w)[d]? else none
/-- The check wire: the lowest working wire without a data position (R276). (DEDUCED, log 48, unsafe) -/
def checkWire (width : Nat) (w : BitVec 34) : Option Nat := if width = 0 then none else (workWires w)[dataCount width]?
/-- The further free wires, which carry PRBS31 (R276). -/
def prbsWires (width : Nat) (w : BitVec 34) : List Nat := if width = 0 then [] else (workWires w).drop (dataCount width + 1)
/-- The width carries a check wire (R276). (DEDUCED, log 48, unsafe) -/
def checkedAt (width : Nat) (w : BitVec 34) : Bool := (checkWire width w).isSome

/-- WIDTH as D2D_BND shows it. -/
def shownWidth (b : BundleSt) : Nat := if b.quiet || b.inReset then 3 else b.width

/-- A D2D event (R333). -/
def State.d2dEvent (s : State) (x y b : Nat) (flags wire : Nat) : State :=
  s.event 0x07 [(16, leBytes 1 x), (17, leBytes 1 y), (18, leBytes 1 b), (19, leBytes 1 (shownWidth (s.bundle x y b))),
    (20, leBytes 1 flags), (21, leBytes 1 wire)]

/-- Starts a quiet point, or queues it behind the direction's present one (R285). (DEDUCED, log 48, unsafe) -/
def State.startQuiet (s : State) (x y b : Nat) : State :=
  if (s.bundle x y b).quiet || (s.bundle x y b).quietWait.isSome then s
  else if (List.range 64).any fun k => (s.bundle x y k).quiet then
    s.updBundle x y b fun z => { z with quietWait := some s.time.core }
  else s.updBundle x y b fun z =>
    { z with quiet := true, quiets := sat16 (z.quiets + 1), slotBase := slotsBy b z s.time.core % 4096 }

/-- The oldest waiting quiet point of a direction starts, where none runs. (DEDUCED, log 48, unsafe) -/
def State.nextQuiet (s : State) (x y : Nat) : State :=
  if (List.range 64).any fun k => (s.bundle x y k).quiet then s else
  let waiting := (List.range 64).filter fun k => (s.bundle x y k).quietWait.isSome
  match waiting with
  | [] => s
  | k0 :: rest =>
    let at_ (k : Nat) : Nat := ((s.bundle x y k).quietWait).getD 0
    let k := rest.foldl (fun b k => if at_ k < at_ b then k else b) k0
    (s.updBundle x y k fun z => { z with quietWait := none }).startQuiet x y k

/-- Lowest set bit of a vector, 34 for none. -/
def lowestWire (w : BitVec 34) : Nat := ((List.range 34).find? w.getLsbD).getD 34

/-- MARGIN_SAMPLE: the eye widths measured on the wires of bundle b, forwarded clock and valid wire behind them (R284).
(DEDUCED, log 48, unsafe) -/
def execMarginSample (x y : Quad) (b : BitVec 6) (widths : List (BitVec 6)) (s : State) : Res :=
  let (xn, yn, bn) := (x.toNat, y.toNat, b.toNat)
  let z := s.bundle xn yn bn
  let least := s.rf .d2dCtrl [yn] 8 6
  let low (i : Nat) : Bool := match widths[i]? with | some v => v.toNat < least | none => false
  let fail : BitVec 34 := BitVec.ofNat 34 (((List.range 34).filter fun i => z.work.getLsbD i && low i).map fun i => 2 ^ i).sum
  if xn = yn || !s.live || !carries z || (fail = 0 && !low 34 && !low 35) then done s
  else if s.rb .d2dCtrl [yn] 0 then
    done ((s.updBundle xn yn bn fun z => { z with badWires := z.badWires ||| fail }).startQuiet xn yn bn)
  else done (s.d2dEvent xn yn bn 2 (lowestWire fail))

/-- FLIT_ERROR_WINDOW: the end of a millisecond of failed flits (R284, R287). (DEDUCED, log 48, unsafe) -/
def execFlitErrorWindow (x y : Quad) (b : BitVec 6) (s : State) : Res :=
  let (xn, yn, bn) := (x.toNat, y.toNat, b.toNat)
  let z := s.bundle xn yn bn
  let tooMany := max 1 (s.rf .d2dCtrl [yn] 16 16) < z.fails
  if !s.live then done s else
  let s := s.updBundle xn yn bn fun z => { z with fails := 0 }
  if xn = yn || !carries z || z.quiet || !tooMany then done s
  else
    let soon := s.time.core ≤ z.lastQuiet + 20000000
    if 3 ≤ z.noBad && soon then
      let s := s.updBundle xn yn bn fun z => { z with width := 0, checked := false, quietWait := none }
      let s := (s.d2dEvent xn yn bn 4 0).errorAt 0x04 sevContained (BitVec.ofNat 8 yn) [(32, [3]), (33, leBytes 1 xn), (34, leBytes 1 bn)]
      done s.reweight
    else
      let s := if soon then s else s.updBundle xn yn bn fun z => { z with noBad := 0 }
      done (s.startQuiet xn yn bn)

/-- QUIET_POINT_END: what the wires showed, and the map that follows (R281, R285 to R288). (DEDUCED, log 48, unsafe) -/
def execQuietPointEnd (x y : Quad) (b : BitVec 6) (o : WireObs) (s : State) : Res :=
  let (xn, yn, bn) := (x.toNat, y.toNat, b.toNat)
  let z := s.bundle xn yn bn
  if !s.live || !z.quiet then done s
  else
    let swap := s.rb .d2dCtrl [yn] 0
    let found := z.work &&& (~~~o.work ||| z.badWires)
    let dead := !o.clockOk || !o.validOk
    let work := if swap then z.work &&& ~~~found else z.work
    let full := widthFor work
    let width := if dead then 0 else if !swap then z.width else if full = 2 && workCount work = 32 && s.rb .d2dCtrl [yn] 1 then 1 else full
    let checked := checkedAt width work
    let s := s.updBundle xn yn bn fun z =>
      { z with work := work, width := width, checked := checked, quiet := false, badWires := 0, lastQuiet := s.time.core,
               slotFrom := s.time.core + 1,
               noBad := if found = 0 && !dead then z.noBad + 1 else 0 }
    let tell := width ≠ z.width || (z.checked && !checked) || (!swap && found ≠ 0)
    let flags := b2n (width ≠ 0 && !checked) + 2 * b2n (!swap && found ≠ 0)
    let s := if tell then s.d2dEvent xn yn bn flags (lowestWire found) else s
    let s := if width ≠ z.width then s.reweight else s
    done (s.nextQuiet xn yn)

/-- Bad wires that the receiving quadrant's fuses mark on bundle b of direction x to y (R282). -/
def State.fusedBad (s : State) (x y b : Nat) : BitVec 34 := SMap.get s.sec.fuses.badWires ((4 * x + y) * 64 + b) 0

/-- The vector both dies adopt: what the receiver's wires showed, less the wires its fuses mark, in the intersection with the
vector of a die that kept running (R283, R289). -/
def State.trainVector (s : State) (x y b : Nat) (seen : BitVec 34) : BitVec 34 :=
  let v := seen &&& ~~~(s.fusedBad x y b)
  match (s.bundle x y b).inService with | some w => v &&& w | none => v

/-- The dies' reset stands, or its release has not come to the training of bundles, or the quadrants are held without power (R348,
R283, R361). -/
def State.beforeTraining (s : State) : Bool := (s.rst.reach.isSome && s.rst.step < 9) || (s.rst.reach.isNone && s.pwr.state ≠ 0)

/-- BUNDLE_TRAINING_COMPLETE: the vector adopted, or the bundle retired (R281, R283, R289). (DEDUCED, log 48, unsafe) -/
def execBundleTrainingComplete (x y : Quad) (b : BitVec 6) (o : BundleTrain) (s : State) : Res :=
  let (xn, yn, bn) := (x.toNat, y.toNat, b.toNat)
  let z := s.bundle xn yn bn
  if xn = yn || !(z.width = 3 || z.inReset) || s.beforeTraining then done s
  else
    let work := s.trainVector xn yn bn o.work
    let width := if !o.clockOk || !o.validOk || o.tries = 3 then 0 else widthFor work
    let s := (s.loseFlight xn yn bn).updBundle xn yn bn fun z =>
      { z with width := width, work := work, checked := checkedAt width work, fused := s.fusedBad xn yn bn ≠ 0, tries := o.tries,
               trainedAt := s.time.core, slotBase := 0, slotFrom := s.time.core + 1, busyUntil := 0, inService := none,
               flight := [], kept := [], await := none, lostSlots := 0, fails := 0, quiet := false,
               quietWait := none, noBad := 0, badWires := 0 }
    done (if s.coreHeld || z.inReset then s else s.reweight fun x' y' => x' = xn && y' = yn)

/-! ### Test access (R282, R291, R292, R339) -/

/-- IDENT_IDCODE: VERSION is loaded from the fuses at step 2 of a power-on release. -/
def State.idcode (s : State) : W32 :=
  let loaded := !(s.rst.reach = some .powerOn && s.rst.step ≤ 2)
  BitVec.ofNat 32 ((if loaded then Config.version.toNat else 0) * 2 ^ 28 + 0x6A4776F)

/-- The two lowest bits set of a vector: fuses hold at most two bad wires of a bundle direction (R282). -/
def firstTwo (w : BitVec 34) : BitVec 34 := BitVec.ofNat 34 (((workWires w).take 2).map fun i => 2 ^ i).sum

/-- The wire measurement of assembly test: the wires found bad on every bundle direction whose receiving quadrant the open chain
reaches go into that quadrant's fuses, which are never written again (R282, R291). (DESIGN CHOICE, log 81, safe) -/
def State.measureWires (s : State) : State :=
  let f := s.sec.fuses
  if f.wiresWritten then s
  else
    let keys := (List.range 1024).filter fun k => k / 256 ≠ k / 64 % 4 && !bit f.pathClosed.toNat (k / 64 % 4)
    let m := keys.filterMap fun k => let v := firstTwo (Config.wireBad k); if v = 0 then none else some (k, v)
    { s with sec := { s.sec with fuses := { f with badWires := m, wiresWritten := true } } }

/-- The writing of fuses at assembly test: the row map and trim of every array that the open serial paths reach, once. Serial
number, stepping and key hashes are written already, and blowing their fuses again changes nothing (R236, R291, R339, R414).
(DESIGN CHOICE, log 81, safe) -/
def State.writeFuses (s : State) : State :=
  let f := s.sec.fuses
  if f.arraysWritten then s
  else
    let m := (List.range 1024).filterMap fun k =>
      if bit f.pathClosed.toNat (k / 256) then none else (Config.arrayFuse k).map (k, ·)
    { s with sec := { s.sec with fuses := { f with arrays := m, arraysWritten := true } } }

/-- TEST_ACCESS_INSTRUCTION: IDCODE shows the code; a closed chain takes every other code for BYPASS (R292). The open chain of
MANUFACTURE also has the wire measurement of R282, the writing of fuses and that of the certificate (R421), and any other of its
codes selects a register whose content is open (R291). With TRST_N low the port stays in Test-Logic-Reset. (DESIGN CHOICE, log
81, safe) (DESIGN CHOICE, log 81, safe) -/
def execTestAccessInstruction (code : Nat) (s : State) : Res :=
  if !s.pins.trstN then done s
  else if code = Config.tapIdcode then done { s with out := { s.out with testOut := some s.idcode } }
  else if code = Config.tapBypass || s.sec.fuses.chainClosed then done { s with out := { s.out with testOut := none } }
  else
    let r := s.fresh
    let s :=
      if code = Config.tapMeasure then r.2.measureWires
      else if code = Config.tapFuses then r.2.writeFuses
      else if code = Config.tapCertificate then { r.2 with sec := { r.2.sec with hasCert := true } }
      else r.2
    done { s with out := { s.out with testOut := some (r.1.setWidth 32) } }

end Sys2Proof.Machine
end

