-- ==== Sys2Proof/Machine/Receive.lean ====
section
/-! DEFINITION. Frames from the fibre: link retry (R245), the receive checks (R59), policing (R148 to R151), learning (R79),
routing, and the scoreboard's timers (R44, R97, R98). -/
namespace Sys2Proof.Machine

/-! ### Link retry at the receiver (R245, R247) -/

/-- A RETRY_REQ for the LSN the port expects waits to be sent. -/
def State.askRetry (s : State) (p : Nat) : State :=
  s.updPort p fun x => { x with reqPending := true, ctl := x.ctl ++ [.retryReq x.lsnExpect] }

/-- What link retry makes of a data frame on a port with RETRY_ON: the frame goes on to the checks, or is discarded. -/
def State.retryTake (s : State) (p : Nat) (rx : RxFrame) : State × Bool :=
  let x := s.port p
  let lost := !rx.fcsOk || !rx.preOk
  if !lost && rx.lsn = x.lsnExpect then
    (s.updPort p fun x => { x with lsnExpect := x.lsnExpect + 1, lsnSeen := true, reqPending := false }, true)
  else
    let behind := rx.preOk && (rx.lsn - x.lsnExpect).toNat ≥ 32768
    if !behind && (!x.reqPending || rx.replay) then (s.askRetry p, false) else (s, false)

/-- The width change the partner announced falls at a frame it numbers (R251). -/
def State.widthArrives (s : State) (p : Nat) (rx : RxFrame) : State :=
  let due (w : BitVec 8 × W16) : Bool := rx.preOk && (rx.lsn - w.2).toNat < 32768
  match (s.port p).widthIn.filter due with
  | [] => s
  | now => (s.updPort p fun y => { y with widthIn := y.widthIn.filter fun w => !due w }).takeWidth p (now.map (·.1))

/-- The KIND of a link control frame. -/
def linkKind (f : Frame) : Nat := beAt f 15 1
/-- R247 reserves the frame's KIND. (DEDUCED, log 39, unsafe) -/
def linkReserved (f : Frame) : Bool := linkKind f = 0 || 6 < linkKind f

/-! ### Policing (R148 to R151) -/

inductive Colour | green | yellow | red
  deriving DecidableEq, Repr

def Colour.code : Colour → Nat
  | .green => 0 | .yellow => 1 | .red => 2

/-- R149: the marker on a charged length. -/
def mark (x : PolSt) (pre : Bool) (c : Nat) : PolSt × Colour :=
  let b := 1000 * c
  if x.tp < b then (x, .red)
  else if pre || x.tc < b then ({ x with tp := x.tp - b }, .yellow)
  else ({ x with tp := x.tp - b, tc := x.tc - b }, .green)

/-- The policer of a frame's TC at its ingress port. -/
def State.police (s : State) (p : Nat) (f : Frame) : State × Colour :=
  let q := p / 256
  let t := s.frameTc q f
  let x := s.pol p t
  let r : State × Colour :=
    if !(x.cfg.en && nthD s.tmPolEn q true) then (s, .green)
    else
      let dei := !s.isOvdu q f && tagged f && bit (beAt f 14 2) 12
      let pre := x.cfg.aware && (dei || bit (s.rf .tmPcfg (pix p) 17 8) t)
      let m := mark x pre (s.chargedLen p f)
      (s.updPol p t fun _ => m.1, m.2)
  (r.1.countPort p (136 + 3 * t + r.2.code), r.2)

/-! ### Checks (R59) -/

/-- A frame that fails check 1 or 2: counted, its cells freed, no answer; it counts as general class for the tap.
(DEDUCED, log 39, unsafe) -/
def State.dropDamaged (s : State) (c : FrameCtx) (p check : Nat) : State :=
  ((s.countPort p (16 + check)).watch 2 p c.bytes false false 0xFF (0x8000 + 16 + check)).freeIngress c

/-- DA and SA as R28 requires. -/
def addressesOk (f : Frame) : Bool :=
  (if fGroup f then fDa f = 0x030000000000 + oDst f % 65536 else fDa f = 0x020000000000 + oDst f) &&
    fSa f = 0x020000000000 + oSrc f

/-- Checks 4 to 11 of R59 on an Ovdu frame: the check that fails, and its NACK reason and DETAIL. `beyondBy` is the number of cells
beyond the LIMIT last advertised; `whole` is false where only the header has been seen, so that the frame's length is unknown.
(DEDUCED, log 39, unsafe) -/
def State.headerCheck (s : State) (p : Nat) (rx : RxFrame) (beyondBy : Nat) (whole : Bool := true) :
    Option (Nat × Option (Nat × Nat)) :=
  let q := p / 256
  let f := rx.bytes
  if oSrc f = 0 || s.isSvcEid q (oSrc f) then some (4, none)
  else if oDl f && s.isLeaf p then some (5, some (rVcViolation, vcOf (s.tcClass q (oTc f)) true false))
  else if beyondBy ≠ 0 then some (6, some (rCreditOverrun, rx.vc.toNat * 2 ^ 32 + beyondBy))
  else if oVer f ≠ 1 then some (7, some (rBadVersion, oVer f))
  else if !knownOp (oOp f) then some (8, some (rBadOpcode, oOp f))
  else if !(if whole then lenOk f else lenRange f) then some (9, some (rBadLength, oLen f * 2 ^ 32 + (frameLen f - 66)))
  else if !addressesOk f then some (10, some (rAddrMismatch, fDa f))
  else if badDest f then some (11, some (rBadDest, 0))
  else none

/-- Learns the source of a frame that passed checks 1 to 11 (R79, R265). (DEDUCED, log 39, unsafe) -/
def State.learnSource (s : State) (p : Nat) (f : Frame) (ovdu : Bool) : State :=
  match s.sheafOfPort p with
  | none => s
  | some k =>
    if s.fibreLooped (p / 4) then s
    else if ovdu then s.learnFrom p (eidKey (oSrc f)) k
    else if bit (beAt f 6 1) 0 then s
    else s.learnFrom p (macKey (s.genVid p f) (fSa f)) k

/-- Frames below 160 bytes that a quadrant looks up in CLK_CORE cycle t: its share of 71.1 Gframes/s, 711 in 20 cycles (R15). -/
def shortQuota (t : Nat) : Nat := 711 * (t + 1) / 20 - 711 * t / 20

/-- Takes a frame's place in the lookup of its quadrant; false: it is a short frame beyond the rate (R15).
(DESIGN CHOICE, log 40, safe) -/
def State.lookupSlot (s : State) (q : Nat) (f : Frame) : State × Bool :=
  if 160 ≤ frameLen f then (s, true)
  else
    let t := s.table q
    let n := if t.shortAt = s.time.core then t.short else 0
    if shortQuota s.time.core ≤ n then (s, false)
    else (s.updTable q fun t => { t with shortAt := s.time.core, short := n + 1 }, true)

/-- A policed frame is looked up, learned from and routed; one beyond the lookup rate is dropped before that (R15, R66). -/
def State.lookedUp (s : State) (c : FrameCtx) (p : Nat) (ovdu : Bool) : State :=
  let r := s.lookupSlot (p / 256) c.bytes
  if !r.2 then r.1.dropFrame mashPlace c (p / 256) 8 none
  else
    let s := r.1.learnSource p c.bytes ovdu
    State.settleRoute mashPlace c (s.route mashPlace c)

/-- A frame that passed checks 1 to 11 is policed before its lookup; one that the policer drops is still learned from (R148, R151).
(DESIGN CHOICE, log 40, safe) -/
def State.forwardFrame (s : State) (c : FrameCtx) (p : Nat) (ovdu : Bool) : State :=
  let q := p / 256
  let r := s.police p c.bytes
  let s := r.1
  match r.2 with
  | .red =>
    if s.isGeneral q c.bytes || (s.pol p (s.frameTc q c.bytes)).cfg.redAct then
      (s.learnSource p c.bytes ovdu).dropFrame mashPlace c q 9 none
    else (s.countPort p 11).lookedUp { c with bytes := setEcn c.bytes } p ovdu
  | .yellow => s.lookedUp { c with yellow := true } p ovdu
  | .green => s.lookedUp c p ovdu

/-! ### Faults found after cut-through has begun (R29) -/

/-- The route of a frame by its header alone, as cut-through takes it before the frame's end is seen: its output port. -/
def State.headRoute (s : State) (c : FrameCtx) (p : Nat) (rx : RxFrame) (ovdu : Bool) (beyondBy : Nat) : Option (State × Waiting) :=
  if fGroup c.bytes || (if ovdu then (s.headerCheck p rx beyondBy false).isSome else beyondBy ≠ 0) then none
  else
    let r := s.route mashPlace c
    match r.2 with
    | .ok =>
      let key := waitKey c.src c.vcIn.toNat
      match (r.1.waitList key).getLast? with
      | some w => if w.ctx.fid = c.fid && (r.1.waitList key).length = 1 then
          some ({ r.1 with waiting := SMap.set r.1.waiting key [] [] }, w) else none
      | none => none
    | _ => none

/-- A frame whose fault stands at its end: where it may be cut through and has more cells than CT_START, its cut-through has begun
by then. It goes on, marked to be ended with an inverted FCS, and is counted here as stomped too (R29); `none` where it has not
begun. Of an over-long frame the first 9,216 bytes go on. (DESIGN CHOICE, log 40, safe) -/
def State.cutFaulty (s : State) (c : FrameCtx) (p : Nat) (rx : RxFrame) (ovdu : Bool) (beyondBy : Nat) : Option State :=
  let c := { c with bytes := c.bytes.take 9212 }
  match s.headRoute c p rx ovdu beyondBy with
  | none => none
  | some (t, w) =>
    match w.target with
    | .unicast _ o =>
      let n := t.queueOf o c.bytes
      let cells := frameCells c.bytes
      if t.mayCut o c && t.rf .flrCtrl [o / 256] 1 6 < cells && !t.partitioned && (t.port o).armed && (t.port o).up &&
          (t.queue o n).depth + cells ≤ t.threshold (o / 256) then
        some ((t.countPort p 14).admitTo w o n cells true)
      else none
    | _ => none

/-- What is remembered of a frame as it arrives on port p, holding `share` cells of the ingress share. -/
def State.arrivalCtx (s : State) (p : Port) (rx : RxFrame) (share : Nat) : FrameCtx :=
  { fid := s.nextFid, bytes := rx.bytes, src := .port p, stampUs := s.nowUs, free := s.time.free, vcIn := rx.vc,
    cellsIn := rx.cells.toNat, share }

/-- Cells received on the frame's VC beyond the LIMIT last advertised (R54), the frame's own included. -/
def beyondOf (x : PortSt) (rx : RxFrame) : Nat :=
  let d := (nthD x.received rx.vc.toNat 0 + BitVec.ofNat 32 rx.cells.toNat - nthD x.advertised rx.vc.toNat 0).toNat
  if d < 2 ^ 31 then d else 0

/-- Check 1 fails: an FCS error, or a length outside 64 to 9,216 bytes (R59). -/
def badFrame (rx : RxFrame) : Bool := !rx.fcsOk || frameLen rx.bytes < 64 || 9216 < frameLen rx.bytes
/-- The frame is link control: an Ovdu frame with OP 0xF that passes checks 1 and 2 (R59). -/
def State.isLink (s : State) (q : Nat) (rx : RxFrame) : Bool :=
  s.isOvdu q rx.bytes && !badFrame rx && 66 ≤ frameLen rx.bytes && oOp rx.bytes = opLink
/-- A link control frame is consumed; one of a reserved KIND is dropped and counted (R59 check 3, R247). -/
def State.takeLink (s : State) (p : Nat) (rx : RxFrame) : State :=
  if linkReserved rx.bytes then (s.countPort p 19).watch 2 p rx.bytes true false 0xFF 0x8013 else s

/-- A link control frame is received: the taps and the sampler see it (R407, R411). -/
def State.linkSeen (s : State) (p : Nat) (rx : RxFrame) : State :=
  (s.watch 0 p rx.bytes true false 0xFF 0).sample p rx.bytes true

/-- A length that breaks 66 + LEN shows at the frame's end: where cut-through has begun the frame goes on to be ended with an
inverted FCS, and it is counted and answered here (R29, R59 check 9). (DESIGN CHOICE, log 40, safe) -/
def State.endFault (s : State) (c : FrameCtx) (p : Nat) (rx : RxFrame) (beyondBy : Nat) (answer : Option (Nat × Nat)) :
    Option State :=
  (s.cutFaulty c p rx true beyondBy).map fun u =>
    let t := (u.countPort p 25).watch 2 p c.bytes true false 0xFF 0x8019
    match answer with
    | some (reason, detail) => if isResponse (oOp c.bytes) then t else t.nack mashPlace p (p / 256) c.bytes reason detail
    | none => t

/-- The checks of R59, on a frame that link retry lets through. (DEDUCED, log 39, unsafe) -/
def State.checkFrame (s : State) (p : Port) (rx : RxFrame) : State :=
  let pn := p.toNat
  let q := pn / 256
  let f := rx.bytes
  let ovdu := s.isOvdu q f
  let link := s.isLink q rx
  let s := if link then s else (s.countPort pn 0).count pn 1 (frameLen f)
  let beyondBy := beyondOf (s.port pn) rx
  let share := frameCells f
  let s := s.updPort pn fun y =>
    { y with received := modNth y.received rx.vc.toNat (· + BitVec.ofNat 32 rx.cells.toNat), ingUsed := y.ingUsed + share }
  let c := s.arrivalCtx p rx share
  let s := { s with nextFid := s.nextFid + 1 }
  if badFrame rx then
    let d := s.dropDamaged c pn 1
    if 64 ≤ frameLen f then (d.cutFaulty { c with share := 0 } pn rx ovdu beyondBy).getD d else d
  else
    let s := s.watch 0 pn f (ovdu && 66 ≤ frameLen f) false 0xFF 0
    let s := s.sample pn f ovdu
    if ovdu && frameLen f < 66 then s.dropDamaged c pn 2
    else if link then (s.takeLink pn rx).freeIngress c
    else
      let fail : Option (Nat × Option (Nat × Nat)) :=
        if ovdu then s.headerCheck pn rx beyondBy else if beyondBy ≠ 0 then some (6, none) else none
      match fail with
      | none => s.forwardFrame c pn ovdu
      | some (k, answer) =>
        let s := if k = 6 then s.countPort pn (128 + rx.vc.toNat) else s
        let d := s.dropFrame mashPlace c q (16 + k) answer
        if k = 9 then (s.endFault c pn rx beyondBy answer).getD d else d

/-- A frame that link retry discards: the one it waited for, found faulty, may be in cut-through already (R29, R245). -/
def State.discarded (s : State) (p : Port) (rx : RxFrame) (expected : Bool) : State :=
  if expected && rx.preOk && !rx.fcsOk && 64 ≤ frameLen rx.bytes then
    (({ s with nextFid := s.nextFid + 1 }).cutFaulty (s.arrivalCtx p rx 0) p.toNat rx (s.isOvdu (p.toNat / 256) rx.bytes)
      (beyondOf (s.port p.toNat) rx)).getD s
  else s

/-- The frame is one that a training port takes: a TRAIN frame, or a credit frame in step 5 (R248). -/
def State.trainTakes (s : State) (p : Nat) (rx : RxFrame) : Bool :=
  let x := s.port p
  rx.ctrl && rx.preOk && s.isLink (p / 256) rx && x.trainStep ≠ 0 &&
    (linkKind rx.bytes = 4 || (linkKind rx.bytes = 1 && x.trainStep = 5))

/-- FRAME_RECEIVE on port p. A frame whose preamble has CTRL is outside the LSN sequence, and meets the same checks (R59, R244).
(DEDUCED, log 39, unsafe; DESIGN CHOICE, log 40, safe) -/
def execFrameReceive (p : Port) (rx : RxFrame) (s : State) : Res :=
  let pn := p.toNat
  let x := s.port pn
  let wired : State := s.updPort pn fun y => { y with wireRx := y.wireRx + frameLen rx.bytes + 20 }
  if !x.up then done (if s.trainTakes pn rx then wired.linkSeen pn rx else s)
  else
    let s := if rx.fcsOk then wired.updPort pn (heardAt s.time.core) else wired
    let ctrl := rx.ctrl && rx.preOk
    if ctrl && badFrame rx then done ((s.countPort pn 17).watch 2 pn rx.bytes false false 0xFF 0x8011)
    else if ctrl && s.isLink (pn / 256) rx then done ((s.linkSeen pn rx).takeLink pn rx)
    else if ctrl then done (s.checkFrame p rx)
    else if !rx.preOk && !x.retryOn then
      done ((s.countPort pn 63).watch 2 pn rx.bytes (rx.fcsOk && s.isOvdu (pn / 256) rx.bytes && 66 ≤ frameLen rx.bytes) false 0xFF 0x803F)
    else
      let s := s.widthArrives pn rx
      if !x.retryOn then done (s.checkFrame p rx)
      else
        let t := s.retryTake pn rx
        done (if t.2 then t.1.checkFrame p rx else t.1.discarded p rx (rx.lsn = x.lsnExpect))

/-! ### The scoreboard's timers (R44, R97 to R100) -/

/-- BIRTH_DEADLINE: every SEQ below the one that made the record counts as having left (R97). -/
def birthFold (r : DomRec) : DomRec :=
  match r.birth with
  | none => r
  | some (_, x) =>
    let r := { r with birth := none }
    if precedes r.l x then
      let d := (x - r.l).toNat
      if d < 512 then foldL 512 { r with map := r.map ||| BitVec.ofNat 512 (2 ^ d - 1) } else foldL 512 { r with l := x, map := 0 }
    else r

def execBirthDeadline (q : Quad) (d : Domain) (s : State) : Res :=
  if !s.live then done s else
  match s.domRec q.toNat d with
  | none => done s
  | some r => done (if r.birth.isSome then (s.setDomRec (birthFold r)).releaseFences q.toNat d else s)

/-- DOMAIN_IDLE_RELEASE: the record goes unless a fenced frame is held on it (R98). -/
def execDomainIdleRelease (q : Quad) (d : Domain) (s : State) : Res :=
  if !s.live then done s else
  done (if s.hasHeld q.toNat d then s else { s with doms := s.doms.filter fun r => !domIs q.toNat d r })

/-- A held fenced frame is dropped with a NACK, and counts as having left (R44, R100). -/
def State.dropHeld (s : State) (h : Held) (reason detail : Nat) : State :=
  let q := h.quad.toNat
  let f := h.wait.ctx.bytes
  let s := { s with held := s.held.filter fun x => !(decide (x = h)) }
  let s := if h.copy.isSome then s.departCopy q h.wait.ctx.fid f else s.depart q f
  match h.wait.ctx.src with
  | .port p => (s.watchFence q p.toNat f).nack mashPlace p.toNat q f reason detail
  | .service _ => s

/-- FENCE_HOLD_TIMEOUT: a frame held for FENCE_HOLD_US (R44). In the cycle in which the limit expires the frame may still leave
(R43). (DESIGN CHOICE, log 84, unsafe) -/
def execFenceHoldTimeout (q : Quad) (d : Domain) (seq : W32) (s : State) : Res :=
  if !s.live then done s else
  match s.held.find? fun h => h.quad = q && decide (h.dom = d) && h.seq = seq with
  | none => done s
  | some h =>
    if s.time.core = h.since + s.holdLimit q.toNat then done s else
    let seen := match s.domRec q.toNat d with | some r => seenLeft r h.seq h.precnt | none => 0
    done (s.dropHeld h rFenceTimeout (h.precnt.toNat * 2 ^ 32 + seen))

end Sys2Proof.Machine
end

