-- ==== Sys2Proof/Machine/Tables.lean ====
section
/-! DEFINITION. The address table's own steps (R70 to R84) and the host commands that change it, its sheaves and its groups
(R76 to R78, R86 to R90, R125, R389). -/
namespace Sys2Proof.Machine

/-! ### The ordered channel between quadrants -/

/-- A frame that waited for its home goes on with what the reply carries (R70). (DEDUCED, log 34, safe) -/
def State.resumeLookup (s : State) (c : FrameCtx) (e : Option Entry) : State :=
  let q := srcQuad c.src
  let ovdu := s.isOvdu q c.bytes
  let vid := match c.src with | .port p => s.genVid p.toNat c.bytes | .service _ => 0
  let r : State × Route := match e with
    | some e => s.routeEntry c ovdu vid e
    | none => if ovdu then (s, .fail 12 rNoRoute 0) else s.flood c vid
  State.settleRoute mashPlace c r

/-- REMOTE_CACHE_REPLY: the reply at the head of the channel from home h reaches quadrant q (R69 to R71). It serves the oldest
frame that waits for its key, and is installed unless an invalidate came while the fill was pending.
(DEDUCED, log 34, safe) -/
def execRemoteCacheReply (h q : Quad) (s : State) : Res :=
  if !s.live then done s else
  match s.chanOf h.toNat q.toNat with
  | .reply key e :: r =>
    let s := s.setChan h.toNat q.toNat r
    match s.lookups.find? fun w => w.quad = q && w.key = key with
    | none => done s
    | some w =>
      let s := { s with lookups := s.lookups.filter fun x => x.ctx.fid ≠ w.ctx.fid }
      let s := match e with | some e => if w.stale then s else s.cacheInstall q.toNat e | none => s
      done (s.resumeLookup w.ctx e)
  | _ => done s

/-- INVALIDATE: the invalidate at the head of the channel from home h reaches quadrant q (R71, R72).
(DEDUCED, log 34, safe) -/
def execInvalidate (h q : Quad) (s : State) : Res :=
  if !s.live then done s else
  match s.chanOf h.toNat q.toNat with
  | .invalidate key _ :: r =>
    let s := (s.setChan h.toNat q.toNat r).cacheDrop q.toNat key
    let s := { s with lookups := updWhere s.lookups (fun w => w.quad = q && w.key = key) fun w => { w with stale := true } }
    done s.tblSettle
  | _ => done s

/-! ### The update engine of a home (R73) -/

/-- Sets SHEAF and HIT of a learned entry and counts the move; or counts the denial at the request's port (R80).
(DEDUCED, log 31, unsafe) -/
def State.applyMove (s : State) (h : Nat) (r : LearnReq) (b w : Nat) (e : Entry) : State :=
  if eStatic e then
    if eSheaf e = r.sheaf then s.setWay h b w (eSet e 124 1 1) else s.countPort r.port 135
  else if eSheaf e = r.sheaf then s.setWay h b w (eSet e 124 1 1)
  else if !s.rb .tblLearn [h] 1 then s.countPort r.port 135
  else ((s.setWay h b w (eSet (eSet e 108 10 r.sheaf) 124 1 1)).invalidateAll h r.key none).countQuad h 35

/-- Applies a queued request at its home: what it finds there decides (R73, R80). (DEDUCED, log 31, unsafe) -/
def State.applyLearn (s : State) (h : Nat) (r : LearnReq) : State :=
  let f := s.homeFind h r.key
  match f.2 with
  | some (b, w, e) => f.1.applyMove h r b w e
  | none =>
    if r.move then f.1
    else
      let i := f.1.insertEntry h (learnedEntry r.key r.sheaf (f.1.seedSel h)) none
      if i.2 then i.1.countQuad h 32 else (i.1.countQuad h 34).insertFailed h r.key

/-- A host record of a key reached the update engine up to time `t` and has not been applied (R73).
(DEDUCED, log 31, unsafe) -/
def State.recordAhead (s : State) (h : Nat) (key : W64) (t : Nat) : Bool :=
  s.hostRecs.any fun x => eKey x.entry = key && x.since ≤ t && s.homeOf 0 key = h
/-- A learn or move request of a key reached the update engine before time `t` and has not been applied (R73).
(DEDUCED, log 31, unsafe) -/
def State.learnAhead (s : State) (h : Nat) (key : W64) (t : Nat) : Bool :=
  (s.table h).queue.any fun x => x.key = key && x.since < t

/-- A request leaves its home's queue and is applied (R73). -/
def State.takeLearn (s : State) (h : Nat) (r : LearnReq) : State :=
  ((s.updTable h fun t => { t with queue := t.queue.filter fun x => !decide (x = r) }).applyLearn h r).noteChange h r.key 2

/-- LEARN_REQUEST_APPLY: the learn request at the head of home h's queue (R73, R79). (DEDUCED, log 31, unsafe) -/
def execLearnRequestApply (h : Quad) (s : State) : Res :=
  if !s.live then done s else
  match (s.table h.toNat).queue with
  | r :: _ => done (if r.move || s.recordAhead h.toNat r.key r.since then s else s.takeLearn h.toNat r)
  | [] => done s

/-- MOVE_REQUEST_APPLY: the move request at the head of home h's queue (R73, R80). (DEDUCED, log 31, unsafe) -/
def execMoveRequestApply (h : Quad) (s : State) : Res :=
  if !s.live then done s else
  match (s.table h.toNat).queue with
  | r :: _ => done (if !r.move || s.recordAhead h.toNat r.key r.since then s else s.takeLearn h.toNat r)
  | [] => done s

/-- REFRESH_MESSAGE: a refresh from another quadrant reaches home h (R81). -/
def execRefreshMessage (h : Quad) (s : State) : Res :=
  if !s.live then done s else
  match (s.table h.toNat).refresh with
  | key :: rest => done ((s.updTable h.toNat fun t => { t with refresh := rest }).refreshHome h.toNat key)
  | [] => done s

/-! ### The sweeper (R84) -/

/-- Home h re-arms the cached copies of a key by a broadcast to the other quadrants (R81). (DEDUCED, log 35, safe) -/
def State.rearmCopies (s : State) (h : Nat) (key : W64) : State :=
  (List.range 4).foldl (fun (s : State) q => if bit s.rst.quadInReset.toNat q then s else s.postMsg h q (.rearm key)) s

/-- HIT of an entry as a visit of the sweeper finds it: as it stood before the refreshes of the same cycle (R84). -/
def State.hitAtVisit (s : State) (h : Nat) (e : Entry) : Bool := (s.hitBefore h (eKey e)).getD (eHit e)

/-- The sweeper's treatment of one way of a bucket; a refresh of the same cycle comes after it (R84).
(DEDUCED, log 35, safe) -/
def State.sweepWay (h b : Nat) (s : State) (w : Nat) : State :=
  let r := s.readWay h b w
  let e := r.2
  let again := b2n (r.1.hitBefore h (eKey e)).isSome
  if !eValid e || eStatic e then r.1
  else if r.1.hitAtVisit h e then (r.1.setWay h b w (eSet e 123 2 (2 * again))).rearmCopies h (eKey e)
  else if !eAged e then r.1.setWay h b w (eSet e 123 2 (1 + 2 * again))
  else ((r.1.removeAt h b w none).countQuad h 36).noteChange h (eKey e) 1

/-- A change of a key that reached the engine of home h before now still waits (R73). (DEDUCED, log 31, unsafe) -/
def State.waitsAhead (s : State) (h : Nat) (key : W64) : Bool :=
  s.learnAhead h key s.time.core || s.recordAhead h key s.time.core

/-- The sweeper would remove an entry whose key an older change still waits to change, or one of this cycle that comes after it
has changed (R73). (DEDUCED, log 31, unsafe) -/
def State.sweepHeld (s : State) (h b : Nat) : Bool :=
  (List.range 4).any fun w =>
    let e := s.way h b w
    eValid e && !eStatic e && eAged e && !s.hitAtVisit h e && (s.waitsAhead h (eKey e) || s.changeHeld h (eKey e) 1)

/-- SWEEPER_VISIT: quadrant q's sweeper visits its next bucket. A period of 0 stops it; a new period comes into force with a
pass. (DEDUCED, log 35, safe) -/
def execSweeperVisit (q : Quad) (s : State) : Res :=
  if !s.live then done s else
  let h := q.toNat
  let t := s.table h
  let per := if t.sweepPos = 0 || t.sweepMs = 0 then s.rf .tblSweep [h] 0 16 else t.sweepMs
  if per = 0 then done (s.updTable h fun t => { t with sweepMs := 0 })
  else if s.sweepHeld h t.sweepPos then done s
  else
    let s := (List.range 4).foldl (State.sweepWay h t.sweepPos) s
    done (s.updTable h fun x => { x with sweepMs := max 125 per, sweepPos := (t.sweepPos + 1) % 2 ^ 21 })

/-! ### Rehash (R76 to R78) -/

/-- Where an entry that cannot be placed goes: the command's buffer, or the count (R78). -/
def State.unplaced (s : State) (h : Nat) (e : Entry) : State :=
  let t := s.table h
  match t.rehashCmd.bind s.cmdOf with
  | some f =>
    if t.rehashWritten * 16 + 16 ≤ leAt f.bytes 24 8 then
      (s.hostWrite (leAt f.bytes 16 8 + 16 * t.rehashWritten) (leBytes 16 e.toNat)).updTable h fun t =>
        { t with rehashWritten := t.rehashWritten + 1 }
    else s.updTable h fun t => { t with rehashCounted := t.rehashCounted + 1 }
  | none => s.updTable h fun t => { t with rehashCounted := t.rehashCounted + 1 }

/-- Removes and inserts again an entry of the outgoing set found in a way. (DEDUCED, log 32, unsafe) -/
def State.rehashWay (h b : Nat) (s : State) (w : Nat) : State :=
  let r := s.readWay h b w
  let e := r.2
  if !eValid e || eSeedSel e = s.seedSel h then r.1
  else
    let cmd := (s.table h).rehashCmd
    let i := (r.1.removeAt h b w cmd).insertEntry h e cmd
    if i.2 then i.1.updTable h fun t => { t with rehashMoved := t.rehashMoved + 1 } else i.1.unplaced h e

/-- The walk would move an entry whose key an older change still waits to change (R73). (DEDUCED, log 31, unsafe) -/
def State.rehashHeld (s : State) (h b : Nat) : Bool :=
  (List.range 4).any fun w =>
    let e := s.way h b w
    eValid e && eSeedSel e ≠ s.seedSel h && s.waitsAhead h (eKey e)

/-- REHASH_BUCKET_VISIT: the walk of quadrant q visits its next bucket. (DEDUCED, log 31, unsafe; DEDUCED, log 32, unsafe) -/
def execRehashBucketVisit (q : Quad) (s : State) : Res :=
  if !s.live then done s else
  let h := q.toNat
  match (s.table h).rehash with
  | none => done s
  | some (b, o1, o2) =>
    if 2 ^ 21 ≤ b || s.rehashHeld h b then done s
    else done (((List.range 4).foldl (State.rehashWay h b) s).updTable h fun t => { t with rehash := some (b + 1, o1, o2) })

/-- REHASH_WALK_END: every bucket has been visited; the outgoing set goes and the command completes (R78, R72).
(DEDUCED, log 32, unsafe) -/
def execRehashWalkEnd (q : Quad) (s : State) : Res :=
  if !s.live then done s else
  let h := q.toNat
  let t := s.table h
  match t.rehash with
  | none => done s
  | some (b, _, _) =>
    if b < 2 ^ 21 then done s
    else
      let res := leBytes 4 t.rehashMoved ++ leBytes 4 t.rehashWritten ++ leBytes 4 t.rehashCounted
      let s := s.updTable h fun t => { t with rehash := none, rehashCmd := none }
      done (match t.rehashCmd with
        | none => s
        | some c => ({ s with tblWait := s.tblWait ++ [(c, res, none)] }).tblSettle)

/-- TABLE_REHASH (R76, R77). -/
def execTableRehash (c : CmdRing) (s : State) : Res :=
  done (s.withCmd c 0x07 anySub fun s d ref =>
    let h := leAt d 8 1
    let s1 := leAt d 12 2
    let s2 := leAt d 14 2
    if 4 ≤ h then s.refuse ref .range 0
    else if s.quadStill h then s.refuse ref .state 0
    else if (s.table h).rehash.isSome then s.refuse ref .state 0
    else
      let o1 := s.rf .tblBucket [h] 0 16
      let o2 := s.rf .tblBucket [h] 16 16
      if s1 = o1 || s2 = o2 then s.refuse ref .range 0
      else
        (s.setReg .tblBucket [h] (s1 + s2 * 65536)).updTable h fun t =>
          { t with rehash := some (0, BitVec.ofNat 16 o1, BitVec.ofNat 16 o2), rehashMoved := 0, rehashWritten := 0,
                   rehashCounted := 0, rehashCmd := some ref, seedSel := !t.seedSel })

/-! ### Bulk load and dump (R86 to R88) -/

/-- R87: a record that is malformed. KEY's own KTYPE bits must be the entry's, and its unused bits 0 (R62).
(DEDUCED, log 33, unsafe) -/
def State.recordBad (s : State) (e : Entry) : Bool :=
  let k := eKtype e
  let key := (eKey e).toNat
  k = 0 || k = 3 || eFld e 118 2 ≠ 0 || eFld e 88 4 ≠ 0 || eFld e 66 6 ≠ 0 || eFld e 76 4 ≠ 0 || 2 ≤ eFld e 64 2 ||
    fld key 62 2 ≠ k || (if k = 1 then fld key 32 30 ≠ 0 else fld key 60 2 ≠ 0) || (s.sheafAt (eSheaf e)).isNone

/-- The entry a load record installs: bits [79:64] are the record's, and HIT, AGED and SEEDSEL are the table's (R86).
(DEDUCED, log 33, unsafe) -/
def loadEntry (e : Entry) (hit aged sel : Bool) : Entry :=
  let v := putFld (putFld (putFld e.toNat 64 16 0) 123 2 (b2n aged + 2 * b2n hit)) 120 1 (b2n sel)
  withParity (BitVec.ofNat 128 v)

/-- Held fenced frames for an endpoint that the host has fenced are dropped (R44, R390). (DEDUCED, log 33, unsafe) -/
def State.dropHeldFor (s : State) (eid : Nat) : State :=
  (s.held.filter fun h => !fGroup h.wait.ctx.bytes && oDst h.wait.ctx.bytes = eid).foldl
    (fun (s : State) h => s.dropHeld h rFenced 0) s

/-- Applies one load record at its home (R87); answers LRES. (DEDUCED, log 33, unsafe) -/
def State.applyRecord (s : State) (h : Nat) (e : Entry) (cmd : CmdRef) : State × Nat :=
  let key := eKey e
  if s.recordBad e then (s, 4)
  else if eFld e 64 2 = 0 && eKtype e = 1 && s.isSvcEid 0 (fld key.toNat 0 32) then (s, 5)
  else
    let f := s.homeFind h key
    if eFld e 64 2 = 1 then
      match f.2 with
      | some (b, w, _) => (f.1.removeAt h b w (some cmd), 1)
      | none => (f.1, 3)
    else
      match f.2 with
      | some (b, w, o) =>
        let s := (f.1.setWay h b w (loadEntry e (eHit o) (eAged o) (eSeedSel o))).invalidateAll h key (some cmd)
        (if eFenced e && eKtype e = 1 then s.dropHeldFor (fld key.toNat 0 32) else s, 1)
      | none =>
        let i := f.1.insertEntry h (loadEntry e false false (f.1.seedSel h)) (some cmd)
        if i.2 then (if eFenced e && eKtype e = 1 then i.1.dropHeldFor (fld key.toNat 0 32) else i.1, 1)
        else (i.1.insertFailed h key, 2)

/-- Counts a record's LRES for its command (0: the record was not applied), and completes the command after the last one
(R87). (DEDUCED, log 33, unsafe) -/
def State.loadDone (s : State) (cmd : CmdRef) (lres : Nat) : State :=
  let s := { s with loads := s.loads.map fun (x : CmdRef × Nat × List Nat) =>
      if x.1 = cmd then (x.1, x.2.1 - 1, if lres = 0 then x.2.2 else modNth x.2.2 (lres - 1) (· + 1)) else x }
  match s.loads.find? fun x => x.1 = cmd with
  | some (_, 0, counts) =>
    ({ s with loads := s.loads.filter fun x => x.1 ≠ cmd,
              tblWait := s.tblWait ++ [(cmd, counts.flatMap (leBytes 3), none)] }).tblSettle
  | _ => s

/-- The device writes a record's LRES; bits [79:76] stay as the record has them (R86, R87). -/
def State.writeLres (s : State) (r : HostRec) (lres : Nat) : State :=
  s.hostWrite (r.addr + 9) [BitVec.ofNat 8 (eFld r.entry 76 4 * 16 + lres)]

/-- A host record of home h is applied: its LRES, and its place in its command's counts (R87). -/
def State.takeRecord (s : State) (h : Nat) (r : HostRec) : State :=
  let s := { s with hostRecs := s.hostRecs.eraseP fun x => decide (x = r) }
  let a := s.applyRecord h r.entry r.cmd
  (a.1.writeLres r a.2).loadDone r.cmd a.2

/-- Host records are given up: each is not processed, LRES 0x0 (R86, R87). -/
def State.giveUpRecords (s : State) (mine : HostRec → Bool) : State :=
  (s.hostRecs.filter mine).foldl (fun (s : State) r => s.writeLres r 0) { s with hostRecs := s.hostRecs.filter fun r => !mine r }

/-- HOST_RECORD_APPLY: the next host record of home h (R83, R87). -/
def execHostRecordApply (h : Quad) (s : State) : Res :=
  if !s.live then done s else
  let mine (r : HostRec) : Bool := s.homeOf 0 (eKey r.entry) = h.toNat
  match s.hostRecs.find? mine with
  | none => done s
  | some r =>
    if s.learnAhead h.toNat (eKey r.entry) r.since || s.changeHeld h.toNat (eKey r.entry) 0 then done s
    else done (s.takeRecord h.toNat r)

/-- TABLE_LOAD (R86, R87): the records go to their homes. (DEDUCED, log 33, unsafe) -/
def execTableLoad (c : CmdRing) (buf : DmaRead) (s : State) : Res :=
  done (s.withRead c 0x05 anySub (leAt · 8 8) buf fun s d ref bytes =>
    let n := leAt d 16 4
    if n = 0 || 2 ^ 20 < n then s.refuse ref .range 0
    else
      let recs := (List.range n).map fun i => BitVec.ofNat 128 (leAt bytes (16 * i) 16)
      if recs.any fun e => s.quadDown (s.homeOf 0 (eKey e)) then s.refuse ref .state 0
      else
        { s with hostRecs := s.hostRecs ++ recs.mapIdx fun i e => { entry := e, addr := leAt d 8 8 + 16 * i, cmd := ref, since := s.time.core },
                 loads := s.loads ++ [(ref, n, [0, 0, 0, 0, 0])] })

/-- The valid entries of home h, by bucket and way, each read with its parity check; one that fails it is omitted and counted (R85,
R88, R364). (DESIGN CHOICE, log 85, unsafe) -/
def State.dumpHome (s : State) (h : Nat) : State × List Entry :=
  (s.home.filter fun x => x.1 / 2 ^ 23 = h).foldl (fun (acc : State × List Entry) x =>
    let r := acc.1.readWay h (x.1 / 4 % 2 ^ 21) (x.1 % 4)
    (if parityOk x.2 then r.1 else r.1.countQuad h 50, if eValid r.2 then acc.2 ++ [r.2] else acc.2)) (s, [])

/-- TABLE_DUMP (R88). -/
def execTableDump (c : CmdRing) (s : State) : Res :=
  done (s.withCmd c 0x06 anySub fun s d ref =>
    let m := leAt d 8 1
    if 16 ≤ m then s.refuse ref .range 0
    else if (List.range 4).any fun q => bit m q && s.quadStill q then s.refuse ref .state 0
    else
      let r := (List.range 4).foldl (fun (acc : State × List Entry) q =>
        if bit m q then
          let x := acc.1.dumpHome q
          (x.1, acc.2 ++ x.2)
        else acc) (s, [])
      let fit := r.2.take (leAt d 24 8 / 16)
      let s := if fit.isEmpty then r.1 else r.1.hostWrite (leAt d 16 8) (fit.flatMap fun e => leBytes 16 e.toNat)
      s.complete ref (if fit.length < r.2.length then .bufferShort else .success) (leBytes 4 fit.length ++ leBytes 4 r.2.length))

/-! ### Fences (R389, R390) -/

/-- The entry that a fence inserts for an endpoint without one. (DEDUCED, log 36, safe) -/
def fenceEntry (eid : Nat) (sel : Bool) : Entry :=
  withParity (BitVec.ofNat 128 (1 <<< 126 + 1 <<< 125 + 1 <<< 122 + b2n sel <<< 120 + (eidKey eid).toNat))

/-- The changes of a key that wait at home h are applied, in the order in which they reached its engine: the fence of the key comes
behind them (R73, R329). (DEDUCED, log 31, unsafe) -/
def State.settleKey (s : State) (h : Nat) (key : W64) : State :=
  let recs := s.hostRecs.filter fun r => eKey r.entry = key
  let learn := (s.table h).queue.find? (·.key = key)
  let early (r : HostRec) : Bool := match learn with | some l => r.since ≤ l.since | none => true
  let s := (recs.filter early).foldl (fun (s : State) r => s.takeRecord h r) s
  let s := match learn with | some l => s.takeLearn h l | none => s
  (recs.filter fun r => !early r).foldl (fun (s : State) r => s.takeRecord h r) s

/-- A fence that is undone: FENCED and STATIC as they stood, or no entry again (R331). (DEDUCED, log 25, unsafe) -/
def State.unfence (s : State) (u : FenceUndo) : State :=
  let f := s.homeFind u.home u.key
  match f.2, u.was with
  | some (b, w, e), some (fenced, stat) =>
    (f.1.setWay u.home b w (eSet (eSet e 122 1 (b2n fenced)) 125 1 (b2n stat))).invalidateAll u.home u.key none
  | some (b, w, _), none => f.1.removeAt u.home b w none
  | none, _ => f.1

/-- ENDPOINT_FENCE: after the changes of its key that wait at the home. (DEDUCED, log 31, unsafe; DEDUCED, log 36, safe) -/
def execEndpointFence (c : CmdRing) (s : State) : Res :=
  done (s.withCmd c 0x08 anySub fun s d ref =>
    let eid := leAt d 8 4
    let on := leAt d 12 1
    let key := eidKey eid
    let h := s.homeOf 0 key
    let wait (s : State) (was : Option (Bool × Bool)) : State :=
      ({ s with tblWait := s.tblWait ++ [(ref, [], some (FenceUndo.mk h key was))] }).tblSettle
    if 2 ≤ on then s.refuse ref .range 0
    else if s.isSvcEid 0 eid then s.refuse ref .ownEid 0
    else if s.quadStill h then s.refuse ref .state 0
    else
      let f := (s.settleKey h key).homeFind h key
      match f.2 with
      | some (b, w, e) =>
        let new := if on = 1 then eSet (eSet e 122 1 1) 125 1 1 else eSet e 122 1 0
        let s := (f.1.setWay h b w new).invalidateAll h key (some ref)
        wait (if on = 1 then s.dropHeldFor eid else s) (some (eFenced e, eStatic e))
      | none =>
        if on = 0 then ({ f.1 with tblWait := f.1.tblWait ++ [(ref, [], none)] }).tblSettle
        else
          let i := f.1.insertEntry h (fenceEntry eid (f.1.seedSel h)) (some ref)
          if i.2 then wait (i.1.dropHeldFor eid) none else (i.1.insertFailed h key).refuse ref .inUse 0)

/-! ### Sheaves (R90) and groups (R125) -/

/-- Attached leaves of R3: sheaves of ROLE leaf with an armed member, and armed leaf ports in no sheaf. -/
def leafCount (s : State) (armed : Nat → Bool) (sheaves : SMap Sheaf) : Nat :=
  let leafPorts := (List.range 1024).filter fun p => armed p && s.isLeaf p
  (sheaves.filter fun x => !x.2.trunk && x.2.ports.any armed).length +
    (leafPorts.filter fun p => !sheaves.any fun x => x.2.ports.contains p).length

/-- The first port that a list names twice. -/
def twice : List Nat → Option Nat
  | [] => none
  | p :: r => if r.contains p then some p else twice r

/-- An entry of some home names sheaf k. Each entry is read with its parity check (R85, R90). -/
def State.sheafNamed (s : State) (k : Nat) : State × Bool :=
  s.home.foldl (fun (acc : State × Bool) x =>
    let r := acc.1.readWay (x.1 / 2 ^ 23) (x.1 / 4 % 2 ^ 21) (x.1 % 4)
    (r.1, acc.2 || (eValid r.2 && eSheaf r.2 = k))) (s, false)

/-- Why a sheaf record is refused: cause and DETAIL, which for the cause of a port is the port (R332); whether an entry names a
sheaf to be removed is asked after it. (DESIGN CHOICE, log 85, unsafe) -/
def State.sheafBad (s : State) (r : List Byte) : Option (Cause × Nat) :=
  let sh := leAt r 0 2
  let role := leAt r 2 1
  let minw := leAt r 3 1
  let count := leAt r 4 1
  let raw := (List.range 16).map fun k => leAt r (8 + 2 * k) 2
  let ports := raw.take count
  if 1024 ≤ sh || !allZero r 5 3 || !allZero r 40 24 || !(role = 1 || role = 2) || 16 < count ||
      (count ≠ 0 && (minw = 0 || count < minw)) || raw.any (1024 ≤ ·) || (raw.drop count).any (· ≠ 0) then
    some (.range, 0)
  else
    match (twice ports).or (ports.find? fun p => p / 256 ≠ sh / 256) with
    | some p => some (.range, p)
    | none =>
      match ports.find? fun p => s.sheaves.any fun x => x.1 ≠ sh && x.2.ports.contains p with
      | some p => some (.inUse, p)
      | none =>
        match ports.find? fun p => s.role p ≠ role with
        | some p => some (.setting, p)
        | none =>
          let armed := ports.filter fun p => (s.port p).armed
          let new : SMap Sheaf :=
            if count = 0 then SMap.erase s.sheaves sh else SMap.put s.sheaves sh { trunk := role = 2, minWidth := minw, ports }
          if s.smallClass && 128 < leafCount s (fun p => (s.port p).armed) new then some (.cls, 0)
          else if role = 2 && armed.any (fun p => s.dateline p) && armed.any (fun p => !s.dateline p) then
            some (.setting, armed.headD 0)
          else none

/-- SHEAF_SET (R90). -/
def execSheafSet (c : CmdRing) (rec : DmaRead) (s : State) : Res :=
  done (s.withRead c 0x03 anySub (leAt · 8 8) rec fun s _ ref bytes =>
    let r := padTo 64 bytes
    if s.pwr.state ≠ 0 then s.refuse ref .state 0 else
    match s.sheafBad r with
    | some (cause, detail) => s.refuse ref cause detail
    | none =>
      let sh := leAt r 0 2
      let count := leAt r 4 1
      let x : Sheaf := { trunk := leAt r 2 1 = 2, minWidth := leAt r 3 1,
                         ports := (List.range count).map fun k => leAt r (8 + 2 * k) 2 }
      if count ≠ 0 then ({ s with sheaves := SMap.put s.sheaves sh x }.tellAll (sh / 256)).succeed ref
      else
        let n := s.sheafNamed sh
        if n.2 then n.1.refuse ref .inUse 0
        else ({ n.1 with sheaves := SMap.erase n.1.sheaves sh }.tellAll (sh / 256)).succeed ref)

/-- Why a group record is refused (R125); the rule does not order its causes. (DESIGN CHOICE, log 95, unsafe) -/
def State.groupBad (s : State) (r : List Byte) : Option Cause :=
  let kind := leAt r 2 1
  let base := leAt r 4 4
  let mask := BitVec.ofNat 64 (leAt r 8 8)
  let vid := leAt r 18 2
  let sheaves := (List.range 1024).filter fun k => bit (leAt r (32 + k / 8) 1) (k % 8)
  if kind = 0 then none
  else if 3 < kind then some .range
  else if 2 ≤ leAt r 3 1 || !allZero r 20 12 then some .range
  else if kind = 3 then
    if 4096 ≤ vid then some .range
    else if s.groups.any fun x => x.2.kind = 3 && x.2.vid = vid && x.1 ≠ leAt r 0 2 then some .inUse
    else if sheaves.any fun k => (match s.sheafAt k with | some sh => sh.trunk | none => true) then some .range
    else none
  else if mask = 0 then some .range
  else if kind = 1 && fld base 17 6 ≠ 0 then some .range
  else if kind = 2 && (fld base 23 5 ≠ 0 || mask.toNat / 2 ^ 32 ≠ 0) then some .range
  else if (lineMembers kind base mask).any (s.isSvcEid 0) then some .ownEid
  else none

/-- GROUP_SET (R125). -/
def execGroupSet (c : CmdRing) (rec : DmaRead) (s : State) : Res :=
  done (s.withRead c 0x04 anySub (leAt · 8 8) rec fun s _ ref bytes =>
    let r := padTo 160 bytes
    if s.pwr.state ≠ 0 then s.refuse ref .state 0 else
    match s.groupBad r with
    | some cause => s.refuse ref cause 0
    | none =>
      let g := leAt r 0 2
      let k := leAt r 2 1
      let x : GroupRec :=
        { kind := k, jobAny := bit (leAt r 3 1) 0, base := BitVec.ofNat 32 (leAt r 4 4), mask := BitVec.ofNat 64 (leAt r 8 8),
          job := BitVec.ofNat 16 (leAt r 16 2), vid := leAt r 18 2,
          sheaves := if k = 3 then (List.range 1024).filter fun j => bit (leAt r (32 + j / 8) 1) (j % 8) else [] }
      let m := if k = 0 then SMap.erase s.groups g else SMap.put s.groups g x
      ({ s with groups := m }).succeed ref)

end Sys2Proof.Machine
end

