-- ==== Sys2Proof/Machine/Ports.lean ====
section
/-! DEFINITION. Ports: arming and its refusals (R3, R49, R58, R89, R118, R133, R155, R242, R265), disarming (R124), training
(R246 to R248), going down and flap damping (R250, R252), width changes (R251), credit frames (R51, R53) and link retry
(R245). -/
namespace Sys2Proof.Machine

/-! ### Arming -/

/-- The four quadrants' copies of a register differ. -/
def State.differ (s : State) (r : Reg) : Bool := [1, 2, 3].any fun q => s.reg r [q] ≠ s.reg r [0]

/-- Why PORT_ARM of port p is refused. Of CT_START, for which R133 names no quadrant, that of the port's quadrant is judged.
(DEDUCED, log 12, unsafe; DEDUCED, log 20, unsafe; DESIGN CHOICE, log 94, unsafe) -/
def State.armBad (s : State) (p : Nat) : Option Cause :=
  let q := p / 256
  let role := s.role p
  let armedWith (k : Nat) : Bool := k = p || (s.port k).armed
  let et := s.ovduEtype q
  let hold := s.rf .portFence [q] 0 16
  let grants := ((List.range 6).map fun v => s.rf .portCredit (pix p ++ [v]) 0 20).sum
  let mates := match s.sheafOfPort p with
    | some k => (match s.sheafAt k with | some sh => sh.ports.filter fun r => (s.port r).armed | none => [])
    | none => []
  if s.smallClass && (role = 2 || (role = 1 && 128 < leafCount s armedWith s.sheaves)) then some .cls
  else if s.dateline p && role = 1 then some .setting
  else if role = 2 && mates.any (fun r => s.dateline r != s.dateline p) then some .setting
  else if [.portEtype, .portTcmap, .portSvc, .portFence, .tblSeeds, .tblFence].any s.differ then some .setting
  else if et < 0x600 || et = 0x8100 || et = 0x88A8 || s.svcPrefix q = 0 || hold = 0 || role = 0 || role = 3 then some .setting
  else if hold ≤ s.rf .tblFence [q] 16 16 then some .setting
  else if s.rf .flrIng (pix p) 0 21 < grants || 1572864 < s.ingSum q then some .share
  else if [1, 2, 3].any (fun k => s.rf .flrAge [k] 0 16 ≠ s.rf .flrAge [0] 0 16) || s.rf .flrAge [q] 0 16 = 0 then some .setting
  else if s.rf .flrCtrl [q] 1 6 = 0 || 36 < s.rf .flrCtrl [q] 1 6 then some .setting
  else if (List.range 8).any (fun t => s.genQueue p t = 3) || s.rf .tmVcw0 (pix p) 0 8 = 0 || s.rf .tmGenw (pix p) 0 24 = 0 then
    some .setting
  else if s.portSpeed p = 0 then some .lanes
  else if !(s.fibreNormal (p / 4) || s.fibreLooped (p / 4)) then some .paths
  else none

/-- Starts training where the port may train: armed, its light allowed, not up and not training (R248, R271).
(DEDUCED, log 61, safe) -/
def State.trainEval (s : State) (p : Nat) : State :=
  let x := s.port p
  if x.up || x.trainStep ≠ 0 || !s.txAllowed p then s
  else s.updPort p fun x => { x with trainStep := 1, trainAgree := 0, trainBad := false, partnerMask := 0, partnerCount := 0 }

/-- Stops training on ports whose light is no longer allowed, and starts it on those whose light now is. -/
def State.lightEval (s : State) (p : Nat) : State :=
  if s.txAllowed p then s.trainEval p
  else if (s.port p).trainStep ≠ 0 then s.updPort p fun x => { x with trainStep := 0, ctl := [] } else s

/-- The armed ports of an engine. -/
def State.armedPorts (s : State) (o : Nat) : List Nat := (s.ports.filter fun x => x.1 / 64 = o && x.2.armed).map (·.1)

/-- A command on port p finds its block held (R355, R437). (DEDUCED, log 45, safe) -/
def State.portDown (s : State) (p : Nat) : Bool := s.quadDown (p / 256) || (s.port p).inReset

/-- PORT_ARM; in RETURNED only a looped fibre's port may be armed (R427). (DEDUCED, log 20, unsafe) -/
def execPortArm (c : CmdRing) (s : State) : Res :=
  done (s.withCmd c 0x01 anySub fun s d ref =>
    let p := leAt d 8 2
    if 1024 ≤ p then s.refuse ref .range p
    else if s.portDown p || s.pwr.state ≠ 0 || s.pwr.transition.isSome then s.refuse ref .state p
    else if (s.port p).armed then s.succeed ref
    else if s.sec.lcState = 3 && !s.fibreLooped (p / 4) then s.refuse ref .state p
    else
      match s.armBad p with
      | some cause => s.refuse ref cause p
      | none =>
        ((s.updPort p fun x => { x with armed := true, firstWidth := 0, aliveAt := s.time.core, silentMs := false,
                                        retryPoints := 0 }).trainEval p).succeed ref)

/-! ### Up and down -/

/-- A port's link state as it is after the link is gone: retry buffers wiped, no width change pending. -/
def linkGone (x : PortSt) : PortSt :=
  { x with up := false, trainStep := 0, retryBuf := [], replay := [], ctl := [], reqPending := false, widthPend := [],
           widthAt := [], widthIn := [], creditDue := false, lsnSeen := false }

/-- An up port goes down: its event, the flush in largest configuration, and training again (R91, R123, R250).
(DEDUCED, log 45, safe) -/
def State.goDown (s : State) (p : Nat) (flush : Bool) : State :=
  let w := (s.port p).width
  let s := if flush then s.flushCopies p else s
  let s := (s.updPort p linkGone).portEvent p 2 0 w
  let s := ((s.updPort p fun x => { x with width := 0 }).dousedAt (p / 64)).tellAll (p / 256)
  if flush then s.flushPort p else s

/-- A flap penalty in the units in which State keeps it. (DESIGN CHOICE, log 62, unsafe) -/
def flapUnits (n : Nat) : Nat := n * 2 ^ 32

/-- The damping of a down under R250: the penalty, and suppression (R252). -/
def State.damp (s : State) (p : Nat) : State :=
  let s := s.updPort p fun x => { x with penalty := min (flapUnits 12000) (x.penalty + flapUnits 1000) }
  if s.rb .oeDamp [p / 64] 16 && flapUnits 3000 ≤ (s.port p).penalty && !(s.port p).suppressed then
    (s.updPort p fun x => { x with suppressed := true }).portEvent p 3 0 (s.laneMask p)
  else s

/-- PORT_DOWN: a condition of R250 has held for 10 µs on an up port. -/
def execPortDown (p : Port) (_c : DownCause) (s : State) : Res :=
  let pn := p.toNat
  done (if !(s.port pn).up then s else ((s.goDown pn !s.smallClass).damp pn).trainEval pn)

/-- Misses every launch pending on a port (R311). (DEDUCED, log 60, unsafe) -/
def State.missLaunches (s : State) (p cause : Nat) : State :=
  (s.launches.filter (·.port = p)).foldl (fun (s : State) l => s.launchMissed l cause) s

/-- PORT_DISARM (R124, R311, R394). (DEDUCED, log 20, unsafe) -/
def execPortDisarm (c : CmdRing) (s : State) : Res :=
  done (s.withCmd c 0x02 anySub fun s d ref =>
    let p := leAt d 8 2
    if 1024 ≤ p then s.refuse ref .range p
    else if s.portDown p then s.refuse ref .state p
    else if !(s.port p).armed then s.succeed ref
    else
      let was := (s.port p).up
      let s := (s.flushCopies p).updPort p fun x =>
        { x with armed := false, hd := 0, hstate := .healthy, readmitAt := none, retryPoints := 0, silentMs := false }
      let s := if was then s.goDown p true else (s.updPort p linkGone).flushPort p
      (s.missLaunches p 4).succeed ref)

/-! ### Training (R248) -/

/-- The rings of a port's lanes are all LOCKED or RETIRED. A lane whose channel is retired has no light and is no lane of the port
any more (R251, R258). (DEDUCED, log 61, safe) -/
def State.ringsReady (s : State) (p : Nat) : Bool :=
  (List.range 8).all fun n => !bit (s.portLanes p) n || s.channelRetired (p / 64) n || [false, true].all fun rx =>
    let r := (s.microRing ⟨BitVec.ofNat 8 (p / 4), rx, BitVec.ofNat 3 n⟩).state
    r = .locked || r = .retired

/-- The port's lanes with light: those whose receive ring holds its channel. A port without one has nothing to recover. -/
def State.litLanes (s : State) (p : Nat) : BitVec 8 :=
  BitVec.ofNat 8 (((List.range 8).filter fun n => bit (s.portLanes p) n &&
    (s.microRing ⟨BitVec.ofNat 8 (p / 4), true, BitVec.ofNat 3 n⟩).state = .locked).map fun n => 2 ^ n).sum

/-- The width training gives: the AND of the two masks. -/
def State.trainWidth (s : State) (p : Nat) : BitVec 8 := s.laneMask p &&& (s.port p).partnerMask

/-- TRAIN_FRAME_RECEIVE (R247, R248). (DEDUCED, log 61, safe) -/
def execTrainFrameReceive (p : Port) (t : TrainInfo) (s : State) : Res :=
  let pn := p.toNat
  let x := s.port pn
  done (if x.trainStep = 4 then
      let agrees : Bool := t.mode.toNat = s.fibreMode (pn / 4) && t.k.toNat = pn % 4
      s.updPort pn fun x =>
        { x with partnerCount := t.count, trainBad := !agrees, partnerMask := if agrees then t.mask else x.partnerMask,
                 trainAgree := if !agrees then 0 else if t.mask = x.partnerMask && x.trainAgree ≠ 0 then min 3 (x.trainAgree + 1) else 1 }
    else if x.trainStep = 5 then s.updPort pn fun x => { x with partnerCount := t.count }
    else s)

/-- The counts of a new link (R51, R244). -/
def linkFresh (x : PortSt) : PortSt :=
  { x with limitHeld := List.replicate 6 0, sent := List.replicate 6 0, freed := List.replicate 6 0,
           advertised := List.replicate 6 0, received := List.replicate 6 0, lsnNext := 0, lsnExpect := 0, lsnSeen := false,
           retryBuf := [], replay := [], reqPending := false }

/-- TRAINING_STEP_COMPLETE: the present training step has completed as the receivers saw it (R246, R248, R305).
(DEDUCED, log 61, safe) -/
def execTrainingStepComplete (p : Port) (o : TrainObs) (s : State) : Res :=
  let pn := p.toNat
  let x := s.port pn
  let toStep (n : Nat) : State := s.updPort pn fun x => { x with trainStep := n, trainAgree := 0 }
  match x.trainStep with
  | 1 => done (if s.ringsReady pn then toStep 2 else s)
  | 2 => done (if s.litLanes pn &&& ~~~o.lanes = 0 then toStep 3 else s)
  | 3 => done (if s.litLanes pn &&& ~~~o.lanes = 0 then toStep 4 else s)
  | 4 =>
    done (if x.trainAgree < 3 || s.trainWidth pn = 0 then s
      else s.updPort pn fun x => { linkFresh x with trainStep := 5, width := s.trainWidth pn, ctl := [.credit] })
  | 5 =>
    let s := s.updPort pn fun x =>
      { x with trainStep := 0, up := true, retryOn := o.loopNs ≤ 1100, rxLat := o.rxLat, txLat := o.txLat,
               firstWidth := if x.firstWidth = 0 then x.width else x.firstWidth, aliveAt := s.time.core,
               creditAt := s.time.core }
    done ((s.portEvent pn 1 0 (s.port pn).width).tellAll (pn / 256))
  | _ => done s

/-- TRAINING_TIMEOUT: the port is not up 50 ms after its training started; a mismatch of mode or k is counted as a cause of its
own (R248). (DEDUCED, log 61, safe) -/
def execTrainingTimeout (p : Port) (s : State) : Res :=
  let pn := p.toNat
  let x := s.port pn
  done (if x.trainStep = 0 then s
    else
      let s := (s.countPort pn 15).portEvent pn 5 x.trainStep (s.laneMask pn)
      (s.updPort pn fun x =>
        { x with trainStep := 0, ctl := [], mismatches := if x.trainBad then x.mismatches + 1 else x.mismatches }).trainEval pn)

/-! ### Width changes (R251) -/

/-- WIDTH_RECEIVE: the partner drops lanes from an LSN of its own on. (DEDUCED, log 61, safe) -/
def execWidthReceive (p : Port) (mask : BitVec 8) (lsn : W16) (s : State) : Res :=
  let pn := p.toNat
  let x := s.port pn
  let m := mask &&& x.width
  done (if !x.up || m = 0 then s
    else s.updPort pn fun x => { x with widthIn := x.widthIn ++ [(m, lsn)], ctl := x.ctl ++ [.widthAck m lsn] })

/-- WIDTH_ACK_RECEIVE: the partner accepts the mask; the width changes at the LSN that WIDTH named.
(DEDUCED, log 61, safe) -/
def execWidthAckReceive (p : Port) (mask : BitVec 8) (lsn : W16) (s : State) : Res :=
  let pn := p.toNat
  let named (w : BitVec 8 × W16 × Nat) : Bool := w.1 = mask && w.2.1 = lsn
  done (if !(s.port pn).widthPend.any named then s
    else s.updPort pn fun x => { x with widthPend := x.widthPend.filter fun w => !named w, widthAt := x.widthAt ++ [(mask, lsn)] })

/-- WIDTH_ACK_TIMEOUT: no WIDTH_ACK for 100 µs; the port goes down and trains without the lane, and this down is not damped. -/
def execWidthAckTimeout (p : Port) (s : State) : Res :=
  let pn := p.toNat
  done (if (s.port pn).widthPend.isEmpty then s else (s.goDown pn !s.smallClass).trainEval pn)

/-- The width a port will have once the changes it has asked for are made. -/
def widthTo (x : PortSt) : BitVec 8 :=
  (x.widthPend.map (·.1) ++ x.widthAt.map (·.1)).foldl (· &&& ·) x.width

/-- Drops a lane from a port. An up port sends WIDTH with an LSN ahead, which the manual leaves to the sender; a port in step 5 of
its training exchanges its TRAIN frames again (R248, R251). (DEDUCED, log 61, safe) -/
def State.dropLane (s : State) (p lane : Nat) : State :=
  let x := s.port p
  let m := widthTo x &&& ~~~(BitVec.ofNat 8 (2 ^ lane))
  if !x.up then
    if x.trainStep = 5 && bit x.width.toNat lane then
      s.updPort p fun x => { x with trainStep := 4, trainAgree := 0, width := 0, ctl := [] }
    else s
  else if m = widthTo x then s
  else if m = 0 then (s.goDown p !s.smallClass).trainEval p
  else
    let f := s.fresh
    let l := x.lsnNext + BitVec.ofNat 16 (f.1.toNat % 32768)
    f.2.updPort p fun x => { x with widthPend := x.widthPend ++ [(m, l, s.time.core)], ctl := x.ctl ++ [.width m l] }

/-! ### Credits (R51, R53) -/

/-- CREDIT_FRAME_RECEIVE: each LIMIT is taken when it is ahead of the one held. -/
def execCreditFrameReceive (p : Port) (limits : List W32) (s : State) : Res :=
  let pn := p.toNat
  let x := s.port pn
  done (if !(x.up || x.trainStep = 5) then s
    else (s.updPort pn (heardAt s.time.core)).updPort pn fun x =>
      { x with limitHeld := (List.range 6).map fun v =>
                 let old := nthD x.limitHeld v 0
                 let new := nthD limits v old
                 if precedes old new then new else old })

/-- CREDIT_FRAME_TIMER: a credit frame is due on an up port; it waits for the next frame boundary. -/
def execCreditFrameTimer (p : Port) (s : State) : Res :=
  let pn := p.toNat
  let x := s.port pn
  done (if !x.up || x.ctl.contains .credit then s else s.updPort pn fun x => { x with ctl := x.ctl ++ [.credit] })

/-! ### Link retry (R245) -/

/-- `a` is at or ahead of `b`, as link sequence numbers. -/
def lsnFrom (a b : W16) : Bool := (a - b).toNat < 32768

/-- RETRY_REQ_RECEIVE: the port replays from an LSN. -/
def execRetryReqReceive (p : Port) (lsn : W16) (s : State) : Res :=
  let pn := p.toNat
  let x := s.port pn
  done (if !(x.up && x.retryOn) then s
    else (s.countPort pn 7).updPort pn fun x =>
      { x with retryPoints := x.retryPoints + 1, replay := x.retryBuf.filter fun e => lsnFrom e.lsn lsn })

/-- LINK_ACK_RECEIVE: frames up to an LSN have arrived. -/
def execLinkAckReceive (p : Port) (lsn : W16) (s : State) : Res :=
  let pn := p.toNat
  let x := s.port pn
  let keep (e : RetryEntry) : Bool := !lsnFrom lsn e.lsn
  done (if !(x.up && x.retryOn) then s
    else s.updPort pn fun x => { x with retryBuf := x.retryBuf.filter keep, replay := x.replay.filter keep })

/-- LINK_ACK_TIMER: frames have arrived; the highest LSN received in order goes back. -/
def execLinkAckTimer (p : Port) (s : State) : Res :=
  let pn := p.toNat
  let x := s.port pn
  done (if !(x.up && x.retryOn && x.lsnSeen) then s
    else s.updPort pn fun x => { x with lsnSeen := false, ctl := x.ctl ++ [.linkAck (x.lsnExpect - 1)] })

/-! ### Flap damping (R252) -/

/-- The greatest y below 2^bits above `y` with 2·y^h at most p^h. -/
def decayFrom (p h : Nat) : Nat → Nat → Nat
  | 0, y => y
  | k + 1, y => decayFrom p h k (if 2 * (y + 2 ^ k) ^ h ≤ p ^ h then y + 2 ^ k else y)
/-- A penalty after one millisecond, p·2^(-1/h): the whole units below it, and one more where it is not whole and the device
rounds up. (DESIGN CHOICE, log 62, unsafe) -/
def flapDecay (p h : Nat) : Nat :=
  let y := decayFrom p h 47 0
  if 2 * y ^ h = p ^ h then y else y + b2n (Config.flapUp p h)

/-- One millisecond of decay of a port's penalty (R252). (DEDUCED, log 61, safe) -/
def State.flapPort (s : State) (p : Nat) : State :=
  let half := max 1 (s.rf .oeDamp [p / 64] 0 16)
  let s := s.updPort p fun x => { x with penalty := flapDecay x.penalty half }
  let x := s.port p
  if x.suppressed && (x.penalty ≤ flapUnits 750 || !s.rb .oeDamp [p / 64] 16) then
    (s.updPort p fun x => { x with suppressed := false }).trainEval p
  else s

/-- FLAP_EVALUATION: the millisecond evaluation of every port. (DESIGN CHOICE, log 62, unsafe) -/
def execFlapEvaluation (s : State) : Res :=
  done ((s.ports.map (·.1)).foldl (fun (s : State) p => if (s.port p).penalty ≠ 0 || (s.port p).suppressed then s.flapPort p else s) s)

end Sys2Proof.Machine
end

