-- ==== Sys2Proof/Machine/Optics.lean ====
section
/-! DEFINITION. Optical engines and the racking mesh (R253 to R272): ring lock, laser levels, fade, spares and hand-overs,
recalibration, mesh maps and eye safety. -/
namespace Sys2Proof.Machine

/-! ### Whether the optics act -/

/-- The engines' controllers and the optical domain run: no reach stands up to its step 9, and not in P2 or P3 (R272, R437).
(DEDUCED, log 63, safe) -/
def State.opticsLive (s : State) : Bool := !s.coreHeld && s.pwr.state ≠ 2 && s.pwr.state ≠ 3

/-- Mesh group of a fibre. -/
def groupOf (fibre : Nat) : Nat := fibre / 4

/-- The ring's controller acts: its group is neither in block reset nor recalibrating. (DEDUCED, log 63, safe) -/
def State.ringLive (s : State) (r : RingId) : Bool :=
  let g := s.mesh (groupOf r.fibre.toNat)
  s.opticsLive && !g.inReset && g.recal.isNone && !bit s.rst.quadInReset.toNat (r.fibre.toNat / 64)

/-- An event of a ring in its state: the ring as it becomes. (DEDUCED, log 63, safe) -/
def State.ringEvent (s : State) (r : RingId) (f : MicroRing → MicroRing) : State :=
  if s.ringLive r then s.updMicroRing r f else s

/-- Retires a ring's lane, with its error record (R254). (DEDUCED, log 63, safe) -/
def State.retireRing (s : State) (r : RingId) : State :=
  let x := s.microRing r
  (s.updMicroRing r fun x => { x with state := .retired }).errorAt 0x08 sevContained (BitVec.ofNat 8 (r.fibre.toNat / 64))
    [(32, [1]), (33, leBytes 1 (r.fibre.toNat / 16)), (34, leBytes 1 (r.fibre.toNat % 16)), (35, leBytes 1 r.lane.toNat),
     (36, leBytes 2 x.tones.toNat)]

/-! ### Ring lock (R254) -/

/-- RING_LIGHT_PRESENT. -/
def execRingLightPresent (r : RingId) (s : State) : Res :=
  done (s.ringEvent r fun x => if x.state = .dark then { state := .sweep } else x)

/-- RING_RESONANCE. -/
def execRingResonance (r : RingId) (s : State) : Res :=
  done (s.ringEvent r fun x => if x.state = .sweep then { x with state := .identify } else x)

/-- RING_SWEEP_END: the whole heater range without a resonance. -/
def execRingSweepEnd (r : RingId) (s : State) : Res :=
  done (if s.ringLive r && (s.microRing r).state = .sweep then s.retireRing r else s)

/-- One tone seen is noted for the record a retirement writes. -/
def seeTone (x : MicroRing) (t : BitVec 4) : MicroRing :=
  { x with state := .step, steps := x.steps + 1, tones := x.tones ||| BitVec.ofNat 16 (2 ^ t.toNat) }

/-- A laser that carries its channel. -/
def Laser.carries (l : Laser) : Bool := l.state = .lit || l.state = .warned || l.state = .spareActive

/-- A laser at its first lock after power-on: the level then is its reference, until it is commissioned (R256). -/
def firstLock (level : Int) (l : Laser) : Laser := if l.ref.isNone then { l with ref := some level, meas := level } else l

/-- A transmit ring has locked: the laser that carries its channel in the ring's engine may have its first lock. -/
def State.lockSeen (s : State) (r : RingId) (level : Int) : State :=
  let o := r.fibre.toNat / 16
  if r.rx || (s.microRing r).state ≠ .locked then s
  else (List.range 10).foldl (fun (s : State) n =>
    if (s.laser o n).carries && (s.laser o n).channel.toNat = r.lane.toNat then s.updLaser o n (firstLock level) else s) s

/-- RING_TONE_RESULT: the tone detected, or none, and the measured level of the laser of the ring's channel (R254, R256).
(DEDUCED, log 63, safe) -/
def execRingToneResult (r : RingId) (o : ToneObs) (s : State) : Res :=
  let t := s.ringEvent r fun x =>
    match x.state, o.tone with
    | .identify, some t => if t.toNat = r.lane.toNat then { state := .locked } else seeTone x t
    | .identify, none => { x with state := .sweep }
    | .locked, some t => if t.toNat = r.lane.toNat then x else seeTone x t
    | _, _ => x
  done (if s.ringLive r then t.lockSeen r o.level else t)

/-- RING_STEP: the heater has moved by one channel, or the ring has stepped too often. -/
def execRingStep (r : RingId) (s : State) : Res :=
  let x := s.microRing r
  done (if !(s.ringLive r && x.state = .step) then s
    else if x.steps ≤ 8 then s.updMicroRing r fun x => { x with state := .identify } else s.retireRing r)

/-- RING_TONE_LOST: no tone for 1 ms with light present. -/
def execRingToneLost (r : RingId) (s : State) : Res :=
  done (s.ringEvent r fun x => if x.state = .locked then { x with state := .sweep } else x)

/-- RING_LIGHT_LOST: light absent for 10 µs. -/
def execRingLightLost (r : RingId) (s : State) : Res :=
  done (s.ringEvent r fun x => if x.state = .retired then x else { x with state := .dark })

/-! ### Lasers (R256 to R261) -/

/-- OE_CTRL. -/
def State.trackEn (s : State) (o : Nat) : Bool := s.rb .oeCtrl [o] 1
def State.spareEn (s : State) (o : Nat) : Bool := s.rb .oeCtrl [o] 2
/-- Warning level and fade limit, in 0.01 dB below the reference (OE_FADE). -/
def State.fadeWarn (s : State) (o : Nat) : Int := (max 10 (s.rf .oeFade [o] 0 8) : Nat)
def State.fadeLimit (s : State) (o : Nat) : Int :=
  let w := s.rf .oeFade [o] 0 8
  ((if s.rf .oeFade [o] 8 8 < w + 10 then w + 10 else s.rf .oeFade [o] 8 8 : Nat) : Int)

/-- STATE of OE_LSR. -/
def LsrState.code : LsrState → Nat
  | .off => 0 | .lit => 1 | .warned => 2 | .handing => 3 | .replaced => 4 | .retired => 5 | .spareIdle => 6 | .spareActive => 7

/-- The level as a signed count of 0.01 dB. -/
def Laser.cdb (l : Laser) : Int := sgn l.level.toNat 16

/-- A LASER event (R333). (DEDUCED, log 64, unsafe) -/
def State.laserEvent (s : State) (o n : Nat) (channel : BitVec 4) (kind : Nat) : State :=
  s.event 0x04 [(16, leBytes 1 o), (17, leBytes 1 n), (18, leBytes 1 channel.toNat), (19, leBytes 1 kind),
    (20, leBytes 2 (s.laser o n).level.toNat)]

/-- Writes a laser's lasting state into both copies of the module's non-volatile record (R256, R261, R368). -/
def State.keepLaser (s : State) (o n : Nat) : State :=
  let l := s.laser o n
  let kept : Laser :=
    { state := if l.state = .replaced || l.state = .retired then l.state else if l.channel = 0xF then .spareIdle else .off,
      channel := l.channel, commissioned := l.commissioned, ref := l.ref, meas := l.ref.getD 0 }
  { s with nvLasers := SMap.set s.nvLasers (10 * o + n) kept (laserReset n)
           nvSecond := SMap.set s.nvSecond (10 * o + n) kept (laserReset n) }

/-- The idle spare with the lower number, of those `ok` admits. -/
def State.idleSpare (s : State) (o : Nat) (ok : Nat → Bool) : Option Nat :=
  [8, 9].find? fun n => (s.laser o n).state = .spareIdle && ok n

/-- Starts a hand-over of laser n to a spare. (DEDUCED, log 64, unsafe) -/
def State.handTo (s : State) (o n spare tries : Nat) : State :=
  (s.updLaser o spare fun l => { l with state := .handing }).updEngine o fun e =>
    { e with handover := some { laser := n, spare, step := 1, tries }, warned := e.warned.filter (· ≠ n) }

/-- Starts the hand-over of the laser that has waited longest, if none runs, a spare is idle and SPARE_EN is 1 (R257).
(DEDUCED, log 64, unsafe) -/
def State.nextHandover (s : State) (o : Nat) : State :=
  let e := s.engine o
  if e.handover.isSome || !s.spareEn o then s
  else
    match e.warned, s.idleSpare o fun _ => true with
    | n :: _, some sp => s.handTo o n sp 0
    | _, _ => s

/-- Retires the channel of laser n in engine o. Where `widths` says so its lanes leave the ports' widths, and the laser stays alight
until they have (R251, R258). (DEDUCED, log 64, unsafe) -/
def State.retireChannel (s : State) (o n : Nat) (widths : Bool) : State :=
  let l := s.laser o n
  let ports := (s.armedPorts o).filter fun p => bit (s.portLanes p) l.channel.toNat
  let s := if widths then ports.foldl (fun (s : State) p => s.dropLane p l.channel.toNat) s else s
  let s := (s.updLaser o n fun l => { l with state := .retired, lingers := widths }).dousedAt o
  let s := s.updEngine o fun e => { e with warned := e.warned.filter (· ≠ n) }
  let s := (s.keepLaser o n).errorAt 0x08 sevContained (BitVec.ofNat 8 (o / 4))
    [(32, [2]), (33, leBytes 1 o), (34, leBytes 1 n), (35, leBytes 1 l.channel.toNat)]
  s.laserEvent o n l.channel 5

/-- The measured level of one laser: a warning, and retirement at the limit when no hand-over can start (R257, R258). -/
def State.measure (s : State) (o n : Nat) (level : Int) : State :=
  if !(s.laser o n).carries then s
  else
    let s := s.updLaser o n fun l => { l with meas := level }
    let x := s.laser o n
    if x.state = .warned || x.cdb > -(s.fadeWarn o) then s
    else
      let s := (s.updLaser o n fun l => { l with state := .warned }).laserEvent o n x.channel 1
      s.updEngine o fun e => { e with warned := e.warned ++ [n] }

/-- A warned laser at the fade limit whose hand-over cannot start has its channel retired (R258). -/
def State.limitCheck (s : State) (o n : Nat) : State :=
  let x := s.laser o n
  let e := s.engine o
  let handing := match e.handover with | some h => h.laser = n | none => false
  let waits := e.warned.contains n && s.spareEn o && (s.idleSpare o fun _ => true).isSome
  if x.state = .warned && x.cdb ≤ -(s.fadeLimit o) && !handing && !waits then s.retireChannel o n true else s

/-- The firmware raises the recalibration-due event of a group, once until it is recalibrated (R24, R264). -/
def State.recalDue (s : State) (o m : Nat) (causes : BitVec 3) : State :=
  if causes = 0 || !s.hif.fwReady || (s.mesh (4 * o + m)).due ≠ 0 then s
  else (s.updMesh (4 * o + m) fun g => { g with due := causes }).event 0x05
    [(16, leBytes 1 o), (17, leBytes 1 m), (18, leBytes 1 causes.toNat)]

/-- LEVEL_MEASUREMENT of engine o (R257, R258, R262, R264). -/
def execLevelMeasurement (o : Engine) (obs : LevelObs) (s : State) : Res :=
  let on := o.toNat
  if !(s.opticsLive && s.trackEn on) || bit s.rst.quadInReset.toNat (on / 4) then done s
  else
    let s := (List.range 10).foldl (fun (s : State) n =>
      match obs.levels[n]? with | some l => s.measure on n l | none => s) s
    let s := s.nextHandover on
    let s := (List.range 10).foldl (fun (s : State) n => s.limitCheck on n) s
    done ((List.range 4).foldl (fun (s : State) m => s.recalDue on m (nthD obs.causes m 0)) s)

/-! ### Hand-over (R259, R260) -/

/-- A step of a hand-over fails: the spare goes off, is retired at its second failure, and the hand-over is retried once,
with the other spare if it is idle (R260). (DEDUCED, log 64, unsafe) -/
def State.handFails (s : State) (o : Nat) (h : Handover) : State :=
  let ch := (s.laser o h.laser).channel
  let s := s.updLaser o h.spare fun l => { l with fails := l.fails + 1, state := .spareIdle }
  let s := s.laserEvent o h.spare ch 3
  let s :=
    if 2 ≤ (s.laser o h.spare).fails then
      ((s.updLaser o h.spare fun l => { l with state := .retired }).keepLaser o h.spare).laserEvent o h.spare ch 4
    else s
  let s := s.updEngine o fun e => { e with handover := none }
  let again := (s.idleSpare o (· ≠ h.spare)).or (s.idleSpare o fun _ => true)
  match h.tries, again with
  | 0, some sp => s.handTo o h.laser sp 1
  | _, _ => s.nextHandover o

/-- HANDOVER_STEP: the present step has met its end; at the identity step, whether the idle tone was the only one.
(DEDUCED, log 64, unsafe) -/
def execHandoverStep (o : Engine) (onlyTone : Bool) (s : State) : Res :=
  let on := o.toNat
  match (s.engine on).handover with
  | none => done s
  | some h =>
    if !s.opticsLive || 4 ≤ h.step then done s
    else if h.step = 2 && !onlyTone then done (s.handFails on h)
    else done (s.updEngine on fun e => { e with handover := some { h with step := h.step + 1 } })

/-- CROSS_FADE_STEP: one of the 256 steps of 1 µs, with the spare's measured level; at the last the spare carries the channel and
that level is its reference (R256, R259). -/
def execCrossFadeStep (o : FadeObs) (s : State) : Res :=
  let on := o.engine.toNat
  match (s.engine on).handover with
  | none => done s
  | some h =>
    if !s.opticsLive || h.step ≠ 4 then done s
    else if h.fade + 1 < 256 then
      done (s.updEngine on fun e => { e with handover := some { h with fade := h.fade + 1 } })
    else
      let ch := (s.laser on h.laser).channel
      let s := s.updLaser on h.laser fun l => { l with state := .replaced, channel := if h.laser < 8 then ch else 0xF }
      let s := s.updLaser on h.spare fun l => { l with state := .spareActive, channel := ch, ref := some o.level, meas := o.level }
      let s := s.updEngine on fun e => { e with handover := none }
      let s := ((s.keepLaser on h.laser).keepLaser on h.spare).laserEvent on h.spare ch 2
      done (s.nextHandover on)

/-- HANDOVER_STEP_TIMEOUT: a step passes its bound. -/
def execHandoverStepTimeout (o : Engine) (s : State) : Res :=
  match (s.engine o.toNat).handover with
  | none => done s
  | some h => done (if !s.opticsLive || 4 ≤ h.step then s else s.handFails o.toNat h)

/-- LASER_FAILURE: laser n has given no light for 10 µs (R258). (DEDUCED, log 64, unsafe) -/
def execLaserFailure (o : Engine) (n : BitVec 4) (s : State) : Res :=
  let on := o.toNat
  let nn := n.toNat
  if !s.opticsLive || 10 ≤ nn || !(s.laser on nn).carries then done s
  else
    let s :=
      match (s.engine on).handover with
      | some h =>
        if h.laser = nn then
          (s.updLaser on h.spare fun l => { l with state := .spareIdle }).updEngine on fun e => { e with handover := none }
        else s
      | none => s
    done ((s.retireChannel on nn false).nextHandover on)

/-! ### Light on and off (R270, R271, R358) -/

/-- A laser as it goes off. -/
def laserDark (l : Laser) : Laser :=
  let l := { l with lingers := false }
  if l.carries then { l with state := .off } else if l.state = .handing then { l with state := .spareIdle } else l
/-- Laser n as it is lit: a DFB, or a spare that has a channel. -/
def lightOf (n : Nat) (l : Laser) : Laser :=
  if l.state = .off then { l with state := if n < 8 then .lit else .spareActive } else l

/-- Every laser of an engine goes off; a hand-over is abandoned (R260, R270). -/
def State.lasersOff (s : State) (o : Nat) : State :=
  let s := (List.range 10).foldl (fun (s : State) n => s.updLaser o n laserDark) s
  s.updEngine o fun e => { e with handover := none, warned := [] }

/-- The engine's lasers are lit where TX_ON is 1, LASER_EN is high, its record holds and the optical domain lights (R271). -/
def State.lasersOn (s : State) (o : Nat) : State :=
  if (s.engine o).txOn && s.pins.laserEn && !(s.engine o).nvLost && s.opticsLive &&
      (s.rst.reach.isNone || 11 ≤ s.rst.step) then
    (List.range 10).foldl (fun (s : State) n => s.updLaser o n (lightOf n)) s
  else s

/-- The ports of an engine after a change of what light is allowed. -/
def State.enginePorts (s : State) (o : Nat) : State := (s.armedPorts o).foldl (fun (s : State) p => s.lightEval p) s
/-- The armed ports of a mesh group after its light changed (R263, R271). -/
def State.groupPorts (s : State) (g : Nat) : State :=
  ((s.armedPorts (g / 4)).filter fun p => p / 16 = g).foldl (fun (s : State) p => s.lightEval p) s

/-- LASER_EN_LOW: LASER_EN has been low for 1 µs (R270). -/
def execLaserEnLow (s : State) : Res :=
  let s := { s with pins := { s.pins with laserEn := false } }
  done ((List.range 16).foldl (fun (s : State) o =>
    ((s.lasersOff o).updEngine o fun e => { e with txOn := false, trip := true }).enginePorts o) s)

/-- LASER_EN_HIGH: LASER_EN has been high for 1 ms; the lasers stay off until TX_ON is written (R270, R357). -/
def execLaserEnHigh (s : State) : Res := done { s with pins := { s.pins with laserEn := true } }

/-- The registers of engine o are held (R349, R361). -/
def State.engineHeld (s : State) (o : Nat) : Bool := s.coreHeld || s.pwr.state = 3 || bit s.rst.quadInReset.toNat (o / 4)

/-- TX_ON_WRITE (R270, R271, R358, R368). (DEDUCED, log 64, unsafe) -/
def execTxOnWrite (o : Engine) (on : Bool) (s : State) : Res :=
  let k := o.toNat
  done (s.host fun s =>
    if s.engineHeld k || (on && (!s.pins.laserEn || (s.engine k).nvLost)) then s.ignoredWrite
    else
      let s := s.updEngine k fun e => { e with txOn := on }
      (if on then s.lasersOn k else s.lasersOff k).enginePorts k)

/-- LASER_COMMISSION: the present level of every lit laser of the named engines becomes its reference, in the non-volatile record
(R256). A quadrant held refuses it (R355). -/
def execLaserCommission (c : CmdRing) (s : State) : Res :=
  done (s.withCmd c 0x20 anySub fun s d ref =>
    let mask := leAt d 8 2
    if (List.range 16).any fun o => bit mask o && (s.pwr.state = 3 || bit s.rst.quadInReset.toNat (o / 4)) then s.refuse ref .state 0 else
    let one (o : Nat) (s : State) (n : Nat) : State :=
      if (s.laser o n).carries then
        (s.updLaser o n fun l => { l with ref := some l.meas, commissioned := true }).keepLaser o n
      else s
    ((List.range 16).foldl (fun (s : State) o => if bit mask o then (List.range 10).foldl (one o) s else s) s).succeed ref)

/-! ### Recalibration and mesh maps (R263 to R268) -/

/-- The normal map (R265). -/
def normalMap : BitVec 24 := 0xFAC688
/-- The map sends the inputs one to one. -/
def oneToOne (m : BitVec 24) : Bool := noDup ((List.range 8).map (mapOut m))
/-- Fibres of a group whose paths a change from one map to another alters. -/
def alteredFibres (a b : BitVec 24) : List Nat :=
  (List.range 4).filter fun j => (List.range 8).any fun i =>
    mapOut a i ≠ mapOut b i && (i % 4 = j || mapOut a i % 4 = j || mapOut b i % 4 = j)
/-- A port of fibre f is armed. -/
def State.fibreArmed (s : State) (f : Nat) : Bool := (List.range 4).any fun k => (s.port (4 * f + k)).armed
/-- Group g is held: block reset, its quadrant's, or unpowered in P3 (R355, R437). -/
def State.groupDown (s : State) (g : Nat) : Bool := (s.mesh g).inReset || s.quadDown (g / 16)

/-- The rings of a group's four fibres. -/
def groupRings (g : Nat) : List RingId :=
  (List.range 64).map fun k => ⟨BitVec.ofNat 8 (4 * g + k / 16), bit k 3, BitVec.ofNat 3 (k % 8)⟩
/-- The group's rings become DARK (R263, R353). -/
def State.ringsDark (s : State) (g : Nat) : State := (groupRings g).foldl (fun (s : State) r => s.updMicroRing r fun _ => {}) s

/-- The lowest armed port of a mesh group: the DETAIL of a refusal for it (R332). -/
def State.armedIn (s : State) (g : Nat) : Nat := s.armedPort fun p => p / 16 = g

/-- GROUP_RECAL (R263). -/
def execGroupRecal (c : CmdRing) (s : State) : Res :=
  done (s.withCmd c 0x21 anySub fun s d ref =>
    let o := leAt d 8 1
    let m := leAt d 9 1
    let g := 4 * o + m
    let x := s.mesh g
    if 16 ≤ o || 4 ≤ m then s.refuse ref .range 0
    else if (List.range 4).any fun j => s.fibreArmed (4 * g + j) then s.refuse ref .arming (s.armedIn g)
    else if s.groupDown g || x.map ≠ normalMap || x.prev.isSome || (List.range 4).any fun k => (s.mesh (4 * o + k)).recal.isSome then
      s.refuse ref .state 0
    else s.updMesh g fun x => { x with recal := some ref })

/-- RECAL_COMPLETE: the group's rings are DARK and its map is normal (R263, R264). -/
def execRecalComplete (o : Engine) (m : BitVec 2) (s : State) : Res :=
  if !s.hif.fwReady then done s else
  let g := 4 * o.toNat + m.toNat
  match (s.mesh g).recal with
  | none => done s
  | some ref =>
    let s := s.ringsDark g
    done (((s.updMesh g fun x => { x with recal := none, due := 0, map := normalMap }).groupPorts g).succeed ref)

/-- A map takes the group's mesh; it settles, and a command may wait for the check (R267). (DEDUCED, log 65, unsafe) -/
def State.meshTo (s : State) (g : Nat) (map : BitVec 24) (ref : Option CmdRef) : State :=
  s.updMesh g fun x => { x with prev := some (x.map, ref.or (x.prev.bind (·.2))), map := map, settled := false }

/-- Instance n of a plan has left FREE and has not ended. (DEDUCED, log 65, unsafe) -/
def instOpen (p : Plan) (n : Nat) : Bool := p.insts.any fun i => i.n = n && i.state ≠ .ended

/-- MESH_SET (R265, R266, R268). (DEDUCED, log 65, unsafe) -/
def execMeshSet (c : CmdRing) (s : State) : Res :=
  done (s.withCmd c 0x22 anySub fun s d ref =>
    let o := leAt d 8 1
    let m := leAt d 9 1
    let g := 4 * o + m
    let map : BitVec 24 := BitVec.ofNat 24 (leAt d 12 4)
    let slot := leAt d 16 2
    let n := leAt d 20 4
    let planBound := bit (leAt d 10 1) 0
    let x := s.mesh g
    let mine : BoundMap := { slot, n, map }
    if 16 ≤ o || 4 ≤ m || 1 < leAt d 10 1 || 2 ^ 24 ≤ leAt d 12 4 || !oneToOne map ||
        (planBound && (4096 ≤ slot || 2 ^ 20 ≤ n)) then s.refuse ref .range 0
    else if (alteredFibres x.map map).any fun j => s.fibreArmed (4 * g + j) then
      s.refuse ref .arming (s.armedPort fun p => (alteredFibres x.map map).contains (p / 4 - 4 * g) && p / 16 = g)
    else if s.groupDown g || x.recal.isSome || x.prev.isSome then s.refuse ref .state 0
    else if !planBound then
      (s.updMesh g fun x =>
        { x with bound := x.bound.filter (·.prev.isNone), kept := x.bound.filter (·.prev.isSome) }).meshTo g map (some ref)
    else
      match SMap.find s.plans slot with
      | none => s.refuse ref .state 0
      | some p =>
        if instOpen p n then
          (s.updMesh g fun x => { x with bound := x.bound ++ [{ mine with prev := some x.map }] }).meshTo g map (some ref)
        else (s.updMesh g fun x => { x with bound := x.bound ++ [mine] }).succeed ref)

/-- A group whose settling map goes back to the previous one; plan-bound maps that it had replaced are bound again, and one that it
had applied is not (R267, R331). (DEDUCED, log 65, unsafe) -/
def meshBack (old : BitVec 24) (x : MeshSt) : MeshSt :=
  { x with prev := none, settled := true, map := old, bound := x.kept ++ x.bound.filter (·.prev ≠ some old), kept := [] }

/-- MESH_SETTLE_CHECK: the check of the altered paths ends, with the first input outside its bound if one is (R267).
(DEDUCED, log 65, unsafe) -/
def execMeshSettleCheck (o : Engine) (m : BitVec 2) (bad : Option (BitVec 3)) (s : State) : Res :=
  if !s.hif.fwReady then done s else
  let g := 4 * o.toNat + m.toNat
  match (s.mesh g).prev with
  | none => done s
  | some (old, ref) =>
    match bad with
    | none =>
      let s := s.updMesh g fun x => { x with prev := none, settled := true, kept := [] }
      done (match ref with | some r => s.succeed r | none => s)
    | some i =>
      let s := s.updMesh g (meshBack old)
      let s := s.errorAt 0x08 sevContained (BitVec.ofNat 8 (o.toNat / 4)) [(32, [3]), (33, leBytes 1 o.toNat)]
      done (match ref with | some r => s.complete r .checkFailed (leBytes 1 i.toNat) | none => s)

/-! ### Quiesce and release of a die-to-die bundle (R290) -/

/-- Both directions of bundle b between x and y. -/
def State.updPair (s : State) (x y b : Nat) (f : BundleSt → BundleSt) : State := (s.updBundle x y b f).updBundle y x b f

/-- What the two commands share: their checks, then `q` for both directions, and the weights (R130). -/
def State.quiesceTo (s : State) (d : List Byte) (ref : CmdRef) (q : Bool) : State :=
  let x := leAt d 8 1
  let y := leAt d 9 1
  let b := leAt d 10 1
  if 4 ≤ x || 4 ≤ y || x = y || 64 ≤ b || 1 < leAt d 11 1 then s.refuse ref .range 0
  else if (s.bundle x y b).inReset || s.quadStill x || s.quadStill y then s.refuse ref .state 0
  else ((s.updPair x y b fun z => { z with quiesced := q }).reweight).succeed ref

/-- BUNDLE_QUIESCE: byte 11 is not 0x00. -/
def execBundleQuiesce (c : CmdRing) (s : State) : Res :=
  done (s.withCmd c 0x23 (fun d => leAt d 11 1 ≠ 0) fun s d ref => s.quiesceTo d ref true)

/-- BUNDLE_RELEASE: byte 11 is 0x00. -/
def execBundleRelease (c : CmdRing) (s : State) : Res :=
  done (s.withCmd c 0x23 (fun d => leAt d 11 1 = 0) fun s d ref => s.quiesceTo d ref false)

end Sys2Proof.Machine
end

