-- ==== Sys2Proof/Machine/Kiln.lean ====
section
/-! DEFINITION. The Kiln arrays (R217 to R239): hand-over of partials, tile issue and output, duty, tests and retirement. -/
namespace Sys2Proof.Machine

/-! ### Streams -/

/-- The plan's stream in a quadrant, by direction: key and stream. -/
def State.planStream (s : State) (slot q : Nat) (recv : Bool) : Option (Nat × KStream) :=
  s.kstreams.find? fun k => k.1 / 64 = q && k.2.slot = slot && k.2.recv = recv
/-- The next tile an array may issue: the oldest of the tiles in its operand buffer, intermediate or not (R227, R230).
(DEDUCED, log 54, safe) -/
def State.nextTile (s : State) (key : Nat) : Option (Nat × Tile) :=
  let x := s.array key
  if x.state ≠ .reserved then none
  else
    (x.mid ++ x.opbuf).foldl (fun (b : Option (Nat × Tile)) t =>
      match b with | none => some t | some u => if t.1 < u.1 then some t else b) none

/-- KILN_PARTIAL_HANDOVER: the chunk's partial is rounded to BF16 and enters its send stream (R212, R228, R229).
(DEDUCED, log 50, unsafe) -/
def execKilnPartialHandover (slot : PlanSlot) (n : InstNo) (c : BitVec 43) (s : State) : Res :=
  if !s.live then done s else
  let (slot, n, c) := (slot.toNat, n.toNat, c.toNat)
  match s.plan slot with
  | none => done s
  | some p =>
    match findInst p n, p.img.kiln with
    | some i, some prog =>
      match findChunk i c with
      | none => done s
      | some ch =>
        if !(level0Done p.img i ch && partialDone p.img i ch) || ch.ringSent || ch.result.isSome || ringK p.img c = 0 ||
            p.img.ringForm ≠ 3 then done s
        else
          match s.planStream slot ch.quad false with
          | none => done s
          | some (key, st) =>
            let len := ch.elems.length
            let cs := ch.elems.map fun e => encodeFloat bf16 (resultOf 0x01 (resolve e))
            let fl := cs.foldl (fun f x => f ||| x.2) afHopRounded
            let tiles := (chunkTiles prog len).map fun t =>
              let d : List W32 := (sl8 (cs.map (·.1)) (t.2.1 * kGroup prog) (t.2.2 * kGroup prog)).map (BitVec.ofNat 32)
              ({ slot, n, c, t := t.1, group := t.2.1, groups := t.2.2, pass := 1, data := d } : Tile)
            -- the chunk waits for its first tile's room; its later tiles follow as room appears
            if !st.feed.isEmpty || tiles.head?.any (fun t => !s.tileRoom prog key st t) then done s
            else
              let s := (s.updKstream key fun k => { k with feed := tiles }).updChunk slot n c fun ch =>
                { ch with ringSent := true, elems := ch.elems.map resolve }
              done ((s.arithFlags slot n fl).pump prog key)
    | _, _ => done s
where
  /-- A slice of a list of codes. -/
  sl8 (l : List Nat) (o n : Nat) : List Nat := (l.drop o).take n

/-- KILN_TILE_ISSUE: the array takes its next tile under R230: its vectors are in the operand buffer, the output buffer has room
for its outputs, and the stream buffer has kept the space of its coded outputs. A test that waits or runs by force goes first
(R237). (DEDUCED, log 54, safe) -/
def execKilnTileIssue (q : Quad) (a : BitVec 8) (s : State) : Res :=
  if !s.live then done s else
  let key := arrKey q a
  let x := s.array key
  match s.nextTile key with
  | none => done s
  | some (num, t) =>
    if !(x.duty = 8 && !x.forced && x.issued.length < 2) then done s
    else
      let s := s.updArray key fun x =>
        -- a test that the tile abandons counts as not run (R237)
        { x with issued := x.issued ++ [(num, t)], mid := x.mid.filter (·.1 ≠ num), opbuf := x.opbuf.filter (·.1 ≠ num),
                 testing := false, lowering := false, lastTest := if x.testing then none else x.lastTest }
      done s

/-- Splits a tile's data into vectors of w values. -/
def vecsOf (w : Nat) (d : List W32) : List (List Nat) := (chunksOf w d.length d).map fun v => v.map BitVec.toNat
/-- The vectors that pass 2 gathers from intermediate vectors, group by group. -/
def gatherAll (vs : List (List Nat)) : List (List Nat) :=
  (chunksOf 16 vs.length vs).flatMap fun g => (List.range 16).map (gather g)

/-- Groups of a send tile that hold a special value in the given vectors. -/
def badGroups (x : FloatFmt) (perGroup : Nat) (vs : List (List Nat)) : List Bool :=
  (chunksOf perGroup vs.length vs).map fun g => g.any fun v => v.any (kSpecial x)

/-- Flags of the BF16 roundings of intermediates, groups that `skip` picks left out. -/
def roundFlags (skip : Nat → Bool) (perGroup : Nat) (outs : List (List Nat)) : Nat :=
  ((outs.mapIdx fun j v => (j, v)).filter fun x => !skip (x.1 / perGroup)).foldl
    (fun f x => x.2.foldl (fun f o => f ||| (kBf16 o).2) f) 0

/-- A part of a Kiln leg's ring message joins the message's open request, or opens it (R37). -/
def State.openPart (s : State) (slot q dst : Nat) (x : W32) : State :=
  let mine (o : OpenReq) : Bool := o.quad = q && o.dst = dst && !o.status && o.last + 1 = x
  match (s.plan slot).bind fun p => p.opens.find? mine with
  | none => s.openReq slot q dst false [x]
  | some _ => s.updPlan slot fun p => { p with opens := updWhere p.opens mine fun o => { o with last := x, frames := o.frames ++ [x] } }

/-- A sent part carries every coded element it holds. -/
def State.sendCodedParts (s : State) (p : Plan) (key n c q : Nat) : State :=
  match p.img.kiln, s.inst p.slot n, s.kstream key with
  | some prog, some i, some k =>
    let total := ringLen p.img (chunkLen p.img i.extent c)
    let step := codedPart prog.codedFmt
    let have_ := k.coded.filter fun x => x.1 = n && x.2.1 = c
    (List.range (cdiv total step)).foldl (fun s j =>
      let lo := j * step
      let hi := min total (lo + step)
      let vs := (List.range (hi - lo)).filterMap fun e => (have_.find? fun x => x.2.2.1 = lo + e).map (·.2.2.2)
      if k.sent.contains (n, c, j) || vs.length ≠ hi - lo then s
      else
        let bytes := codedBytes prog.codedFmt vs
        -- each part is one frame of the chunk's ring message, LAST on the message's last part
        let h : Hdr := { op := opPutReduce, tc := p.img.resultTc, last := j + 1 = cdiv total step, job := p.img.job.toNat,
                         flow := p.slot, len := bytes.length, src := s.svcEid q svcMash,
                         dst := (p.img.ring.map (·.succ.toNat)).getD 0,
                         addr := mashAddr 0 1 ((p.img.ring.map (·.p)).getD 0) (chunkLo p.img c + lo), win := mashWin p n }
        let x := s.sendUni q h bytes none
        let s := x.1.openPart p.slot q h.dst x.2.2
        s.updKstream key fun k =>
          { k with sent := k.sent ++ [(n, c, j)],
                   coded := k.coded.filter fun x => !(x.1 = n && x.2.1 = c && lo ≤ x.2.2.1 && x.2.2.1 < hi) }) s
  | _, _, _ => s

/-- The binary32 outputs of a receive tile go to Mash, which adds them exactly (R193, R228). -/
def State.addKilnOutputs (s : State) (p : Plan) (t : Tile) (outs : List Nat) : State :=
  match s.inst p.slot t.n with
  | none => s
  | some i =>
    match p.img.kiln with
    | none => s
    | some prog =>
      let base := t.group * kGroup prog
      let add (j : Nat) (e : Elem) : Elem × Nat :=
        if base ≤ j && j < base + outs.length then contribute p.img.op e (decodeFloat fp32 127 (nthD outs (j - base) 0)) else (e, 0)
      let old := ((findChunk i t.c).map (·.elems)).getD []
      let s := s.updChunk p.slot t.n t.c fun ch =>
        { ch with elems := ch.elems.mapIdx fun j e => (add j e).1, tilesDone := insNat t.t ch.tilesDone }
      let s := s.arithFlags p.slot t.n ((old.mapIdx add).foldl (fun f x => f ||| x.2) 0)
      let tiles := chunkTiles prog (chunkLen p.img i.extent t.c)
      match (s.inst p.slot t.n).bind (findChunk · t.c) with
      | none => s
      | some ch =>
        if tiles.all fun x => ch.tilesDone.contains x.1 then
          let parts := List.range (ringParts p.img (chunkLen p.img i.extent t.c))
          let s := s.updChunk p.slot t.n t.c fun ch =>
            { ch with ringMsg := ch.ringMsg.map fun m => { m with added := parts, acked := true } }
          let s := match ch.ringMsg with
            | some m => s.sendAck ch.quad m.hdr (m.lastSeq.getD m.maxSeq) m.ecn
            | none => s
          s.advanceChunk p.slot t.n t.c
        else s

/-- A forced test that waits begins once its array is at full duty with nothing in it: tests issue only at d = 8 (R235, R237). -/
def State.beginForced (s : State) (key : Nat) : State :=
  let x := s.array key
  if x.forced && !x.testing && x.duty = 8 && x.issued.isEmpty then
    s.updArray key fun x => { x with testing := true, lowering := false, lastTest := some s.time.core }
  else s

/-- Whether a group of a receive tile is spoilt by a canonical NaN, directly or through its block (R213, R234). -/
def recvBad (prog : KilnProg) (t : Tile) : List Bool :=
  (chunksOf (kGroupCoded prog) t.data.length t.data).map fun g => g.any (kCanonical prog)

/-- KILN_TILE_OUTPUT: the outputs of the array's oldest issued tile are written (R218, R224, R232, R234).
(DEDUCED, log 54, safe) -/
def execKilnTileOutput (q : Quad) (a : BitVec 8) (s : State) : Res :=
  if !s.live then done s else
  let key := arrKey q a
  let x := s.array key
  match x.issued with
  | [] => done s
  | (num, t) :: rest =>
    let s := s.updArray key fun x => { x with issued := rest }
    let sk := kstreamKey q.toNat x.stream
    match s.plan t.slot, s.kstream sk with
    | some p, some k =>
      match p.img.kiln with
      | none => done s
      | some prog =>
        -- the room that the outputs leave is used, and a test that waits may begin
        let out (s : State) : Res := done ((s.pump prog sk).beginForced key)
        let bank (j : Nat) : List W16 := nthD x.banks (nthD prog.sendBanks j 0) []
        let later (d : List W32) (s : State) : State :=
          s.updArray key fun x => { x with mid := x.mid ++ [(num, { t with pass := 2, data := d, first := t.data })] }
        if !k.recv then
          let vs := vecsOf 16 t.data
          if prog.passes = 2 && t.pass = 1 then
            let bad := badGroups bf16 16 vs
            let outs := vs.map fun v => kRead (bank 0) false (v.map (kOf bf16))
            let mid := outs.map fun v => v.map fun o => (kBf16 o).1
            let ovf := badGroups fp32 16 outs
            -- a spoilt group is not rounded, and adds no flag of a rounding (R213, R225)
            let fl := roundFlags (fun g => nthD bad g false || nthD ovf g false) 16 outs |||
              (if (List.range ovf.length).any (fun g => nthD ovf g false && !nthD bad g false) then afOverflow else 0)
            -- a spoilt group keeps a special value in its intermediate
            let mid := mid.mapIdx fun j v => if nthD bad (j / 16) false then List.replicate 16 bf16.nan else v
            out ((later ((mid.flatMap id).map (BitVec.ofNat 32)) s).arithFlags t.slot t.n fl)
          else
            let per := if prog.passes = 2 then 16 else 1
            let inBad := badGroups bf16 per vs
            let vs := if prog.passes = 2 then gatherAll vs else vs
            let w := bank (prog.passes - 1)
            let outs := sendOutputs prog w vs
            let outBad := badGroups fp32 per (vs.map fun v => (kRead w false (v.map (kOf bf16))).take prog.lanes)
            let bad (e : Nat) : Bool := nthD inBad (e / kGroupCoded prog) false || nthD outBad (e / kGroupCoded prog) false
            let e0 := t.group * kGroupCoded prog
            let r := quantize prog p.img.seed.toNat t.c e0 outs bad
            let fl := r.2 ||| afHopRounded ||| (if inBad.any id then afHopSpread else 0) |||
              (if (List.range outBad.length).any (fun g => nthD outBad g false && !nthD inBad g false) then afOverflow + afHopSpread else 0)
            let s := s.updKstream sk fun k => { k with coded := k.coded ++ r.1.mapIdx (fun j v => (t.n, t.c, e0 + j, v)) }
            out (((s.arithFlags t.slot t.n fl).sendCodedParts p sk t.n t.c q.toNat))
        else
          let bad := recvBad prog t
          if t.pass = 1 then
            let vs := (chunksOf prog.lanes t.data.length t.data).map fun v => v.map (kDecode prog)
            let w := bank (prog.passes - 1)
            let per := if prog.passes = 2 then 16 else 1
            let outs := vs.mapIdx fun j v =>
              if nthD bad (j / per) false then List.replicate 16 fp32.nan else kRead w true v
            if prog.passes = 2 then
              let fl := roundFlags (fun g => nthD bad g false) per outs
              out ((later ((outs.flatMap fun v => v.map fun o => (kBf16 o).1).map (BitVec.ofNat 32)) s).arithFlags t.slot t.n fl)
            else
              out (s.addKilnOutputs p t (outs.flatMap id))
          else
            let vs := gatherAll (vecsOf 16 t.data)
            let outs := vs.flatMap fun v =>
              if v.all (· = bf16.nan) then List.replicate 16 fp32.nan else kRead (bank 0) true (v.map (kOf bf16))
            out (s.addKilnOutputs p t outs)
    | _, _ => done s

/-- A ring part of a Kiln leg waits for the receive stream of its quadrant; while the stream buffer has no room its frame keeps
its ingress share, and so its credits are withheld (R228, R229). -/
def State.kilnReceive (s : State) (p : Plan) (q : Nat) (x : KPart) : State :=
  match s.planStream p.slot q true, p.img.kiln with
  | some (key, _), some prog => (s.updKstream key fun k => { k with waiting := k.waiting ++ [x] }).pump prog key
  | _, _ => s.freeIngress x.ctx

/-! ### Duty (R235) -/

/-- The array has a tile or a forced test to run. -/
def State.arrayWork (s : State) (key : Nat) : Bool := (s.nextTile key).isSome || (s.array key).forced

/-- RAMP_BUDGET, 1 to 64. -/
def State.rampBudget (s : State) (q : Nat) : Nat := min 64 (max 1 (s.rf .klnRamp [q] 0 7))

/-- DUTY_STEP: the duty of an array moves by one. Arrays raise within the budget, in ascending array number; an array at full
duty whose forced test waits begins it. -/
def execDutyStep (q : Quad) (a : BitVec 8) (s : State) : Res :=
  if !s.live then done s else
  let key := arrKey q a
  let x := s.array key
  if s.arrayWork key && x.duty < 8 then
    let mine := (List.range 256).map (256 * q.toNat + ·)
    let raising := (mine.filter fun k => (s.array k).raising).length
    let before := (mine.filter fun k => k < key && !(s.array k).raising && (s.array k).duty < 8 && s.arrayWork k).length
    if x.raising || raising + before < s.rampBudget q.toNat then
      done ((s.updArray key fun x => { x with duty := x.duty + 1, raising := x.duty + 1 < 8, lowering := false }).beginForced key)
    else done s
  else if (x.lowering || x.raising) && !s.arrayWork key && !x.testing && 0 < x.duty then
    done (s.updArray key fun x => { x with duty := x.duty - 1, raising := false, lowering := 1 < x.duty })
  else done s

/-- CURRENT_HOLD_EXPIRY: an array at full duty with nothing to issue has held it for HOLD_CYC. -/
def execCurrentHoldExpiry (q : Quad) (a : BitVec 8) (s : State) : Res :=
  if !s.live then done s else
  let key := arrKey q a
  let x := s.array key
  done (if x.duty = 8 && !s.arrayWork key && x.issued.isEmpty && !x.testing then
    s.updArray key fun x => { x with lowering := true } else s)

/-! ### Tests (R236 to R238) -/

/-- IN_SERVICE_TEST begins (R237). -/
def execInServiceTest (q : Quad) (a : BitVec 8) (s : State) : Res :=
  if !s.live then done s else
  let key := arrKey q a
  let x := s.array key
  let period := max 1 (s.rf .klnKat [q.toNat] 0 16) * 2000
  let due : Bool := match x.lastTest with | none => true | some t => t + period ≤ s.time.core
  done (if s.rb .klnCtrl [q.toNat] 0 && x.duty = 8 && !s.arrayWork key && x.issued.isEmpty && due && !x.testing &&
      (x.state = .free || x.state = .reserved) then
    s.updArray key fun x => { x with testing := true, lowering := false, lastTest := some s.time.core } else s)

/-- FORCED_TEST: the array has gone KAT_FORCE_MS without a passing test: a whole test goes before its next tile, at full duty
(R235, R237). -/
def execForcedTest (q : Quad) (a : BitVec 8) (s : State) : Res :=
  if !s.live then done s else
  let key := arrKey q a
  let x := s.array key
  let force := s.rf .klnKat [q.toNat] 16 16
  done (if force ≠ 0 && x.passAt + 2000000 * force ≤ s.time.core && s.rb .klnCtrl [q.toNat] 0 &&
      (x.state = .free || x.state = .reserved) then
    (s.updArray key fun x => { x with forced := true }).beginForced key else s)

/-- The test block as every bank holds it after a start test (R217, R236). -/
def testBanks : List (List W16) := List.replicate 4 ((List.range 256).map Config.testBlock)

/-- An array to which the row map and the trim of its fuses are applied, if any (step 1 of R236). -/
def fusedArray (f : Option (Option (BitVec 4) × BitVec 2)) (x : ArraySt) : ArraySt :=
  match f with
  | some (row, skew) => { x with spareUsed := row.isSome, spareRow := row.getD 0, skew, fused := true }
  | none => { x with spareUsed := false, spareRow := 0, skew := 0, fused := false }

/-- Array `k` after its start test, which applies its fuses and loads the test block into every bank; a splice or trim that is not
in the fuses lasts to this test, and a row that fails while the spare is in use retires the array (R236). -/
def testedArray (s : State) (k : Nat) (r : StartTest) (x : ArraySt) : ArraySt :=
  let x := { fusedArray (SMap.find s.sec.fuses.arrays k) x with banks := testBanks }
  let free : ArraySt := { x with state := .free, passed := true, passAt := s.time.core, passNs := s.time.ns }
  match r with
  | .pass => free
  | .spliced row skew =>
    if x.spareUsed then { x with state := .retired, passed := false }
    else { free with spareUsed := true, spareRow := row, skew, fused := false }
  | .failed => { x with state := .retired, passed := false }

/-- The outcome of a start test on one array. -/
def State.startTest (s : State) (key : Nat) (r : StartTest) : State := s.updArray key (testedArray s key r)

/-- The banks of a plan's program, bank 3 left as it is. -/
def State.loadBanks (s : State) (key slot : Nat) : State :=
  match (s.plan slot).bind (·.img.kiln) with
  | some prog => s.updArray key fun x => { x with banks := prog.held ++ x.banks.drop prog.held.length }
  | none => s

/-- The lowest-numbered free array of a quadrant (R226). -/
def State.freeArray (s : State) (q : Nat) : Option Nat :=
  (List.range 256).find? fun a => (s.array (256 * q + a)).state = .free && (s.array (256 * q + a)).passed

/-- A KILN record (R369). -/
def State.kilnRecord (s : State) (kind key stream vector : Nat) (ns : W64) : State :=
  s.errorAt 0x06 sevContained (BitVec.ofNat 8 (key / 256))
    [(32, leBytes 1 kind), (34, leBytes 2 key), (36, leBytes 1 stream), (37, leBytes 1 vector), (40, leBytes 8 ns.toNat)]

/-- Elements of the in-service test's vectors on bank 3, in order (R237): small integers, as the test block's are (R236). -/
def katVec (v i : Nat) : W16 := Config.testBlock (256 + 16 * v + i)

/-- The integer that an entry of bank 3 or an element of a test vector holds: exact as BF16, as E4M3 and as INT8 (R219, R236). -/
def kInt8 (x : W16) : Int := match decodeFloat bf16 127 x.toNat with | .fin v => v / 2 ^ 149 | _ => 0
/-- A transposed read in INT8: exact 32-bit integer products and sums (R218, R219). -/
def kReadInt8 (w : List W16) (x : List W16) : List Nat :=
  (List.range 16).map fun i =>
    (((List.range 16).map fun j => kInt8 (nthD w (16 * i + j) 0) * kInt8 (nthD x j 0)).sum % (2 ^ 32 : Nat)).toNat

/-- The outputs of the in-service test on a bank: 16 BF16 and 16 E4M3 vectors by the normal read, whose values the two paths take
alike, then 16 BF16 and 16 INT8 vectors by the transposed read (R219, R237). -/
def katOutputs (w : List W16) : List (List Nat) :=
  (List.range 64).map fun v =>
    let x := (List.range 16).map (katVec v)
    if v < 32 then kRead w false (x.map fun c => kOf bf16 c.toNat)
    else if v < 48 then kRead w true (x.map fun c => kOf bf16 c.toNat)
    else kReadInt8 w x

/-- An array fails its in-service test or loses a held bank (R238, R367): it leaves its stream's list and its unfinished tiles
go back; the start test runs; the array, or the lowest free one, comes to the end of the list with the plan's blocks; `kind` is
the KILN record's. A tile between its passes stays with an array that passes, as both its passes run on one array (R224); the
tile of an array that is retired starts anew from its first pass. (DEDUCED, log 54, safe) -/
def State.katFail (s : State) (key kind vector : Nat) (retest : StartTest) : State :=
  let x := s.array key
  let sk := kstreamKey (key / 256) x.stream
  let served := x.state = .reserved
  let s := if served then s.unassign sk else s
  let s := (s.updArray key fun x => { x with testing := false, forced := false, issued := [], mid := [], opbuf := [] }).startTest key retest
  let passed : Bool := (s.array key).state = .free
  let own := if passed && served then (x.issued ++ x.mid).filter (·.2.pass = 2) else []
  let back := ((x.issued ++ x.mid).filter fun t => !own.contains t).map fun t =>
    (t.1, if t.2.pass = 2 then { t.2 with pass := 1, data := t.2.first, first := [] } else t.2)
  let s := s.updArray key fun y => { y with mid := own }
  let s := if served then s.updKstream sk fun k =>
      { k with arrays := k.arrays.filter (· ≠ key % 256), tiles := back.foldl (fun l t => insTile t l) k.tiles } else s
  let slot := ((s.kstream sk).map (·.slot)).getD 0
  let reserve (s : State) (k : Nat) : State :=
    ((s.updArray k fun y => { y with state := .reserved, stream := x.stream }).loadBanks k slot).updKstream sk fun z =>
      { z with arrays := z.arrays ++ [k % 256] }
  let s := if !served then s
    else if passed then reserve s key
    else match s.freeArray (key / 256) with
      | some b => reserve s (256 * (key / 256) + b)
      | none => s
  let s := match (s.plan slot).bind (·.img.kiln) with
    | some prog => if served then s.pump prog sk else s
    | none => s
  let s := s.kilnRecord kind key x.stream vector x.passNs
  let empty : Bool := served && (match s.kstream sk with | some k => k.arrays.isEmpty | none => false)
  if empty then s.kilnRecord 3 key x.stream 0 x.passNs else s

/-- IN_SERVICE_TEST_RESULT (R237, R238). -/
def execInServiceTestResult (q : Quad) (a : BitVec 8) (r : KatResult) (s : State) : Res :=
  if !s.live then done s else
  let key := arrKey q a
  let x := s.array key
  if !x.testing then done s
  else
    match r with
    | .pass => done (s.updArray key fun x => { x with testing := false, forced := false, passAt := s.time.core, passNs := s.time.ns,
                                                      katOut := katOutputs (nthD x.banks 3 []) })
    | .abandoned => done (if x.forced then s else s.updArray key fun x => { x with testing := false, lastTest := none })
    | .fail vector retest => done (s.katFail key 1 vector.toNat retest)

end Sys2Proof.Machine
end

