-- ==== Sys2Proof/Machine/Mash.lean ====
section
/-! DEFINITION. The Mash service (R163 to R181): frames that reach it and the checks of R164, the tuns, the count phase, ring
frames, timers, and the answers to results. -/
namespace Sys2Proof.Machine

/-! ### Answers -/

/-- A Mash frame fails a check (R164, R60, R96). -/
def State.mashNack (s : State) (c : FrameCtx) (q check detail : Nat) : State :=
  let f := c.bytes
  let s := (s.freeIngress c).depart (eidDie (oDst f)) f
  match c.src with
  | .service _ => s
  | .port p =>
    let s := (s.countPort p.toNat (39 + check)).watch 2 p.toNat f true false 0xFF (0x8000 + 39 + check)
    s.nack mashPlace p.toNat (if check ≤ 11 then p.toNat / 256 else q) f (0x100 + check) detail

/-- Check 20 of R59 at the Mash service. -/
def State.mashNoWindow (s : State) (c : FrameCtx) : State :=
  let f := c.bytes
  let s := (s.freeIngress c).depart (eidDie (oDst f)) f
  match c.src with
  | .service _ => s
  | .port p => ((s.countPort p.toNat 36).watch 2 p.toNat f true false 0xFF 0x8024).nack mashPlace p.toNat (p.toNat / 256) f rWindowDenied (oWinNo f)

/-- Counts the outcome of a Mash check at the frame's ingress port (R401). (DEDUCED, log 49, unsafe) -/
def State.mashOutcome (s : State) (c : FrameCtx) (check : Nat) : State :=
  match c.src with
  | .port p => s.countPort p.toNat (39 + check)
  | .service _ => s

/-- A frame of a closed or ended instance that is acknowledged all the same (checks 7 and 8): its message's last frame draws
the ACK, and the outcome is counted (R164, R401). -/
def State.mashAckOnly (s : State) (c : FrameCtx) (check : Nat) : State :=
  let f := c.bytes
  let s := ((s.mashOutcome c check).freeIngress c).depart (eidDie (oDst f)) f
  if oLast f then s.sendAck (srcQuad c.src) (f.take 62) (oSeq f) (oEcn f) else s

/-! ### Messages (R163, R165) -/

/-- The later of two SEQ values in serial order. -/
def laterSeq (a b : W32) : W32 := if precedes a b then b else a

/-- Notes a frame of a message: a fresh part is taken. (DESIGN CHOICE, log 83, unsafe) -/
def noteMsg (m : Option MsgSt) (idx : Nat) (f : Frame) (src : IngressSrc) (k : Nat) (fresh final : Bool) : MsgSt :=
  let port := match src with | .port p => some p.toNat | .service _ => none
  let m := m.getD { idx, hdr := f.take 62, port, maxSeq := oSeq f }
  { m with hdr := if oLast f then f.take 62 else m.hdr,
           taken := if fresh then insNat k m.taken else m.taken,
           seqs := if fresh then m.seqs ++ [oSeq f] else m.seqs,
           lastSeq := if oLast f then some (match m.lastSeq with | none => oSeq f | some x => laterSeq x (oSeq f)) else m.lastSeq,
           maxSeq := laterSeq m.maxSeq (oSeq f),
           violated := m.violated || (oLast f && !final),
           ecn := m.ecn || oEcn f }

/-- Sends the ACK of a message (R163, R165). -/
def State.ackMsg (s : State) (q : Nat) (m : MsgSt) : State := s.sendAck q m.hdr (m.lastSeq.getD m.maxSeq) m.ecn

/-- The frames of a contribution are interleaved with others of their ordering domain: the SEQ values of its parts, which number
every frame of the domain (R39), are no run without a gap (R163). (DEDUCED, log 49, unsafe) -/
def interleaved (m : MsgSt) : Bool :=
  match m.seqs with
  | [] => false
  | x :: r =>
    let hi := r.foldl laterSeq x
    let lo := r.foldl (fun a b => if precedes b a then b else a) x
    (hi - lo).toNat + 1 ≠ m.seqs.length

/-- Sends the ACK of a contribution to a chunk, and counts a message violation (R163). -/
def State.ackContrib (s : State) (q : Nat) (m : MsgSt) : State :=
  let s := match m.port with
    | some p => if m.violated || m.lastSeq.isNone || interleaved m then s.countPort p 61 else s
    | none => s
  s.ackMsg q m

/-! ### Progress -/

/-- An accepted frame restarts the context timer and may end WAITING (R167, R168). -/
def State.progressed (s : State) (slot n : Nat) : State :=
  match s.plan slot with
  | none => s
  | some p =>
    s.updInst slot n fun i =>
      let i := { i with timer := s.time.core }
      if i.state ≠ .waiting then i
      else if (i.owed.filter (owesContrib p.img i)).isEmpty && !(i.owedRing && owesRing (s.stuck slot) p.img i) then
        { i with state := i.before, owed := [], owedRing := false, substituted := i.substituted || i.rebound }
      else i

/-- Notes that contributor k has sent something. -/
def State.heardFrom (s : State) (slot n k : Nat) : State := s.updInst slot n fun i => { i with heard := insNat k i.heard }

/-! ### The count phase (R174, R175) -/

/-- Answers contributor k: OFFSET and G in network order. -/
def State.answerCount (s : State) (slot n k : Nat) : State :=
  match s.plan slot, s.inst slot n with
  | some p, some i => s.statusTo p n k [(0, beBytes 8 (countOffset i k) ++ beBytes 8 i.extent)]
  | _, _ => s

/-- Moves the count phase on: the base and the grand total round the ring, WAITING or not, and the answers when both are known.
(DEDUCED, log 51, unsafe) -/
def State.settleCounts (s : State) (slot n : Nat) : State :=
  match s.plan slot with
  | none => s
  | some p =>
    match findInst p n with
    | none => s
    | some i =>
      if i.before ≠ .counting || !isOpen i then s
      else
        let total : Option Nat := (i.counts.mapM id).map List.sum
        let pos := (p.img.ring.map (·.p)).getD 0
        let h := ringH p.img
        let base := if p.img.levels = 1 || pos = 0 then some 0 else i.ringBase
        let send (s : State) (e v : Nat) : State := s.sendRing p n p.img.entryQ 1 [(e, beBytes 8 v)]
        -- the total joins the base
        let (s, grand, baseSent) := match total, base with
          | some t, some b =>
            if p.img.levels = 1 then (s, some t, true)
            else if i.baseSent then (s, i.grand, true)
            else if pos + 1 = h then (send s 1 (b + t), some (b + t), true)
            else (send s 0 (b + t), i.grand, true)
          | _, _ => (s, i.grand, i.baseSent)
        -- the grand total is forwarded by positions 0 to H - 3
        let fwd := p.img.levels = 2 && grand.isSome && pos + 3 ≤ h && !i.grandSent
        let s := if fwd then send s 1 (grand.getD 0) else s
        let s := s.updInst slot n fun i =>
          { i with ringBase := base.or i.ringBase, grand, baseSent, grandSent := i.grandSent || fwd }
        match total, base, grand with
        | some _, some _, some g =>
          if i.state ≠ .counting then s
          else if p.img.extent < g then
            (s.updInst slot n fun i => { i with countOver := true }).endInst slot n .aborted
          else
            let s := s.updInst slot n fun i => { i with state := .running, before := .running, extent := g }
            let s := (List.range p.img.contribs.length).foldl (fun s k => s.answerCount slot n k) s
            s.settleInst slot n
        | _, _, _ => s

/-! ### The checks of R164 -/

/-- A new instance, for the checks on a frame that would open it. -/
def blankInst (p : Plan) (n : Nat) : Inst :=
  { n, state := .running, before := .running, extent := p.img.extent, openNs := 0, timer := 0 }

/-- What the checks make of a frame. -/
inductive MashVerdict where
  | nack (check detail : Nat)
  | ackOnly (check : Nat)
  | count (v : Nat)
  | contrib (c k : Nat)
  | ringPart (c k : Nat) (vs : List Partial)
  | ringKiln (c k start : Nat) (vs : List W32)
  | ringResult (c k : Nat)
  deriving DecidableEq, Repr

/-- Chunk and part of a level-0 frame, when check 11 passes: its elements are exactly one part of its contributor (R163). -/
def contribPart (img : Image) (i : Inst) (f : Frame) : Option (Nat × Nat) :=
  let e := mElem f
  if img.kind = 6 then (if e = 0 && oLen f = 0 then some (0, 0) else none)
  else if i.extent ≤ e then none
  else
    let c := e / img.chunkElems
    let k := e % img.chunkElems / partElems img
    let sp := partSpan img i c (mIndex f) k
    if sp.1 < sp.2 && sp.1 = e && oLen f = fmtBytes img.inFmt (sp.2 - sp.1) then some (c, k) else none

/-- Chunk and part of a ring partial or result by its first element; the start of the part within the chunk. -/
def ringPartAt (img : Image) (i : Inst) (f : Frame) (parts step : Nat) : Option (Nat × Nat) :=
  let e := mElem f
  let c := if img.kind = 6 then 0 else e / img.chunkElems
  let o := e - chunkLo img c
  if (img.kind ≠ 6 && i.extent ≤ chunkLo img c) || o % step ≠ 0 || parts ≤ o / step then none else some (c, o / step)

/-- `n` bytes at element `o` of a chunk of `len` elements have the length of a part under form 0x02: elements in FP32 (R209). -/
def hopShape (len o n : Nat) : Bool := o % 2048 = 0 && n = 4 * min 2048 (len - o)
/-- They have the length of a Kiln-transformed part, under some coded format and number of lanes (R212, R221). -/
def kilnShape (len o n : Nat) : Bool :=
  [0x04, 0x05, 0x08, 0x09, 0x0A, 0x0B, 0x0C].any fun fmt => (List.range 16).any fun r =>
    let t := len * (r + 1) / 16
    o < t && o % codedPart fmt = 0 && n = fmtBytes fmt (min (codedPart fmt) (t - o))

/-- The payload is `n` trimmed-long records (R208). -/
def trimmedShape (n : Nat) (b : List Byte) : Bool := match readTrimmed 0 n b with | .ok _ => true | .error _ => false

/-- Checks 11 and 14 of a ring partial (R208, R209, R212, R216). Nothing in a frame names its transfer form: a part has another
form than the plan when its payload has that form's shape and not the plan's. (DEDUCED, log 49, unsafe) -/
def judgePartial (img : Image) (i : Inst) (f : Frame) : MashVerdict :=
  let c := if img.kind = 6 then 0 else mElem f / img.chunkElems
  let len := chunkLen img i.extent c
  let o := mElem f - chunkLo img c
  match ringPartAt img i f (ringParts img len) (ringPart img) with
  | none => .nack 11 0
  | some (c, k) =>
    if !takesPartial img c then .nack 11 0
    else
      let m := min (ringPart img) (ringLen img len - k * ringPart img)
      let b := (oPayload f).take (oLen f)
      if img.ringForm = 1 then
        match readTrimmed 0 m b with
        | .ok vs => .ringPart c k vs
        | .error (cause, idx) =>
          if img.kind ≠ 6 && (hopShape len o (oLen f) || kilnShape len o (oLen f)) then .nack 14 4
          else .nack 14 (cause + idx * 2 ^ 32)
      else if img.ringForm = 2 then
        if oLen f ≠ 4 * m then (if trimmedShape (min 192 (len - o)) b then .nack 14 4 else .nack 11 0)
        else .ringPart c k ((List.range m).map fun j =>
          match decodeFloat fp32 127 (leAt b (4 * j) 4) with
          | .fin v => { v } | .nan => { v := 0, nan := true } | .pinf => { v := 0, pinf := true } | .ninf => { v := 0, ninf := true })
      else
        match img.kiln with
        | none => .nack 14 4
        | some prog =>
          if oLen f = fmtBytes prog.codedFmt m then .ringKiln c k (k * ringPart img) (codedOf prog.codedFmt m b)
          else .nack 14 (if trimmedShape (min 192 (len - o)) b then 4 else 3)

/-- Check 11 of a ring result. (DEDUCED, log 49, unsafe) -/
def judgeResult (img : Image) (i : Inst) (f : Frame) : MashVerdict :=
  let c := if img.kind = 6 then 0 else mElem f / img.chunkElems
  let len := chunkLen img i.extent c
  match ringPartAt img i f (resParts img len) (partLimit img.outFmt) with
  | none => .nack 11 0
  | some (c, k) =>
    let m := min (partLimit img.outFmt) (len - k * partLimit img.outFmt)
    if !takesResult img c || oLen f ≠ (if img.kind = 6 then 0 else fmtBytes img.outFmt m) then .nack 11 0 else .ringResult c k

/-- PHASE and LEVEL are used by the plan (check 3). -/
def phaseUsed (img : Image) (phase level : Nat) : Bool :=
  match phase, level with
  | 0, 0 => true
  | 1, 0 => img.countPhase
  | 0, 1 | 2, 1 => img.levels = 2
  | 1, 1 => img.levels = 2 && img.countPhase
  | _, _ => false

/-- Checks 12 and 13 on a chunk (R164, R168). -/
def State.chunkRoom (_s : State) (p : Plan) (i : Inst) (c : Nat) : Option (Nat × Nat) :=
  if lowOf p.img i + p.img.pipeDepth ≤ c then some (12, lowOf p.img i)
  else if i.done.contains c || (findChunk i c).isSome then none
  else
    let q := (placeOf p i.n c).1
    if nthD p.img.elems q 0 < usedSlots p q + p.img.chunkElems + xSlots p.img then some (13, 0) else none

/-- Checks 1 to 14 of R164 on a frame of a loaded plan, `fenced` telling that the source's entry has FENCED = 1. Check 3 names only
a data frame that is not addressed to ENTRY_Q; the model answers a count frame with BAD_PHASE there too, as R163 addresses both to
that service. (DEDUCED, log 49, unsafe; DESIGN CHOICE, log 97, unsafe) -/
def State.judgeMash (s : State) (p : Plan) (f : Frame) (fenced : Bool) : MashVerdict :=
  let img := p.img
  let n := mInst f
  let d := instD p n
  let inst := findInst p n
  let level := mLevel f
  let phase := mPhase f
  let count := phase = 1
  let src := oSrc f
  let unloading : Bool := match p.unload with
    | none => false
    | some (abort, _) => (inst.isNone && d < 2 ^ 19) || (abort && p.cut.contains n)
  if unloading then .nack 1 0
  else if oJob f ≠ img.job.toNat then .nack 2 img.job.toNat
  else if !phaseUsed img phase level || eidDie (oDst f) ≠ img.entryQ then .nack 3 0
  else if (if level = 0 then img.contribs.length ≤ mIndex f || contribEid p n (mIndex f) ≠ src
           else (img.ring.map (·.pred.toNat)) ≠ some src) then .nack 4 (mIndex f)
  else if fenced then .nack 5 0
  else if img.ctxDepth ≤ d && d < 2 ^ 19 then .nack 6 p.base
  else if 2 ^ 19 ≤ d then (if oRetry f then .ackOnly 7 else .nack 7 0)
  else
    let st : Option CtxState := inst.map fun (i : Inst) => i.state
    let o : Option Outcome := inst.bind fun (i : Inst) => i.outcome
    if st = some CtxState.ended then
      (if oRetry f && (o = some Outcome.done || o = some Outcome.doneLost) then .ackOnly 8 else .nack 8 0)
    else
      let counting : Bool := match inst with
        | none => img.countPhase
        | some i => i.state = .counting || (i.state = .waiting && i.before = .counting)
      if !count && counting then .nack 9 0
      else if count then
        let v := beNat (oPayload f |>.take 8)
        if oLen f ≠ 8 || img.extent < v then .nack 10 0
        else if level = 0 then (if mElem f = 0 then .count v else .nack 11 0)
        else
          let pos := (img.ring.map (·.p)).getD 0
          if (mElem f = 0 && pos ≠ 0) || (mElem f = 1 && pos + 1 ≠ ringH img) then .count v else .nack 11 0
      else
        let i := inst.getD (blankInst p n)
        let v := if level = 0 then
            (match contribPart img i f with | some (c, k) => MashVerdict.contrib c k | none => .nack 11 0)
          else if phase = 0 then judgePartial img i f
          else judgeResult img i f
        -- checks 12 and 13 stand between 11 and 14
        let room (c : Nat) : Option (Nat × Nat) := s.chunkRoom p i c
        match v with
        | .nack 14 x =>
          (match room (if img.kind = 6 then 0 else mElem f / img.chunkElems) with | some (k, y) => .nack k y | none => .nack 14 x)
        | .contrib c _ | .ringPart c _ _ | .ringKiln c _ _ _ | .ringResult c _ =>
          (match room c with | some (k, y) => .nack k y | none => v)
        | _ => v

/-! ### Taking a frame -/

/-- Queues work on the tun of a chunk. (DEDUCED, log 49, unsafe) -/
def State.toTun (s : State) (ch : Chunk) (w : Work) : State :=
  s.updTun (64 * ch.quad + ch.tun) fun t => { t with queue := t.queue ++ [w] }

/-- The chunk is there to take a frame: its slot is opened if need be. -/
def State.withChunk (s : State) (slot n c : Nat) : State :=
  let s := s.openInst slot n
  match s.inst slot n with
  | none => s
  | some i => if (findChunk i c).isSome then s else s.openChunk slot n c

/-- A duplicate (check 15): counted at the port and in the quadrant (R401); a message's last frame draws its ACK once every part
is added (R164). (DEDUCED, log 49, unsafe) -/
def State.mashDup (s : State) (c : FrameCtx) (q : Nat) (added : Bool) : State :=
  let f := c.bytes
  let s := (((s.mashOutcome c 15).countQuad q 44).freeIngress c).depart (eidDie (oDst f)) f
  if added && oLast f then s.sendAck q (f.take 62) (oSeq f) (oEcn f) else s

/-- A contribution part passes checks 1 to 14. -/
def State.takeContrib (s : State) (c : FrameCtx) (p : Plan) (q cNo k : Nat) : State :=
  let f := c.bytes
  let (slot, n, idx) := (p.slot, mInst f, mIndex f)
  let isDone : Bool := match findInst p n with | some i => i.done.contains cNo | none => false
  if isDone then s.mashDup c q true
  else
    let s := s.withChunk slot n cNo
    match s.inst slot n with
    | none => s
    | some i =>
      match findChunk i cNo with
      | none => s
      | some ch =>
        let m := ch.msgs.find? (·.idx = idx)
        let exp := expected p.img i cNo idx
        let final := exp.getLast? = some k
        let put (s : State) (fresh : Bool) : State := s.updChunk slot n cNo fun ch =>
          { ch with msgs := ch.msgs.filter (·.idx ≠ idx) ++ [noteMsg m idx f c.src k fresh final] }
        if (match m with | some m => m.taken.contains k | none => false) then
          (put s false).mashDup c q (msgDone m exp)
        else
          let s := put s true
          let s := s.toTun ch { slot, n, c := cNo, ring := false, idx, part := k, payload := (oPayload f).take (oLen f), ctx := c }
          ((s.heardFrom slot n idx).progressed slot n).depart (eidDie (oDst f)) f

/-- A part of a ring partial passes checks 1 to 14: forms 0x01 and 0x02 go to the tun, a Kiln part to its stream. -/
def State.takePartial (s : State) (c : FrameCtx) (p : Plan) (q cNo k : Nat) (kiln : Option (Nat × List W32)) : State :=
  let f := c.bytes
  let (slot, n) := (p.slot, mInst f)
  let isDone : Bool := match findInst p n with | some i => i.done.contains cNo | none => false
  if isDone then s.mashDup c q true
  else
    let s := s.withChunk slot n cNo
    match s.inst slot n with
    | none => s
    | some i =>
      match findChunk i cNo with
      | none => s
      | some ch =>
        let parts := ringParts p.img (chunkLen p.img i.extent cNo)
        let put (s : State) (fresh : Bool) : State := s.updChunk slot n cNo fun ch =>
          { ch with ringMsg := some (noteMsg ch.ringMsg 0 f c.src k fresh (k + 1 = parts)) }
        if (match ch.ringMsg with | some m => m.taken.contains k | none => false) then
          (put s false).mashDup c q (msgDone ch.ringMsg (List.range parts))
        else
          let s := put s true
          let s := match kiln with
            | none => s.toTun ch { slot, n, c := cNo, ring := true, idx := 0, part := k, payload := (oPayload f).take (oLen f), ctx := c }
            | some (start, vs) =>
              s.kilnReceive p ch.quad { ctx := c, n, c := cNo, start, len := chunkLen p.img i.extent cNo, vals := vs }
          (s.progressed slot n).depart (eidDie (oDst f)) f

/-- A part of a ring result: the chunk holds its result once every part has come; it is delivered and forwarded (R172). -/
def State.takeResult (s : State) (c : FrameCtx) (p : Plan) (q cNo k : Nat) : State :=
  let f := c.bytes
  let (slot, n) := (p.slot, mInst f)
  let isDone : Bool := match findInst p n with | some i => i.done.contains cNo | none => false
  if isDone then s.mashDup c q true
  else
    let s := s.withChunk slot n cNo
    match s.inst slot n with
    | none => s
    | some i =>
      match findChunk i cNo with
      | none => s
      | some ch =>
        let parts := resParts p.img (chunkLen p.img i.extent cNo)
        let put (s : State) (fresh : Bool) : State := s.updChunk slot n cNo fun ch =>
          { ch with resMsg := some (noteMsg ch.resMsg 1 f c.src k fresh (k + 1 = parts)),
                    resParts := if fresh then ch.resParts ++ [(k, (oPayload f).take (oLen f))] else ch.resParts }
        if (match ch.resMsg with | some m => m.taken.contains k | none => false) then
          (put s false).mashDup c q ch.result.isSome
        else
          let s := (((put s true).freeIngress c).progressed slot n).depart (eidDie (oDst f)) f
          match (s.inst slot n).bind (findChunk · cNo) with
          | none => s
          | some ch =>
            if ch.result.isSome || ch.resParts.length < parts then s
            else
              let bytes := (List.range parts).flatMap fun j => ((ch.resParts.find? (·.1 = j)).map (·.2)).getD []
              let s := s.updChunk slot n cNo fun ch => { ch with result := some bytes, resParts := [] }
              let s := match ch.resMsg with | some m => s.ackMsg ch.quad m | none => s
              let s := if ringK p.img cNo + 1 = ringH p.img then s
                else s.sendRing p n ch.quad 2 (ringResultPieces p.img i cNo bytes)
              s.deliver slot n cNo

/-- A count frame passes checks 1 to 11 (R174, R175). -/
def State.takeCount (s : State) (c : FrameCtx) (p : Plan) (v : Nat) : State :=
  let f := c.bytes
  let (slot, n) := (p.slot, mInst f)
  let s := ((s.openInst slot n).freeIngress c).depart (eidDie (oDst f)) f
  let s := s.sendAck (srcQuad c.src) (f.take 62) (oSeq f) (oEcn f)
  match s.inst slot n with
  | none => s
  | some i =>
    if mLevel f = 0 then
      if (nthD i.counts (mIndex f) none).isSome then
        (if i.before = .running then s.answerCount slot n (mIndex f) else s)
      else
        let s := s.updInst slot n fun i => { i with counts := i.counts.set (mIndex f) (some v) }
        ((s.heardFrom slot n (mIndex f)).progressed slot n).settleCounts slot n
    else
      let old := if mElem f = 0 then i.ringBase else i.grand
      if old.isSome then s
      else
        let s := s.updInst slot n fun i => if mElem f = 0 then { i with ringBase := some v } else { i with grand := some v }
        (s.progressed slot n).settleCounts slot n

/-- MASH_FRAME: the oldest frame handed to the Mash service of quadrant q (R163 to R165). (DEDUCED, log 49, unsafe) -/
def execMashFrame (q : Quad) (s : State) : Res :=
  if !s.live then done s else
  match SMap.get s.mashIn q.toNat [] with
  | [] => done s
  | c :: rest =>
    let s := { s with mashIn := SMap.set s.mashIn q.toNat rest [] }
    let f := c.bytes
    match s.plan (mSlot f) with
    | none => done (s.mashNoWindow c)
    | some p0 =>
      if oWinKey f ≠ p0.img.key.toNat then done (s.mashNoWindow c)
      else
        -- the source's entry is read only when check 5 is reached
        let r := if s.judgeMash p0 f true = .nack 5 0 then s.homeEntry (srcQuad c.src) (eidKey (oSrc f)) else (s, none)
        let fenced : Bool := match r.2 with | some e => eFenced e | none => false
        let s := r.1
        let p := (s.plan p0.slot).getD p0
        match s.judgeMash p f fenced with
        | .nack k d => done (s.mashNack c q.toNat k d)
        | .ackOnly k => done (s.mashAckOnly c k)
        | .count v => done (s.takeCount c p v)
        | .contrib cn k => done (s.takeContrib c p q.toNat cn k)
        | .ringPart cn k _ => done (s.takePartial c p q.toNat cn k none)
        | .ringKiln cn k st vs => done (s.takePartial c p q.toNat cn k (some (st, vs)))
        | .ringResult cn k => done (s.takeResult c p q.toNat cn k)

/-! ### The tuns (R162) -/

/-- Cycles of a piece of work of an instance: 64 of the elements it holds each cycle, and at least one. -/
def workCost (p : Plan) (w : Work) : Nat :=
  let n := match findInst p w.n with
    | none => 0
    | some i =>
      if p.img.kind = 6 then 0
      else if w.ring then min (ringPart p.img) (ringLen p.img (chunkLen p.img i.extent w.c) - w.part * ringPart p.img)
      else (partSpan p.img i w.c w.idx w.part).2 - (partSpan p.img i w.c w.idx w.part).1
  max 1 (cdiv n 64)

/-- An idle cycle of a tun resolves the pending carries of the chunks it serves (R192). -/
def State.resolveTun (s : State) (key : Nat) : State :=
  let chunk (ch : Chunk) : Chunk := if 64 * ch.quad + ch.tun = key then { ch with elems := ch.elems.map resolve } else ch
  let inst (i : Inst) : Inst := { i with chunks := i.chunks.map chunk }
  { s with plans := s.plans.map fun x => (x.1, { x.2 with insts := x.2.insts.map inst }) }

/-- The plan served next by deficit round robin, its deficit after the service, and the deficits (R162). -/
def pickPlan (cost quantum : Nat → Nat) : Nat → List Nat → List (Nat × Nat) → Option (Nat × List (Nat × Nat))
  | 0, _, _ => none
  | _, [], _ => none
  | k + 1, slot :: rest, def_ =>
    let old := ((def_.find? (·.1 = slot)).map (·.2)).getD 0
    let others := def_.filter (·.1 ≠ slot)
    if cost slot ≤ old then some (slot, (slot, old - cost slot) :: others)
    else pickPlan cost quantum k (rest ++ [slot]) (others ++ [(slot, old + quantum slot)])

/-- TUN_SERVICE: tun t of quadrant q adds one piece of work of the plan its round robin serves, or is idle (R162, R165, R190).
(DEDUCED, log 49, unsafe) -/
def execTunService (q : Quad) (tun : BitVec 6) (s : State) : Res :=
  if !s.live then done s else
  let key := 64 * q.toNat + tun.toNat
  let t := s.tun key
  let slots := (t.queue.map (·.slot)).eraseDups
  let known (sl : Nat) : Nat × Nat :=
    match s.plan sl, t.queue.find? (·.slot = sl) with
    | some p, some w => (workCost p w, max 1 (nthD p.img.slices q.toNat 0))
    | _, _ => (0, 1)
  -- the plan served last keeps its turn while its deficit lasts: the list keeps it first
  let order := (t.deficit.map (·.1)).filter slots.contains ++ slots.filter fun x => !(t.deficit.any (·.1 = x))
  match pickPlan (fun sl => (known sl).1) (fun sl => (known sl).2) 200000 order (t.deficit.filter fun d => slots.contains d.1) with
  | none => done (s.resolveTun key)
  | some (sl, def_) =>
    match t.queue.find? (·.slot = sl), s.plan sl with
    | some w, some p =>
      let s := s.updTun key fun t =>
        { t with queue := t.queue.eraseP (·.slot = sl), deficit := def_.filter fun d => (t.queue.eraseP (·.slot = sl)).any (·.slot = d.1) }
      let s := s.freeIngress w.ctx
      match (s.inst sl w.n).bind fun i => (findChunk i w.c).map (i, ·) with
      | none => done s
      | some (i, ch) =>
        let img := p.img
        if w.ring then
          let base := w.part * ringPart img
          let m := min (ringPart img) (ringLen img (chunkLen img i.extent w.c) - base)
          let ps : List Partial :=
            if img.kind = 6 then []
            else if img.ringForm = 1 then (match readTrimmed 0 m w.payload with | .ok v => v | .error _ => [])
            else []
          let vs : List ElemVal := if img.ringForm = 2 then (List.range m).map fun j => decodeFloat fp32 127 (leAt w.payload (4 * j) 4) else []
          let add (j : Nat) (e : Elem) : Elem × Nat :=
            if j < base || base + m ≤ j then (e, 0)
            else if img.ringForm = 1 then
              (match ps[j - base]? with | some x => addPartial img.op e x | none => (e, 0))
            else (match vs[j - base]? with | some x => contribute img.op e x | none => (e, 0))
          let es := ch.elems.mapIdx add
          let s := s.updChunk sl w.n w.c fun ch =>
            { ch with elems := es.map (·.1), ringMsg := ch.ringMsg.map fun m => { m with added := insNat w.part m.added } }
          let s := s.arithFlags sl w.n (es.foldl (fun f x => f ||| x.2) 0)
          match (s.inst sl w.n).bind (findChunk · w.c) with
          | none => done s
          | some ch =>
            match ch.ringMsg with
            | none => done s
            | some rm =>
              if msgDone ch.ringMsg (List.range (ringParts img (chunkLen img i.extent w.c))) && !rm.acked then
                let s := (s.updChunk sl w.n w.c fun ch => { ch with ringMsg := ch.ringMsg.map fun m => { m with acked := true } }).ackMsg ch.quad rm
                done (s.advanceChunk sl w.n w.c)
              else done s
        else
          let sp := partSpan img i w.c w.idx w.part
          let lo := sp.1 - chunkLo img w.c
          let vs := if img.kind = 6 then [] else decodeElems img.inFmt (sp.2 - sp.1) w.payload
          let add (j : Nat) (e : Elem) : Elem × Nat :=
            if j < lo then (e, 0) else (match vs[j - lo]? with | some x => contribute img.op e x | none => (e, 0))
          let es := ch.elems.mapIdx add
          let s := s.updChunk sl w.n w.c fun ch =>
            { ch with elems := es.map (·.1),
                      msgs := updWhere ch.msgs (·.idx = w.idx) fun m => { m with added := insNat w.part m.added } }
          let s := s.arithFlags sl w.n (es.foldl (fun f x => f ||| x.2) 0)
          match (s.inst sl w.n).bind (findChunk · w.c) with
          | none => done s
          | some ch =>
            match ch.msgs.find? (·.idx = w.idx) with
            | none => done s
            | some m =>
              let s := if msgDone (some m) (expected img i w.c w.idx) && !m.acked then
                  (s.updChunk sl w.n w.c fun ch => { ch with msgs := updWhere ch.msgs (·.idx = w.idx) fun m => { m with acked := true } }).ackContrib ch.quad m
                else s
              done (s.advanceChunk sl w.n w.c)
    | _, _ => done s

/-- CHUNK_SELF_OPEN: at ring position k = 1 a chunk that expects no level-0 part opens by itself, the instance WAITING or not
(R171). (DEDUCED, log 51, unsafe) -/
def execChunkSelfOpen (slot : PlanSlot) (n : InstNo) (s : State) : Res :=
  if !s.live then done s else
  let (slot, n) := (slot.toNat, n.toNat)
  match s.plan slot with
  | none => done s
  | some p =>
    match findInst p n with
    | none => done s
    | some i =>
      let mine (c : Nat) : Bool := ringK p.img c = 1 && !i.done.contains c && (findChunk i c).isNone &&
        (List.range p.img.contribs.length).all fun k => (expected p.img i c k).isEmpty
      if !isOpen i || i.before ≠ .running || p.img.levels ≠ 2 then done s
      else
        match (List.range (min (numChunks p.img i.extent) (lowOf p.img i + p.img.pipeDepth))).find? mine with
        | none => done s
        | some c => done (if (s.chunkRoom p i c).isSome then s else (s.openChunk slot n c).advanceChunk slot n c)

/-! ### Timers (R167, R168, R177, R180) -/

/-- CONTEXT_TIMER_EXPIRY (R180). (DEDUCED, log 51, unsafe) -/
def execContextTimerExpiry (slot : PlanSlot) (n : InstNo) (s : State) : Res :=
  if !s.live then done s else
  let (slot, n) := (slot.toNat, n.toNat)
  match s.plan slot with
  | none => done s
  | some p =>
    match findInst p n with
    | none => done s
    | some i =>
      if !((i.state = .counting || i.state = .running) && owesAny (s.stuck slot) p.img i) then done s
      else
        let owed := (List.range p.img.contribs.length).filter (owesContrib p.img i)
        let ring := owesRing (s.stuck slot) p.img i
        let s := s.updInst slot n fun i =>
          { i with missing := (missingAt p.img i).foldl (fun l k => insNat k l) i.missing, ringMissing := i.ringMissing || ring }
        if !p.img.wait then done (s.endInst slot n .aborted)
        else
          let s := s.updInst slot n fun i =>
            { i with before := i.state, state := .waiting, endNs := s.time.ns, owed, owedRing := ring,
                     outcome := some .incomplete }
          done (s.writeOutcome slot n .incomplete)

/-- WAIT_TIMER_EXPIRY (R167). (DEDUCED, log 51, unsafe) -/
def execWaitTimerExpiry (slot : PlanSlot) (n : InstNo) (s : State) : Res :=
  if !s.live then done s else
  let (slot, n) := (slot.toNat, n.toNat)
  done (match s.inst slot n with
    | some i => if i.state = .waiting then s.endInst slot n .aborted else s
    | none => s)

/-- The result of chunk c goes to receiver r again, or r is lost after its last try (R177). -/
def State.retryReceiver (s : State) (slot n c r : Nat) : State :=
  match s.plan slot with
  | none => s
  | some p =>
    match ((findInst p n).bind (findChunk · c)).bind fun ch => ch.recvs.find? (·.idx = r) with
    | none => s
    | some x =>
      if x.acked || x.lost then s
      else if x.sends < p.img.tries then s.resend slot n c r
      else ((s.loseReceiver slot n r).settleChunk slot n c).settleChunks slot n

/-- RESULT_RETRY_TIMEOUT: receiver r has not acknowledged the result of chunk c within RESULT_RETRY_US (R177).
(DEDUCED, log 50, unsafe) -/
def execResultRetryTimeout (slot : PlanSlot) (n : InstNo) (c : BitVec 43) (r : BitVec 12) (s : State) : Res :=
  if !s.live then done s else
  done (s.retryReceiver slot.toNat n.toNat c.toNat r.toNat)

/-! ### Answers to results and status writes (R35, R37, R177, R182) -/

/-- The result whose receiver answers: instance, chunk, receiver index. The chunk's quadrant sent it from its own Mash service,
so an answer to another quadrant's service matches no request (R36, R37). An ACK carries the SEQ with LAST of some send, a NACK
the SEQ of any frame of the latest. (DEDUCED, log 50, unsafe) -/
def answeredResult (p : Plan) (f : Frame) (op : Nat) : Option (Nat × Nat × Nat) :=
  p.insts.findSome? fun i => i.chunks.findSome? fun ch => ch.recvs.findSome? fun r =>
    if ch.quad = eidDie (oDst f) && (if op = opAck then r.seqs else r.frames).contains (oSeq f) && receiverEid p i.n r.idx = oSrc f
      then some (i.n, ch.c, r.idx)
    else none

/-- The ring message or status write that a response answers (R36, R37). (DEDUCED, log 50, unsafe) -/
def answers (f : Frame) (op : Nat) (o : OpenReq) : Bool :=
  o.quad = eidDie (oDst f) && o.dst = oSrc f && o.status = decide (0x1000 ≤ oFlow f) &&
    (if op = opAck then o.last = oSeq f else o.frames.contains (oSeq f))

/-- Takes the answer of a ring message or status write: an ACK closes it, and a status write's first NACK counts as its failure
(R182); answers whether there was one. -/
def State.takeAnswer (s : State) (p : Plan) (f : Frame) (op : Nat) : State × Bool :=
  match p.opens.find? (answers f op) with
  | none => (s, false)
  | some o =>
    if op = opAck then (s.updPlan p.slot fun p => { p with opens := p.opens.eraseP (answers f op) }, true)
    else
      let s := s.updPlan p.slot fun p => { p with opens := updWhere p.opens (answers f op) fun o => { o with failed := true } }
      (if o.status && !o.failed then s.outcomeFailed p.img.entryQ else s, true)

/-- Takes the oldest response at the Mash service of quadrant q, when it has the given OP. (DEDUCED, log 50, unsafe) -/
def State.takeResponse (s : State) (q op : Nat) : State :=
  match SMap.get s.respIn q [] with
  | [] => s
  | c :: rest =>
    let f := c.bytes
    if oOp f ≠ op then s
    else
      let s := ({ s with respIn := SMap.set s.respIn q rest [] }).freeIngress c
      let stray : State := match c.src with | .port p => s.countPort p.toNat 62 | .service _ => s
      match s.plan (oFlow f % 0x1000) with
      | none => stray
      | some p =>
        match (if oFlow f < 0x1000 then answeredResult p f op else none) with
        | some (n, ch, r) =>
          if op = opAck then
            (s.updChunk p.slot n ch fun x => { x with recvs := updWhere x.recvs (·.idx = r) fun y => { y with acked := true } }).settleChunk p.slot n ch
          else s.retryReceiver p.slot n ch r
        | none =>
          let x := s.takeAnswer p f op
          if oFlow f < 0x2000 && x.2 then x.1 else stray

/-- RESULT_ACK at the Mash service of quadrant q. (DEDUCED, log 50, unsafe) -/
def execResultAck (q : Quad) (s : State) : Res := if !s.live then done s else done (s.takeResponse q.toNat opAck)
/-- RESULT_NACK at the Mash service of quadrant q. (DEDUCED, log 50, unsafe) -/
def execResultNack (q : Quad) (s : State) : Res := if !s.live then done s else done (s.takeResponse q.toNat opNack)

end Sys2Proof.Machine
end

