-- ==== Sys2Proof/Machine/PlanImage.lean ====
section
/-! DEFINITION. Plan images and Kiln programs (R157, R158, R221): reading them, and the fields that make a load fail (R159, R188,
R189, R215, R222, R223), each with its byte offset (R332). -/
namespace Sys2Proof.Machine

/-- The next multiple of 64. -/
def r64 (n : Nat) : Nat := (n + 63) / 64 * 64

/-- Where the sections of an image begin: lines, ring table, Kiln program, and the end (R157). -/
def imgLines (b : List Byte) : Nat := r64 (128 + 48 * leAt b 6 2)
def imgRing (b : List Byte) : Nat := r64 (imgLines b + 48 * leAt b 34 2)
def imgKiln (b : List Byte) : Nat := imgRing b + (if leAt b 22 1 = 2 then 64 else 0)
def imgEnd (b : List Byte) : Nat := r64 (imgKiln b + leAt b 112 4)

/-! ### Reading -/

def readContrib (b : List Byte) (o : Nat) : Contrib :=
  { eid := BitVec.ofNat 32 (leAt b o 4), statusWin := BitVec.ofNat 64 (leAt b (o + 8) 8),
    statusAddr := BitVec.ofNat 64 (leAt b (o + 16) 8), offset := leAt b (o + 24) 8, count := leAt b (o + 32) 8 }

def readLine (b : List Byte) (o : Nat) : Line :=
  { kind := leAt b o 1, base := BitVec.ofNat 32 (leAt b (o + 4) 4), mask := BitVec.ofNat 64 (leAt b (o + 8) 8),
    resultWin := BitVec.ofNat 64 (leAt b (o + 16) 8), resultAddr := BitVec.ofNat 64 (leAt b (o + 24) 8),
    statusWin := BitVec.ofNat 64 (leAt b (o + 32) 8), statusAddr := BitVec.ofNat 64 (leAt b (o + 40) 8) }

/-- The offset of an instruction of a Kiln program: send instructions first, then receive (R221). -/
def kInstr (k : List Byte) (recv : Bool) (i : Nat) : Nat :=
  64 + 512 * leAt k 5 1 + 16 * (i + (if recv then leAt k 11 1 else 0))

/-- A Kiln program from its bytes. -/
def readKiln (k : List Byte) : KilnProg :=
  { heldFmt := leAt k 6 1, codedFmt := leAt k 7 1, lanes := leAt k 8 1, stochastic := leAt k 9 1 = 1,
    preshift := sgn (leAt k 10 1) 8, passes := leAt k 11 1, arrays := (List.range 4).map fun q => leAt k (12 + q) 1,
    held := (List.range (leAt k 5 1)).map fun h => (List.range 256).map fun e => BitVec.ofNat 16 (leAt k (64 + 512 * h + 2 * e) 2),
    sendBanks := (List.range (leAt k 11 1)).map fun i => leAt k (kInstr k false i + 1) 1 }

/-- A plan image from its bytes. -/
def readImage (b : List Byte) : Image :=
  let fl := leAt b 28 1
  let four (o w : Nat) : List Nat := (List.range 4).map fun q => leAt b (o + w * q) w
  let r := imgRing b
  { bytes := leAt b 8 4, uid := BitVec.ofNat 32 (leAt b 12 4), job := BitVec.ofNat 16 (leAt b 16 2), kind := leAt b 18 1,
    op := leAt b 19 1, inFmt := leAt b 20 1, outFmt := leAt b 21 1, levels := leAt b 22 1, ringForm := leAt b 23 1,
    chunkElems := leAt b 24 4, countPhase := bit fl 0, hostEvent := bit fl 1, stageResults := bit fl 2, wait := leAt b 29 1 = 1,
    entryQ := leAt b 30 1, resultTc := leAt b 31 1, ctxDepth := leAt b 32 2, pipeDepth := leAt b 36 4, qw := four 40 1,
    seed := BitVec.ofNat 32 (leAt b 44 4), elems := four 48 4, slices := four 64 2, stageMib := four 72 2,
    timeoutUs := leAt b 80 4, retryUs := leAt b 84 2, tries := leAt b 86 1, substMs := leAt b 88 4,
    key := BitVec.ofNat 32 (leAt b 92 4), extent := leAt b 96 8, rangeElems := leAt b 104 8,
    contribs := (List.range (leAt b 6 2)).map fun i => readContrib b (128 + 48 * i),
    lines := (List.range (leAt b 34 2)).map fun i => readLine b (imgLines b + 48 * i),
    ring := if leAt b 22 1 = 2 then
        some { h := leAt b r 1, p := leAt b (r + 1) 1, pred := BitVec.ofNat 32 (leAt b (r + 4) 4), succ := BitVec.ofNat 32 (leAt b (r + 8) 4) }
      else none,
    kiln := if leAt b 23 1 = 3 then some (readKiln (sl b (imgKiln b) (leAt b 112 4))) else none }

/-! ### What makes a load fail, as offsets of the fields found wrong -/

/-- The offset when a condition holds. -/
def badIf (c : Bool) (o : Nat) : List Nat := if c then [o] else []

/-- Header fields of plain ranges: offset, size, lowest, highest (R157). -/
def imgRanges : List (Nat × Nat × Nat × Nat) :=
  [(6, 2, 0, 4096), (18, 1, 1, 6), (22, 1, 1, 2), (24, 4, 64, 8192), (29, 1, 0, 1), (30, 1, 0, 3), (31, 1, 0, 7),
   (32, 2, 1, 256), (34, 2, 0, 4096), (36, 4, 1, 65536), (64, 2, 0, 1024), (66, 2, 0, 1024), (68, 2, 0, 1024), (70, 2, 0, 1024),
   (80, 4, 1, 0xFFFFFFFF), (84, 2, 1, 65535), (86, 1, 1, 15), (88, 4, 1, 0xFFFFFFFF), (96, 8, 1, 2 ^ 43)]

/-- R189: the combination of KIND, OPERATOR, formats and RING_FORM is allowed. -/
def comboOk (kind op fi fo levels form : Nat) : Bool :=
  let fmts := (isFloat fi && isFloat fo) || (isInt fi && fi = fo)
  let red := kind = 1 || kind = 2 || kind = 3
  let long := levels ≠ 2 || form = 1
  if op = 0 then kind = 6 && fi = 0 && fo = 0 && long
  else if op = 1 then red && fmts && (long || isFloat fi)
  else if op = 2 || op = 3 then red && fmts && long
  else if op = 4 || op = 5 || op = 6 then red && isInt fi && fi = fo && long
  else if op = 7 then (kind = 4 || kind = 5) && fmts && long
  else false

/-- A format code of R186. -/
def fmtKnown (c : Nat) : Bool := c = 0 || isFloat c || isInt c

/-- Header fields found wrong, `tc` being TC_CLASS (R157, R159, R188, R189). (DEDUCED, log 52, unsafe) -/
def headerBad (b : List Byte) (tc : Nat) : List Nat :=
  let g (o n : Nat) : Nat := leAt b o n
  let levels := g 22 1
  let form := g 23 1
  let fi := g 20 1
  let fo := g 21 1
  let mx := isMx fi || isMx fo
  badIf (g 0 4 ≠ 0x4E504C31) 0 ++ badIf (g 4 2 ≠ 1) 4 ++
  (imgRanges.filter fun r => !(r.2.2.1 ≤ g r.1 r.2.1 && g r.1 r.2.1 ≤ r.2.2.2)).map (·.1) ++
  badIf (g 8 4 % 64 ≠ 0 || 2 ^ 20 < g 8 4 || g 8 4 ≠ imgEnd b) 8 ++
  badIf (g 24 4 % 64 ≠ 0) 24 ++ badIf (8 ≤ g 28 1) 28 ++
  badIf (g 31 1 ≤ 7 && fld tc (2 * g 31 1) 2 ≠ clsCollective) 31 ++
  badIf (g 87 1 ≠ 0) 87 ++ badIf (g 116 8 ≠ 0) 116 ++
  badIf ((levels = 1 && form ≠ 0) || (levels = 2 && !(1 ≤ form && form ≤ 3))) 22 ++
  badIf (if form = 3 then g 112 4 = 0 else g 112 4 ≠ 0) 112 ++
  badIf (!fmtKnown fi) 20 ++ badIf (!fmtKnown fo) 21 ++
  badIf (fmtKnown fi && fmtKnown fo && !comboOk (g 18 1) (g 19 1) fi fo levels form) 18 ++
  badIf (g 40 1 + g 41 1 + g 42 1 + g 43 1 ≠ 64) 40 ++
  ((List.range 4).filter fun q => g (40 + q) 1 ≠ 0 && (g (48 + 4 * q) 4 = 0 || g (64 + 2 * q) 2 = 0)).map (40 + ·) ++
  badIf (g 18 1 = 5 && 1 < g 6 2) 6 ++
  badIf (mx && bit (g 28 1) 0) 28 ++ badIf (mx && g 104 8 % 32 ≠ 0) 104 ++
  badIf ((fi = 8 || fi = 9 || fo = 8 || fo = 9) && 7936 < g 24 4) 24

/-- Contributor entries found wrong. -/
def contribBad (b : List Byte) (img : Image) : List Nat :=
  let n := img.contribs.length
  let mx := isMx img.inFmt || isMx img.outFmt
  let ranged := img.kind = 4 && !img.countPhase
  (List.range n).flatMap fun i =>
    match img.contribs[i]? with
    | none => []
    | some x =>
      let o := 128 + 48 * i
      let others := (List.range n).filter (· ≠ i)
      badIf (leAt b (o + 4) 4 ≠ 0) (o + 4) ++ badIf (leAt b (o + 40) 8 ≠ 0) (o + 40) ++ badIf (x.eid = 0) o ++
      badIf (others.any fun j => (img.contribs[j]?.map (·.eid)) = some x.eid) o ++
      badIf (mx && x.offset % 32 ≠ 0) (o + 24) ++ badIf (mx && x.count % 32 ≠ 0) (o + 32) ++
      badIf (ranged && x.count ≠ 0 && img.extent < x.offset + x.count) 96 ++
      badIf (ranged && x.count ≠ 0 && others.any fun j =>
        match img.contribs[j]? with
        | some y => y.count ≠ 0 && x.offset < y.offset + y.count && y.offset < x.offset + x.count
        | none => false) (o + 24)

/-- Receiver-line entries found wrong (R125, R158, R159). -/
def lineBad (b : List Byte) (img : Image) : List Nat :=
  (List.range img.lines.length).flatMap fun k =>
    match img.lines[k]? with
    | none => []
    | some l =>
      let o := imgLines b + 48 * k
      let members := (lineEids l).length
      let upTo := ((img.lines.take (k + 1)).map fun x => (lineEids x).length).sum
      badIf (!(l.kind = 1 || l.kind = 2)) o ++ badIf (!allZero b (o + 1) 3) (o + 1) ++
      badIf ((l.kind = 1 && fld l.base.toNat 17 6 ≠ 0) || (l.kind = 2 && fld l.base.toNat 23 5 ≠ 0)) (o + 4) ++
      badIf (l.mask = 0 || (l.kind = 2 && l.mask.toNat / 2 ^ 32 ≠ 0)) (o + 8) ++
      badIf ((img.kind = 2 && 1 < members) || (img.kind = 3 && 1 < upTo) || 4096 < upTo) (o + 8)

/-- Ring-table fields found wrong. -/
def ringBad (b : List Byte) (img : Image) : List Nat :=
  match img.ring with
  | none => []
  | some t =>
    let o := imgRing b
    badIf (!(2 ≤ t.h && t.h ≤ 16)) o ++ badIf (t.h ≤ t.p) (o + 1) ++ badIf (!allZero b (o + 2) 2) (o + 2) ++
      badIf (!allZero b (o + 12) 52) (o + 12)

/-- The 16 bytes an instruction must hold, its bank aside (R222). -/
def kShape (passes lanes : Nat) (recv : Bool) (i : Nat) : List Byte :=
  let ax := b2n recv
  let src := if i = 0 then (if recv then 3 else 1) else 2
  let dst := if i + 1 = passes then (if recv then 3 else 1) else 2
  let ln := if src = 3 || dst = 1 then lanes else 16
  [1, 0, BitVec.ofNat 8 ax, BitVec.ofNat 8 src, BitVec.ofNat 8 dst, BitVec.ofNat 8 i, BitVec.ofNat 8 ln] ++ zeros 9

/-- A BF16 code that is exact in E4M3. -/
def exactE4m3 (c : Nat) : Bool := (List.range 256).any fun k => decodeFloat e4m3 127 k = decodeFloat bf16 127 c

/-- Kiln program fields found wrong, as offsets from the program's first byte, and of the plan's own (R215, R223). -/
def kilnBad (b : List Byte) (img : Image) : List Nat :=
  if img.ringForm ≠ 3 || leAt b 112 4 = 0 then []
  else
    let ko := imgKiln b
    let k := sl b ko (leAt b 112 4)
    let nheld := leAt k 5 1
    let passes := leAt k 11 1
    let g (o : Nat) : Nat := leAt k o 1
    let shaped := 1 ≤ nheld && nheld ≤ 3 && (passes = 1 || passes = 2)
    let head :=
      badIf (leAt k 0 4 ≠ 0x4B4C4E31) 0 ++ badIf (g 4 ≠ 1) 4 ++ badIf (!(1 ≤ nheld && nheld ≤ 3)) 5 ++
      badIf (!(g 6 = 2 || g 6 = 4)) 6 ++ badIf (!(g 7 = 4 || g 7 = 5 || (8 ≤ g 7 && g 7 ≤ 12))) 7 ++
      badIf (!(1 ≤ g 8 && g 8 ≤ 16)) 8 ++ badIf (1 < g 9) 9 ++ badIf (64 ≤ g 10 && g 10 < 192) 10 ++
      badIf (!(passes = 1 || passes = 2)) 11 ++ ((List.range 4).filter fun q => 64 < g (12 + q)).map (12 + ·) ++
      badIf (!allZero k 16 48) 16
    let body :=
      if !(shaped && leAt b 112 4 = 64 + 512 * nheld + 32 * passes) then []
      else
        ((List.range (256 * nheld)).filter fun e =>
          let c := leAt k (64 + 2 * e) 2
          kSpecial bf16 c || (g 6 = 4 && !exactE4m3 c)).map (fun e => 64 + 2 * e) ++
        ([false, true].flatMap fun recv => (List.range passes).flatMap fun i =>
          let o := kInstr k recv i
          let bank := g (o + 1)
          -- the receive side reads the send side's banks in the reverse order
          let twin := kInstr k (!recv) (passes - 1 - i)
          badIf (nheld ≤ bank) (o + 1) ++ badIf (bank ≠ g (twin + 1)) (o + 1) ++
          ((List.range 16).filter fun j => j ≠ 1 && leAt k (o + j) 1 ≠ (nthD (kShape passes (g 8) recv i) j 0).toNat).map (o + ·))
    (head ++ body).map (ko + ·) ++
    badIf (shaped && leAt b 112 4 ≠ 64 + 512 * nheld + 32 * passes) 112 ++ badIf img.countPhase 28 ++
    badIf (img.extent % (if passes = 2 then 256 else 16) ≠ 0) 96 ++ badIf (passes = 2 && img.chunkElems % 256 ≠ 0) 24 ++
    ((List.range 4).filter fun q => (g (12 + q) = 0) != (nthD img.qw q 0 = 0)).map (40 + ·)

/-- Fields whose check takes the whole image: result ranges, and the slot a chunk needs (R159, R171).
(DEDUCED, log 52, unsafe) -/
def wholeBad (img : Image) : List Nat :=
  let nr := numReceivers img
  let ranged := img.kind = 2 && !img.countPhase
  badIf (ranged && img.rangeElems = 0) 104 ++ badIf (ranged && img.extent < nr * img.rangeElems) 96 ++
  badIf ((List.range 4).any fun q => nthD img.qw q 0 ≠ 0 && nthD img.elems q 0 < img.chunkElems + xSlots img) 24

/-- IMG_CRC is right: CRC-32C of the image with the field as 0. -/
def crcOk (b : List Byte) : Bool := crc32c (patch b 124 (zeros 4)) = leAt b 124 4

/-- The lowest offset among all the fields of an image found wrong (R332); none where the image passes.
(DEDUCED, log 12, unsafe; DEDUCED, log 52, unsafe) -/
def imageFault (b : List Byte) (tc : Nat) : Option Nat :=
  let h := headerBad b tc
  let all :=
    if h.contains 8 then h
    else
      let img := readImage b
      h ++ contribBad b img ++ lineBad b img ++ ringBad b img ++ kilnBad b img ++ wholeBad img ++ badIf (!crcOk b) 124
  all.foldl (fun m o => match m with | none => some o | some x => some (min x o)) none

end Sys2Proof.Machine
end

