-- ==== Sys2Proof/Machine/MashPlan.lean ====
section
/-! DEFINITION. Loading and unloading plans (R158 to R161, R182, R183, R226), host aborts (R167, R169) and identity moves
(R179). -/
namespace Sys2Proof.Machine

/-! ### Reservations (R161, R226) -/

/-- Staging of quadrant q's Cask in MiB. -/
def State.stageMib (s : State) (q : Nat) : Nat := caskSize (s.layout q) 3 / 2 ^ 20
/-- Kiln arrays a plan takes in each of its two streams in quadrant q. -/
def kilnArrays (img : Image) (q : Nat) : Nat := match img.kiln with | some k => nthD k.arrays q 0 | none => 0
/-- A plan holds two Kiln streams in quadrant q. -/
def kilnIn (img : Image) (q : Nat) : Bool := img.kiln.isSome && nthD img.qw q 0 ≠ 0

/-- What the plans `ps` hold in quadrant q of one resource. -/
def heldBy (ps : List Image) (f : Image → Nat) : Nat := (ps.map f).sum

/-- A reservation fits beside the plans `ps`, with `arrays` Kiln arrays free in each quadrant. (DEDUCED, log 52, unsafe) -/
def State.fitsWith (s : State) (img : Image) (ps : List Image) (arrays : Nat → Nat) : Bool :=
  (List.range 4).all fun q =>
    let sum (f : Image → Nat) : Nat := heldBy (img :: ps) f
    sum (fun (i : Image) => if i.entryQ = q then i.ctxDepth else 0) ≤ 16384 &&
    sum (fun (i : Image) => nthD i.elems q 0) ≤ 5592405 && sum (fun (i : Image) => nthD i.slices q 0) ≤ 1024 &&
    sum (fun (i : Image) => i.bytes) ≤ 2 ^ 24 && sum (fun (i : Image) => nthD i.stageMib q 0) ≤ s.stageMib q &&
    sum (fun (i : Image) => if kilnIn i q then 2 else 0) ≤ 64 &&
    (!kilnIn img q || 2 * kilnArrays img q ≤ arrays q)

/-- Free Kiln arrays of quadrant q: not reserved, and past their last test. -/
def State.freeArrays (s : State) (q : Nat) : Nat :=
  ((List.range 256).filter fun a => (s.array (256 * q + a)).state = .free && (s.array (256 * q + a)).passed).length
/-- Arrays that the plans being unloaded hold in quadrant q. -/
def State.leavingArrays (s : State) (q : Nat) : Nat :=
  ((s.kstreams.filter fun k => k.1 / 64 = q && (match s.plan k.2.slot with | some p => p.unload.isSome | none => false)).map
    fun k => k.2.arrays.length).sum

/-- The plan's reservation is free. -/
def State.planFits (s : State) (img : Image) : Bool := s.fitsWith img (s.plans.map (·.2.img)) s.freeArrays
/-- It would be free once every plan now being unloaded has gone (R160). (DEDUCED, log 52, unsafe) -/
def State.planWillFit (s : State) (img : Image) : Bool :=
  s.fitsWith img ((s.plans.filter fun p => p.2.unload.isNone).map (·.2.img)) fun q => s.freeArrays q + s.leavingArrays q

/-! ### Loading (R160, R170, R226) -/

/-- The lowest free stream number of a quadrant. -/
def State.freeStream (s : State) (q : Nat) : Option Nat := (List.range 64).find? fun k => (s.kstream (kstreamKey q k)).isNone

/-- Takes `n` arrays of quadrant q, lowest first, for stream k. -/
def State.takeArrays (slot q k : Nat) : Nat → State → List Nat → State × List Nat
  | 0, s, l => (s, l)
  | n + 1, s, l =>
    match s.freeArray q with
    | none => (s, l)
    | some a =>
      State.takeArrays slot q k n
        ((s.updArray (256 * q + a) fun x => { x with state := .reserved, stream := k }).loadBanks (256 * q + a) slot) (l ++ [a])

/-- Opens one Kiln stream of a plan. (DEDUCED, log 54, safe) -/
def State.openStream (s : State) (slot q n : Nat) (recv : Bool) : State :=
  match s.freeStream q with
  | none => s
  | some k =>
    let r := State.takeArrays slot q k n s []
    { r.1 with kstreams := SMap.put r.1.kstreams (kstreamKey q k) { slot, recv, arrays := r.2 } }

/-- The plan of an image takes effect in its slot; it ends START_UP and TEST (R410). -/
def State.installPlan (s : State) (slot : Nat) (img : Image) (outBuf outLen : Nat) : State :=
  let s := s.serviceStarts
  let s := { s with plans := SMap.put s.plans slot { slot, img, qtab := rotation 0 img.qw, outBuf, outLen } }
  (List.range 4).foldl (fun (s : State) q =>
    if kilnIn img q then (s.openStream slot q (kilnArrays img q) false).openStream slot q (kilnArrays img q) true else s) s

/-- Quadrants in which a plan would reserve. -/
def planQuads (img : Image) : List Nat :=
  (List.range 4).filter fun q => img.entryQ = q || nthD img.qw q 0 ≠ 0 || nthD img.elems q 0 ≠ 0 || nthD img.slices q 0 ≠ 0 ||
    nthD img.stageMib q 0 ≠ 0 || kilnArrays img q ≠ 0

/-- The plan names a service EID of this device (R159). (DEDUCED, log 53, unsafe) -/
def State.namesOwn (s : State) (img : Image) : Bool :=
  img.contribs.any (fun x => s.isSvcEid 0 x.eid.toNat) || (receiversOf img).any (fun r => s.isSvcEid 0 r.2) ||
    (match img.ring with | some t => s.isSvcEid 0 t.pred.toNat || s.isSvcEid 0 t.succ.toNat | none => false)

/-- PLAN_LOAD (R158 to R160, R182). (DEDUCED, log 52, unsafe) -/
def execPlanLoad (c : CmdRing) (img : DmaRead) (s : State) : Res :=
  done (s.withRead c 0x10 anySub (leAt · 16 8) img fun s d ref bytes =>
    let slot := leAt d 8 2
    let b := padTo (max 128 (min (leAt bytes 8 4) (2 ^ 20))) bytes
    if 4096 ≤ slot then s.refuse ref .range 0
    else if (s.plan slot).isSome || s.loadQ.any (·.slot = slot) || s.pwr.state ≠ 0 || s.sec.lcState = 3 then s.refuse ref .state 0
    else if leAt b 22 1 = 2 && s.smallClass then s.refuse ref .cls 0
    else
      match imageFault b (s.rf .portTcmap [leAt b 30 1 % 4] 0 16) with
      | some o => s.refuse ref .image o
      | none =>
        let img := readImage b
        if s.namesOwn img then s.refuse ref .ownEid 0
        else if leAt d 32 4 < img.ctxDepth * slotBytes img then s.refuse ref .buffer 0
        else if (planQuads img).any s.quadStill then s.refuse ref .state 0
        else if s.planFits img then (s.installPlan slot img (leAt d 24 8) (leAt d 32 4)).succeed ref
        else if !s.planWillFit img then s.complete ref .insufficient []
        else if 64 ≤ s.loadQ.length then s.refuse ref .full 0
        else
          let n := s.loadQ.length
          ({ s with loadQ := s.loadQ ++ [({ slot, img, outBuf := leAt d 24 8, outLen := leAt d 32 4, cmd := ref } : QueuedLoad)] }).completeAs ref .resourcesPending true (leBytes 2 n))

/-- QUEUED_PLAN_LOAD: the load at the head of the queue takes effect when its resources are free (R160).
(DEDUCED, log 52, unsafe) -/
def execQueuedPlanLoad (s : State) : Res :=
  if !(s.live && s.hif.fwReady) then done s else
  match s.loadQ with
  | [] => done s
  | x :: r =>
    done (if s.planFits x.img && !(planQuads x.img).any s.quadDown then
      (({ s with loadQ := r }).installPlan x.slot x.img x.outBuf x.outLen).succeed x.cmd
    else s)

/-! ### Unloading (R183) -/

/-- Ends every open instance of a plan as ABORTED with HOST_ABORT. -/
def State.abortAll (s : State) (slot : Nat) : State :=
  match s.plan slot with
  | none => s
  | some p => (p.insts.filter isOpen).foldl (fun (s : State) i =>
      ((s.updInst slot i.n fun x => { x with hostAbort := true }).updPlan slot fun p => { p with cut := p.cut ++ [i.n] }).endInst
        slot i.n .aborted) s

/-- PLAN_UNLOAD (R183): drain or abort, or the withdrawal of a queued load. (DEDUCED, log 53, unsafe) -/
def execPlanUnload (c : CmdRing) (s : State) : Res :=
  done (s.withCmd c 0x11 anySub fun s d ref =>
    let slot := leAt d 8 2
    let mode := leAt d 10 1
    if 4096 ≤ slot || 1 < mode then s.refuse ref .range 0
    else
      match s.loadQ.find? (·.slot = slot) with
      | some x =>
        (({ s with loadQ := s.loadQ.filter (·.slot ≠ slot) }).refuse x.cmd .state 0).complete ref .success (leBytes 4 0)
      | none =>
        match s.plan slot with
        | none => s.refuse ref .state 0
        | some p =>
          if p.unload.isSome then s.refuse ref .state 0
          else
            let s := s.updPlan slot fun p => { p with unload := some (mode = 1, ref), aborted := 0, cut := [] }
            if mode = 1 then s.abortAll slot else s)

/-- Releases what a plan holds (R161, R226, R268). -/
def State.releasePlan (s : State) (slot : Nat) : State :=
  let ks := s.kstreams.filter fun k => k.2.slot = slot
  let s := ks.foldl (fun (s : State) k => k.2.arrays.foldl (fun (s : State) a =>
    s.updArray (256 * (k.1 / 64) + a) fun x =>
      { x with state := if x.state = .reserved then .free else x.state, stream := 0, issued := [], mid := [], opbuf := [] }) s) s
  ({ s with kstreams := s.kstreams.filter fun k => k.2.slot ≠ slot, plans := SMap.erase s.plans slot }).meshEnd slot none

/-- PLAN_UNLOAD_COMPLETE: no instance of the plan is open any more; the firmware completes the command (R24), and its resources
go and the command completes. (DEDUCED, log 53, unsafe) -/
def execPlanUnloadComplete (slot : PlanSlot) (s : State) : Res :=
  if !(s.live && s.hif.fwReady) then done s else
  let slot := slot.toNat
  match s.plan slot with
  | none => done s
  | some p =>
    match p.unload with
    | none => done s
    | some (_, ref) =>
      done (if p.insts.any isOpen then s
        else (s.releasePlan slot).complete ref .success (leBytes 4 p.aborted))

/-! ### Host aborts and identity moves -/

/-- INSTANCE_ABORT (R167, R169). (DEDUCED, log 53, unsafe) -/
def execInstanceAbort (c : CmdRing) (s : State) : Res :=
  done (s.withCmd c 0x12 anySub fun s d ref =>
    let slot := leAt d 8 2
    let n := leAt d 12 4
    if 4096 ≤ slot || 2 ^ 20 ≤ n then s.refuse ref .range 0
    else
      match s.inst slot n with
      | some i =>
        if isOpen i then
          ((s.updInst slot n fun x => { x with hostAbort := true }).endInst slot n .aborted).succeed ref
        else s.complete ref .notOpen []
      | none => s.complete ref .notOpen [])

/-- Index i names `eid` for instance n or for a later one (R179). -/
def namedFrom (p : Plan) (receiver : Bool) (i n eid : Nat) : Bool :=
  let name (m : Nat) : Nat := if receiver then receiverEid p m i else contribEid p m i
  name n = eid || p.rebinds.any fun r =>
    r.receiver = receiver && r.idx = i &&
      (match r.n with | some b => instPlace p n < instPlace p b && name b = eid | none => false)

/-- IDENTITY_MOVE (R179). (DEDUCED, log 53, unsafe) -/
def execIdentityMove (c : CmdRing) (s : State) : Res :=
  done (s.withCmd c 0x13 anySub fun s d ref =>
    let slot := leAt d 8 2
    let kind := leAt d 10 1
    let i := leAt d 12 2
    let eid := leAt d 16 4
    let n := leAt d 20 4
    if 4096 ≤ slot || 1 < kind || 2 ^ 20 ≤ n then s.refuse ref .range 0
    else if s.pwr.state ≠ 0 then s.refuse ref .state 0
    else
      match s.plan slot with
      | none => s.refuse ref .state 0
      | some p =>
        let receiver : Bool := kind = 1
        let size := if receiver then numReceivers p.img else p.img.contribs.length
        let waits := match findInst p n with | some x => x.state = .waiting | none => true
        if size ≤ i then s.refuse ref .range 0
        else if 2 ^ 19 ≤ instD p n || !waits then s.refuse ref .state 0
        else if s.isSvcEid 0 eid then s.refuse ref .ownEid 0
        else if (List.range size).any fun j => j ≠ i && namedFrom p receiver j n eid then s.refuse ref .inUse 0
        else
          let old := if receiver then receiverEid p n i else contribEid p n i
          let s := s.updPlan slot fun p =>
            { p with rebinds := p.rebinds ++ [{ receiver, idx := i, n := some n, eid := BitVec.ofNat 32 eid }],
                     insts := p.insts.map fun x =>
                       if isOpen x && instD p n ≤ instD p x.n then { x with rebound := true } else x }
          s.complete ref .success (leBytes 4 old))

end Sys2Proof.Machine
end

