-- ==== Sys2Proof/Machine/Pitch.lean ====
section
/-! DEFINITION. Pitch images (R377 to R386) and the Cask's layout (R20, R21). -/
namespace Sys2Proof.Machine

/-! ### Images (R377, R380) -/

/-- Chunks of an image. -/
def imgChunks (x : PitchImg) : Nat := cdiv x.size 8192
/-- Bytes of chunk c. -/
def chunkBytes (x : PitchImg) (c : Nat) : Nat := min 8192 (x.size - 8192 * c)
/-- Chunks that live in quadrant q, of n. -/
def chunksIn (n q : Nat) : Nat := (n + 3 - q) / 4
/-- Bytes of the extent in quadrant q, and of the bitmap. -/
def extentBytes (n q : Nat) : Nat := chunksIn n q * 8192
def bitmapBytes (n q : Nat) : Nat := cdiv (cdiv (chunksIn n q) 8) 4096 * 4096
/-- Chunks present in quadrant q. -/
def presentIn (x : PitchImg) (q : Nat) : Nat := (x.present.filter (· % 4 = q)).length

/-- The slot of the image of a name. -/
def State.pitchSlot (s : State) (id : Nat) : Option Nat :=
  (List.range 16).find? fun k => (s.pitchImg k).state ≠ .free && (s.pitchImg k).id.toNat = id
/-- State code (R378, PITCH_IMG). -/
def PitchState.code : PitchState → Nat
  | .free => 0 | .opened => 1 | .sealed => 2 | .partly => 3

/-- The PITCH event of a slot (R386). -/
def State.pitchEvent (s : State) (k id cause : Nat) (n : Nat) : State :=
  s.event 0x09 [(16, leBytes 4 id), (20, leBytes 1 k), (21, leBytes 1 (s.pitchImg k).state.code), (22, leBytes 1 cause),
    (24, leBytes 8 n)]

/-- Ranges (first byte, length) that the stored images hold in quadrant q, but for slot k; `bm` picks bitmaps. -/
def State.pitchRanges (s : State) (q k : Nat) (bm : Bool) : List (Nat × Nat) :=
  (s.pitch.filter fun x => x.1 ≠ k && x.2.state ≠ .free && x.2.store).map fun x =>
    if bm then (nthD x.2.bitmap q 0, bitmapBytes (imgChunks x.2) q) else (nthD x.2.ext q 0, extentBytes (imgChunks x.2) q)

/-- The lowest place for `n` bytes below `size` that meets none of the ranges. (DEDUCED, log 66, unsafe) -/
def lowestFree (rs : List (Nat × Nat)) (size n : Nat) : Option Nat :=
  let ok (a : Nat) : Bool := a + n ≤ size && rs.all fun r => a + n ≤ r.1 || r.1 + r.2 ≤ a || r.2 = 0 || n = 0
  let starts := (0 :: rs.map fun r => r.1 + r.2).filter ok
  match starts with
  | [] => none
  | a :: r => some (r.foldl min a)

/-- The places an image takes in each quadrant: extents or bitmaps. (DEDUCED, log 66, unsafe) -/
def State.pitchPlaces (s : State) (k n : Nat) (bm : Bool) : Option (List Nat) :=
  (List.range 4).mapM fun q =>
    lowestFree (s.pitchRanges q k bm) (caskSize (s.layout q) (if bm then 1 else 0)) (if bm then bitmapBytes n q else extentBytes n q)

/-! ### The image record (R378, R379) -/

/-- Column-line entries of a record. -/
def recCols (r : List Byte) : Nat := leAt r 7 1
/-- Row line and column lines. -/
def recLines (r : List Byte) : List Line :=
  let at_ (o : Nat) : Line :=
    { kind := leAt r o 1, base := BitVec.ofNat 32 (leAt r (o + 4) 4), mask := BitVec.ofNat 64 (leAt r (o + 8) 8), resultWin := 0,
      resultAddr := 0, statusWin := 0, statusAddr := 0 }
  (if leAt r 64 1 = 1 then [at_ 64] else []) ++ (List.range (recCols r)).map fun i => at_ (80 + 16 * i)

/-- A line breaks the line rules of R125. -/
def lineBroken (l : Line) : Bool :=
  l.mask = 0 || (l.kind = 1 && fld l.base.toNat 17 6 ≠ 0) || (l.kind = 2 && (fld l.base.toNat 23 5 ≠ 0 || l.mask.toNat / 2 ^ 32 ≠ 0))

/-- The record is malformed or out of range. (DEDUCED, log 66, unsafe) -/
def recBad (r : List Byte) (len : Nat) : Bool :=
  let size := leAt r 8 8
  let flags := leAt r 6 1
  let lines := recLines r
  let crossed := lines.any fun row => row.kind = 1 && lines.any fun c => c.kind = 2 && bit c.mask.toNat (fld row.base.toNat 23 5)
  64 < recCols r || len ≠ 80 + 16 * recCols r || size = 0 || 2 ^ 44 < size || 4 ≤ flags || flags = 0 || 8 ≤ leAt r 24 1 ||
    !allZero r 25 7 || !allZero r 48 16 || 1 < leAt r 64 1 || !allZero r 65 3 ||
    (List.range (recCols r)).any (fun i => leAt r (80 + 16 * i) 1 ≠ 2 || !allZero r (81 + 16 * i) 3) ||
    lines.any lineBroken || crossed

/-- The image a record opens. -/
def recImage (r : List Byte) : PitchImg :=
  { state := .opened, id := BitVec.ofNat 32 (leAt r 0 4), job := BitVec.ofNat 16 (leAt r 4 2), store := bit (leAt r 6 1) 0,
    replicate := bit (leAt r 6 1) 1, size := leAt r 8 8, key := BitVec.ofNat 32 (leAt r 16 4),
    srcEid := BitVec.ofNat 32 (leAt r 20 4), tc := leAt r 24 1, rxWin := BitVec.ofNat 64 (leAt r 32 8),
    rxAddr := BitVec.ofNat 64 (leAt r 40 8), lines := recLines r }

/-- The sub-operation of a PITCH descriptor. (DEDUCED, log 21, safe) -/
def pitchSub (k : Nat) (d : List Byte) : Bool := leAt d 8 1 = k
/-- A quadrant is held, or the life cycle serves no images (R355, R427, R437). -/
def State.pitchDown (s : State) : Bool := (List.range 4).any s.quadDown

/-- PITCH_OPEN (R379, R380, R385, R410). (DEDUCED, log 66, unsafe) -/
def execPitchOpen (c : CmdRing) (rec : DmaRead) (s : State) : Res :=
  done (s.withRead c 0x40 (pitchSub 1) (leAt · 16 8) rec fun s d ref bytes =>
    let r := padTo 1104 bytes
    let x := recImage r
    let old := s.pitchSlot x.id.toNat
    let members := x.lines.flatMap fun l => lineMembers l.kind l.base.toNat l.mask
    if recBad r (leAt d 24 4) then s.refuse ref .range 0
    else if (x.srcEid ≠ 0 && s.isSvcEid 0 x.srcEid.toNat) || members.any (s.isSvcEid 0) then s.refuse ref .ownEid 0
    else if s.pitchDown || s.sec.lcState = 3 then s.refuse ref .state 0
    else
      match old with
      | some k =>
        let y := s.pitchImg k
        if y.state ≠ .partly || y.size ≠ x.size || y.job ≠ x.job || y.store ≠ x.store || y.replicate ≠ x.replicate || y.key ≠ x.key then
          s.refuse ref .state 0
        else
          let s := s.serviceStarts.updPitch k fun y =>
            { x with ext := y.ext, bitmap := y.bitmap, present := y.present, gets := y.gets }
          (s.pitchEvent k x.id.toNat 1 y.present.length).complete ref .success (leBytes 1 k)
      | none =>
        match (List.range 16).find? fun k => (s.pitchImg k).state = .free with
        | none => s.refuse ref .inUse 0
        | some k =>
          let n := imgChunks x
          let places : Option (List Nat × List Nat) :=
            if !x.store then some (x.ext, x.bitmap)
            else match s.pitchPlaces k n false, s.pitchPlaces k n true with | some a, some b => some (a, b) | _, _ => none
          match places with
          | none => s.refuse ref .inUse 0
          | some (a, b) =>
            let s := s.serviceStarts.updPitch k fun _ => { x with ext := a, bitmap := b }
            (s.pitchEvent k x.id.toNat 1 0).complete ref .success (leBytes 1 k))

/-- The 8-byte record of the other sub-operations is well formed. -/
def nameOk (d bytes : List Byte) : Bool := leAt d 24 4 = 8 && leAt bytes 4 4 = 0

/-- A slot becomes FREE. -/
def State.freePitch (s : State) (k cause : Nat) : State :=
  let x := s.pitchImg k
  (s.updPitch k fun _ => {}).pitchEvent k x.id.toNat cause 0

/-- PITCH_SEAL (R385). (DEDUCED, log 66, unsafe) -/
def execPitchSeal (c : CmdRing) (rec : DmaRead) (s : State) : Res :=
  done (s.withRead c 0x40 (pitchSub 2) (leAt · 16 8) rec fun s d ref bytes =>
    if !nameOk d bytes then s.refuse ref .range 0
    else
      match s.pitchSlot (leAt bytes 0 4) with
      | none => s.refuse ref .state 0
      | some k =>
        let x := s.pitchImg k
        if x.state ≠ .opened then s.refuse ref .state 0
        else
          let s := if x.store then (s.updPitch k fun x => { x with state := .sealed }).pitchEvent k x.id.toNat 1 x.present.length
            else s.freePitch k 1
          s.complete ref .success (leBytes 8 x.present.length))

/-- PITCH_DROP (R385). (DEDUCED, log 66, unsafe) -/
def execPitchDrop (c : CmdRing) (rec : DmaRead) (s : State) : Res :=
  done (s.withRead c 0x40 (pitchSub 3) (leAt · 16 8) rec fun s d ref bytes =>
    if !nameOk d bytes then s.refuse ref .range 0
    else
      match s.pitchSlot (leAt bytes 0 4) with
      | none => s.refuse ref .state 0
      | some k => (s.freePitch k 1).succeed ref)

/-- PITCH_STATUS (R378); it also takes the PITCH commands of a reserved sub-operation, which are refused.
(DEDUCED, log 66, unsafe) -/
def execPitchStatus (c : CmdRing) (rec : DmaRead) (s : State) : Res :=
  done (s.withRead c 0x40 (fun d => leAt d 8 1 = 0 || 4 ≤ leAt d 8 1) (leAt · 16 8) rec fun s d ref bytes =>
    if leAt d 8 1 ≠ 4 || !nameOk d bytes then s.refuse ref .range 0
    else
      let x := match s.pitchSlot (leAt bytes 0 4) with | some k => s.pitchImg k | none => {}
      s.complete ref .success (leBytes 8 x.present.length ++ leBytes 1 x.state.code))

/-! ### Frames at the Pitch service (R381 to R384) -/

/-- The Pitch NACK reasons of the checks of R383. -/
def pitchReason (check : Nat) : Nat := 0x0200 + check

/-- A frame at Pitch fails a check: counted at its ingress port, answered from quadrant q (R59, R60, R383).
(DEDUCED, log 67, unsafe) -/
def State.pitchNack (s : State) (c : FrameCtx) (q idx reason detail : Nat) : State :=
  let f := c.bytes
  let s := s.freeIngress c
  match c.src with
  | .service _ => s
  | .port p => ((s.countPort p.toNat idx).watch 2 p.toNat f true false 0xFF (0x8000 + idx)).nack mashPlace p.toNat q f reason detail

/-- Checks 20 and 21 of R59 and checks 1 to 4 of R383: counter, reason and detail of the first that fails. -/
def State.pitchFails (s : State) (f : Frame) : Option (Nat × Nat × Nat) :=
  match s.pitchSlot (oWinNo f) with
  | none => some (36, rWindowDenied, oWinNo f)
  | some k =>
    let x := s.pitchImg k
    let put := oOp f = opPut
    let ch := oAddr f / 8192
    if oWinKey f ≠ x.key.toNat then some (36, rWindowDenied, oWinNo f)
    else if x.size < oAddr f + oLen f then some (37, rAddrRange, oAddr f + oLen f)
    else if oJob f ≠ x.job.toNat then some (55, pitchReason 1, x.job.toNat)
    else if put && (oSrc f ≠ x.srcEid.toNat || x.srcEid = 0) then some (56, pitchReason 2, 0)
    else if put && x.state ≠ .opened then some (57, pitchReason 3, 0)
    else if oAddr f % 8192 ≠ 0 || imgChunks x ≤ ch || oLen f ≠ chunkBytes x ch then some (58, pitchReason 4, oAddr f)
    else none

/-- Takes the frame at the head of quadrant q's Pitch service, if it has the given OP, through the checks that PUT and GET
share; `k` goes on with the image's slot and the chunk. A delivered frame has left its domain (R96).
(DESIGN CHOICE, log 83, unsafe) -/
def State.atPitch (s : State) (q op : Nat) (k : State → FrameCtx → Nat → Nat → State) : State :=
  match SMap.get s.pitchIn q [] with
  | [] => s
  | c :: rest =>
    let f := c.bytes
    if oOp f ≠ op then s
    else
      let s := ({ s with pitchIn := SMap.set s.pitchIn q rest [] }).depart (eidDie (oDst f)) f
      match s.pitchFails f, s.pitchSlot (oWinNo f) with
      | none, some slot => k s c slot (oAddr f / 8192)
      | some (idx, reason, detail), _ =>
        let s := s.pitchNack c (srcQuad c.src) idx reason detail
        if op = opPut then s.pitchPut q f false else s
      | none, none => s

/-- Sends the copies of a chunk to the image's lines: the state, and the frames sent. (DEDUCED, log 67, unsafe) -/
def State.pitchCopies (s : State) (q : Nat) (x : PitchImg) (ch : Nat) (payload : List Byte) : State × List Nat :=
  let r := x.lines.foldl (fun (acc : State × List Nat × Nat) l =>
    let s := acc.1
    let h : Hdr := { op := opPut, tc := x.tc, job := x.job.toNat, flow := x.id.toNat % 65536, len := payload.length,
                     src := s.svcEid q svcPitch, dst := acc.2.2, addr := (x.rxAddr.toNat + 8192 * ch) % 2 ^ 64, win := x.rxWin.toNat }
    ((s.sendLine q h payload (lineMembers l.kind l.base.toNat l.mask) none).1, acc.2.1 ++ [s.nextFid], acc.2.2 + 1)) (s, [], 0)
  (r.1, r.2.1)

/-- PITCH_PUT at quadrant q (R380, R381, check 6 of R383). (DEDUCED, log 67, unsafe) -/
def execPitchPut (q : Quad) (s : State) : Res :=
  if !s.live then done s else
  let qn := q.toNat
  done (s.atPitch qn opPut fun s c k ch =>
    let f := c.bytes
    let x := s.pitchImg k
    let ack (s : State) : State := s.pitchPut qn f true
    if x.present.contains ch then
      let s := match c.src with | .port p => s.countPort p.toNat 60 | .service _ => s
      ack ((s.countQuad qn 46).freeIngress c)
    else
      let payload := (oPayload f).take (oLen f)
      let s :=
        if x.store then
          (s.caskWrite qn (nthD x.ext qn 0 + 8192 * (ch / 4)) payload).updPitch k fun x => { x with present := insNat ch x.present }
        else s
      let r := if x.replicate then s.pitchCopies qn x ch payload else (s, [])
      if r.2.isEmpty then ack (r.1.freeIngress c)
      else { r.1 with pitchAcks := r.1.pitchAcks ++ [{ quad := qn, ctx := c, copies := r.2 }] })

/-- PITCH_GET at quadrant q; `poisoned` says that the Cask read of the chunk was (R365, R384). (DEDUCED, log 67, unsafe) -/
def execPitchGet (q : Quad) (poisoned : Bool) (s : State) : Res :=
  if !s.live then done s else
  let qn := q.toNat
  done (s.atPitch qn opGet fun s c k ch =>
    let f := c.bytes
    let x := s.pitchImg k
    if !x.present.contains ch then s.pitchNack c qn 59 (pitchReason 5) ch
    else if poisoned then
      let at_ := nthD x.ext qn 0 + 8192 * (ch / 4)
      let s := s.updPitch k fun x => { x with present := x.present.filter (· ≠ ch) }
      let r := s.fresh
      let s := r.2.errorAt 0x07 sevContained (BitVec.ofNat 8 qn) [(32, leBytes 1 (r.1.toNat % 16)), (33, [0]), (40, leBytes 8 at_)]
      (s.pitchEvent k x.id.toNat 3 (x.present.length - 1)).pitchNack c qn 59 (pitchReason 5) ch
    else
      let data := s.caskRead qn (nthD x.ext qn 0 + 8192 * (ch / 4)) (chunkBytes x ch)
      let s := (s.freeIngress c).updPitch k fun x => { x with gets := modNth x.gets qn (· + 1) }
      let h : Hdr := { op := opGetResp, tc := oTc f, ecn := oEcn f, job := oJob f, flow := oFlow f, len := data.length,
                       seq := (oSeq f).toNat, src := oDst f, dst := oSrc f, addr := oAddr f, win := beAt f 46 8 }
      (s.sendOwn mashPlace qn (mkOvdu (s.ovduEtype qn) h data) none).1)

/-! ### The Cask's layout (R20, R21) -/

/-- Region k has another base or size under a new layout. (DEDUCED, log 68, unsafe) -/
def regionMoves (old new k : Nat) : Bool := caskBase old k ≠ caskBase new k || caskSize old k ≠ caskSize new k

/-- Capture runs with an enabled Cask rule (R407). -/
def State.caskCapture (s : State) : Bool := s.tap.running && s.tap.rules.any fun r => r.2.en && r.2.cask

/-- Something holds a region of quadrant q that the new layout would move. (DEDUCED, log 68, unsafe) -/
def State.layoutHeld (s : State) (q new : Nat) : Bool :=
  let old := s.layout q
  let m (k : Nat) : Bool := regionMoves old new k
  (s.pitch.any fun x => x.2.state ≠ .free && x.2.store && (m 1 || (m 0 && extentBytes (imgChunks x.2) q ≠ 0))) ||
    (m 2 && s.caskCapture) || (m 3 && s.plans.any fun p => nthD p.2.img.stageMib q 0 ≠ 0)

/-- CASK_LAYOUT (R20, R21). (DEDUCED, log 68, unsafe) -/
def execCaskLayout (c : CmdRing) (s : State) : Res :=
  done (s.withCmd c 0x09 anySub fun s d ref =>
    let q := leAt d 8 1
    let new := leAt d 12 4
    if 4 ≤ q || ((List.range 4).map fun k => fld new (8 * k) 8).sum ≠ 256 then s.refuse ref .range 0
    else if s.quadDown q then s.refuse ref .state 0
    else if s.layoutHeld q new then s.refuse ref .inUse 0
    else
      let moved := (List.range 4).filter (regionMoves (s.layout q) new)
      let s := moved.foldl (fun (s : State) k => s.caskWipe q (caskBase new k) (caskSize new k)) s
      let s := if moved.contains 2 then
          { s with tap := { s.tap with writeIdx := s.tap.writeIdx.set q 0, badCask := s.tap.badCask.filter fun x => x.1 ≠ q } }
        else s
      let s := if moved.contains 3 then { s with stageLeft := s.stageLeft.filter (·.quad ≠ q) } else s
      (s.setReg .caskRegion [q] new).succeed ref)

/-! ### Scheduled launch (R309) -/

/-- Start and end of a frame's transmission, preamble included, in bits of a port's rate. -/
def launchSpan (rate t : Nat) (bytes : List Byte) : Int × Int := ((t * rate : Nat) - 64, ((t * rate + 8 * frameLen bytes : Nat) : Int))

/-- A launch, widened by 200 ns on each side, meets another. (DEDUCED, log 60, unsafe) -/
def launchMeets (rate : Nat) (t : Nat) (bytes : List Byte) (m : Launch) : Bool :=
  let a := launchSpan rate t bytes
  let b := launchSpan rate m.t m.bytes
  a.1 - 200 * rate < b.2 && b.1 < a.2 + 200 * rate

/-- SCHED_LAUNCH (R309). (DEDUCED, log 60, unsafe) -/
def execSchedLaunch (c : CmdRing) (frame : DmaRead) (s : State) : Res :=
  done (s.withCmd c 0x30 anySub fun s d ref =>
    let p := leAt d 8 2
    let len := leAt d 10 2
    let t := leAt d 16 8
    let now := s.time.ns.toNat
    if 1024 ≤ p then s.refuse ref .range p
    else if s.portDown p then s.refuse ref .state p
    else if t < now + 5000 || now + 10 ^ 9 < t then s.refuse ref .window 0
    else if !(s.port p).armed then s.refuse ref .arming p
    else if len + 4 < 64 || 9216 < len + 4 then s.refuse ref .range 0
    else
      match frame with
      | none => s.dmaError ref (leAt d 24 8)
      | some b =>
        let b := padTo len (b.take len)
        let w := widthLanes (s.port p).width
        let rate := 200 * (if w = 0 then s.portSpeed p else w)
        if s.isOvdu (p / 256) b && oFence b then s.refuse ref .range 0
        else if 256 ≤ (s.launches.filter fun (x : Launch) => x.port / 256 = p / 256).length then s.refuse ref .full 0
        else if s.launches.any fun (m : Launch) => m.port = p && launchMeets rate t b m then s.refuse ref .window 0
        else { s with launches := s.launches ++ [{ port := p, t, bytes := b, cmd := ref }] })

end Sys2Proof.Machine
end

