-- ==== Sys2Proof/Machine/ResetOps.lean ====
section
/-! DEFINITION. Resets as shared operations: what each reach clears (R11, R344, R359), how sources assert a reach and how its
release starts (R344, R347, R352), the boot ROM's choice of a bank (R414, R415, R419), leaving for P3 (R361, R437), and what
the end of a release does (R337, R373). -/
namespace Sys2Proof.Machine

/-! ### Reaches and sources -/

/-- Narrowest first. -/
def Reach.rank : Reach → Nat
  | .core => 1 | .system => 2 | .powerOn => 3

/-- The reach of a source (R344). -/
def RstSource.reach : RstSource → Reach
  | .porPin | .porSupply => .powerOn
  | .sysPin | .sysHost | .sysPerst | .sysError | .sysLifecycle => .system
  | .coreHost | .coreP3 => .core

/-- Bit of a source in RST_CAUSE; LAST holds it plus 1. -/
def RstSource.index : RstSource → Nat
  | .porPin => 0 | .porSupply => 1 | .sysPin => 2 | .sysHost => 3 | .sysPerst => 4 | .sysError => 5 | .sysLifecycle => 6
  | .coreHost => 7 | .coreP3 => 8

/-- The narrowest reach that restores a register's fields (R11); WRITE_INDEX of TAP_CASK is no stored word (R409). -/
def Reg.reach (r : Reg) : Reach :=
  if r = .tapCask then .system else (((r.fields 0 ++ r.roFields).head?).map (·.reach)).getD .core

/-- The same for the word at an address. -/
def regReach (a : Nat) : Reach := match regAt a with | some (r, _) => r.reach | none => .core

/-- Stored register words that a reach leaves alone (R11). -/
def State.clearRegs (s : State) (r : Reach) : State :=
  { s with regs := s.regs.filter fun (x : Nat × W32) => r.rank < (regReach x.1).rank }

/-- Shadows, staged halves and staged words of registers at addresses that `p` picks are lost with their block. -/
def State.dropStaged (s : State) (p : Nat → Bool) : State :=
  { s with shadow := s.shadow.filter fun (x : Nat × W32) => !p x.1
           stage64 := s.stage64.filter fun (x : Nat × W32) => !p x.1
           stageTm := s.stageTm.filter fun (x : Nat × W32) => !p x.1 }

/-! ### What each reach clears -/

/-- The quadrants: floor, ports, table, traffic manager, Mash, Kiln, die-to-die (R344, R359). -/
def State.clearQuads (s : State) : State :=
  { s with ports := [], queues := [], pols := [], tmShapeEn := [true, true, true, true], tmPolEn := [true, true, true, true]
           tmPend := [], home := [], cache := [], cacheFill := [], tables := [], chan := [], lookups := [], hostRecs := [], loads := []
           tblWait := [], sheaves := [], groups := [], doms := [], held := [], waiting := [], flying := [], streams := []
           reseq := [], s1 := [], s2 := [], s1count := [], lanesIn := [], arrivals := [], floors := [], plans := [], loadQ := []
           mashIn := [], respIn := [], pitchIn := [], svcSeq := [], tuns := [], kstreams := [], bundles := [], dirs := []
           pitchAcks := [], pitchDoms := [], arriving := [], expulsions := [], launches := [], blockRst := []
           arrays := []
           rst := { s.rst with quadInReset := 0 } }

/-- A mesh group at a core reset: the map stands and a change goes on settling, its command aborted; a plan-bound map becomes
ordinary, and RECAL stands until the commands end (R11, R268, R269, R337). -/
def heldMesh (x : MeshSt) : MeshSt :=
  { x with prev := x.prev.map fun p => (p.1, none), bound := [], kept := [], inReset := false }

/-- A mesh group after a loss of power: normal map, nothing settling; RECAL_DUE goes only with its own reset (R11, R264, R269). -/
def darkMesh (x : MeshSt) : MeshSt := { due := x.due }

/-- A Pitch image at a core reset (R385). -/
def heldImage (x : PitchImg) : PitchImg :=
  if x.state = .opened then (if x.store then { x with state := .partly } else {}) else x

/-- The images a core reset moves, with the chunks they keep. -/
def State.openImages (s : State) : List (Nat × W32 × Nat) :=
  (s.pitch.filter fun (x : Nat × PitchImg) => x.2.state = .opened).map fun x =>
    (x.1, x.2.id, if x.2.store then x.2.present.length else 0)

/-- The core reach (R344): the quadrants, the counters, the tap, the error records, and the firmware. RECAL and TRANSITION, which a
core reset leaves, go with their commands at step 11 (R11, R337), and what staging held stays in the Cask (R184).
(DEDUCED, log 25, unsafe) -/
def State.clearCore (s : State) : State :=
  let tell := s.rst.pitchTell ++ s.openImages
  let left := s.stageLeft ++ s.plans.flatMap fun (x : Nat × Plan) => x.2.staging
  let s := (s.clearQuads.clearRegs .core).dropStaged fun a => 0x70000 ≤ a && regReach a = Reach.core
  { s with ctrs := [], pageShadow := [], stageLeft := left
           err := { fwHeld := s.err.fwHeld }
           tap := { writeIdx := s.tap.writeIdx, badCask := s.tap.badCask, rseqHost := s.tap.rseqHost, rseqCask := s.tap.rseqCask }
           hif := { s.hif with fwReady := false }
           pitch := SMap.mapVals s.pitch {} heldImage
           meshes := SMap.mapVals s.meshes {} heldMesh
           sec := { s.sec with staging := none, activating := false, recovered := false }
           rst := { s.rst with pitchTell := tell } }

/-- A laser after a system reset: COMMISSIONED is reset by power-on only, and so is the reference of its first lock (R11, R256). -/
def keptLaser (n : Nat) (l : Laser) : Laser :=
  { laserReset n with commissioned := l.commissioned, ref := l.ref, meas := l.ref.getD 0 }
/-- The lasers after a system reset. -/
def State.keptLasers (s : State) : SMap Laser :=
  (s.lasers.map fun x => (x.1, keptLaser (x.1 % 10) x.2)).filter fun x => x.2 ≠ laserReset (x.1 % 10)

/-- What the system reach clears beyond the core reach (R344, R359). -/
def State.clearSystem (s : State) : State :=
  let s := (s.clearRegs .system).dropStaged fun _ => true
  { s with time := { core := s.time.core }, fracLatch := [], hif := {}, rings := [], lasers := s.keptLasers, rings1 := [], engines := []
           meshes := SMap.mapVals s.meshes {} fun x => { x with due := 0, recal := none }
           cask := [], stageLeft := [], pitch := [], tap := {}, err := {}
           clk := { refOk := s.clk.refOk }
           sec := { s.sec with stagedValid := false, bootFail := false, running := {}, nonce := 0, nonceDrawn := false, recovErr := 0xFFFF, wdRestarts := [] }
           pwr := { state := if s.pwr.trip then 3 else 0, trip := s.pwr.trip, tripSensor := s.pwr.tripSensor,
                    cellarTrip := s.pwr.cellarTrip, tripLatch := s.pwr.tripLatch, pm := s.pwr.pm }
           rst := { s.rst with pitchTell := [], caskWiped := false, fromP3 := false } }

/-- What the power-on reach clears beyond the system reach (R344, R359). The levels of the reset pins and of TRST_N are no state it
can clear, nor is the trip latch while the input is present (R431), nor the mark of a trial bank, whose restart boots the other bank
(R419). (DEDUCED, log 24, unsafe) -/
def State.clearPowerOn (s : State) : State :=
  let s := s.clearRegs .powerOn
  { s with meshes := [], lasers := [], clk := {}, pins := { trstN := s.pins.trstN }
           rst := { held := s.rst.held, perstLow := s.rst.perstLow, perstSampled := s.rst.perstSampled, cause := 0, last := 0 }
           sec := { fuses := s.sec.fuses, bankA := s.sec.bankA, bankB := s.sec.bankB, idKey := s.sec.idKey, hasCert := s.sec.hasCert
                    trial := s.sec.trial, bootBank := if s.sec.trial then s.sec.bootBank else 0 }
           pwr := { cellarTrip := s.pwr.cellarTrip, tripLatch := s.pwr.tripLatch } }

/-- Everything within a reach is reset; a wider reach includes the narrower ones (R344). The host records that a core reset ends
are not processed, LRES 0x0 (R87, R331). -/
def State.clear (s : State) (r : Reach) : State :=
  match r with
  | .core => (s.giveUpRecords fun _ => true).clearCore
  | .system => s.clearCore.clearSystem
  | .powerOn => s.clearCore.clearSystem.clearPowerOn

/-! ### Asserting a reach and starting its release -/

/-- First release step of a reach (R348). (DEDUCED, log 22, safe) -/
def firstStep (r : Reach) : Nat := if r = .core then 4 else 1

/-- Starts the release of the governing reach, at which a power-on reach's PMBus address is sampled (R447), unless a source of
it or of a wider one is held, or it is held for good (R347, R352, R445). (DEDUCED, log 22, safe) -/
def State.startRelease (s : State) : State :=
  match s.rst.reach with
  | none => s
  | some r =>
    let blocked := s.rst.held.any (fun (h : RstSource) => r.rank ≤ h.reach.rank) || s.rst.heldSys || s.pwr.cellarTrip
    { s with rst := { s.rst with step := if blocked then 0 else firstStep r }
             pwr := { s.pwr with pm := { s.pwr.pm with
               addr := if r = .powerOn && !blocked then 0x40 + Config.sbAddr.setWidth 7 else s.pwr.pm.addr } } }

/-- The wider of a reach and the one that stands. (DEDUCED, log 23, unsafe) -/
def widest (r : Reach) (old : Option Reach) : Reach :=
  match old with | some o => if r.rank < o.rank then o else r | none => r

/-- A reach is asserted. What lies within the governing reach is reset where the reach is new or its release was running (R347),
and at a power-on where the reach was held for good (R352); a source sets its bit of RST_CAUSE, and LAST unless a wider reach
governs: a narrower source leaves what stands there. (DEDUCED, log 23, unsafe) -/
def State.assertReset (s : State) (r : Reach) (src : Option RstSource) (held : Bool) : State :=
  let gov := widest r s.rst.reach
  let fresh : Bool := s.rst.reach ≠ some gov || s.rst.step ≠ 0 || (s.rst.heldSys && r = .powerOn)
  let was := s.rst
  let s := if fresh then s.clear gov else s
  let x := if r = gov then s.rst else { s.rst with cause := was.cause, last := was.last }
  let x := match src with
    | none => x
    | some k => { x with cause := x.cause ||| BitVec.ofNat 9 (2 ^ k.index),
                         last := if r = gov then BitVec.ofNat 4 (k.index + 1) else x.last,
                         held := if held && !x.held.contains k then x.held ++ [k] else x.held }
  ({ s with rst := { x with reach := some gov, step := 0 } }).startRelease

/-- A source is recognised; `held` where it stays until a release is recognised. (DEDUCED, log 23, unsafe) -/
def State.source (s : State) (k : RstSource) (held : Bool) : State := s.assertReset k.reach (some k) held

/-- A held source is recognised released. (DEDUCED, log 23, unsafe) -/
def State.sourceEnds (s : State) (k : RstSource) : State :=
  let s := { s with rst := { s.rst with held := s.rst.held.filter (· ≠ k) } }
  if s.rst.reach.isSome && s.rst.step = 0 then s.startRelease else s

/-! ### The boot ROM (R414, R415, R419) -/

def State.bank (s : State) (b : BitVec 1) : FwBank := if b = 0 then s.sec.bankA else s.sec.bankB
def State.setBank (s : State) (b : BitVec 1) (x : FwBank) : State :=
  if b = 0 then { s with sec := { s.sec with bankA := x } } else { s with sec := { s.sec with bankB := x } }

/-- The bank passes R414: its image is whole and rightly signed, its SVN is not below FUSE_SVN, its slot is not revoked. -/
def State.bankOk (s : State) (b : BitVec 1) : Bool :=
  let x := s.bank b
  x.valid && s.sec.fuses.svn ≤ x.svn && !bit s.sec.fuses.revoked.toNat x.slot.toNat

/-- Restarts of the controller that R374 counts: those of the last 60 s (CLK_CORE cycles). -/
def State.restartsNow (s : State) : List Nat := s.sec.wdRestarts.filter fun t => s.time.core < t + 120000000000

/-- The ROM selects BOOT_BANK, or the other bank where a trial bank was restarted before it was ready (R419), verifies and
starts it, or the other one, or sets BOOT_FAIL (R415, R416). Answers whether a trial bank was left.
(DEDUCED, log 24, unsafe) -/
def State.bootRom (s : State) : State × Bool :=
  let x := s.sec
  let left := x.trial && !x.activating
  let want := x.nextBank.getD x.bootBank
  let first := if left then want + 1 else want
  let run (b : BitVec 1) (fb : Bool) : State :=
    { s with sec := { x with running := s.bank b, runBank := b, bootBank := if x.nextBank.isSome && !fb then x.bootBank else b,
                             nextBank := none, fallback := x.fallback || fb, bootFail := false, trial := x.trial && !left && !fb,
                             stagedValid := x.stagedValid && b = x.runBank,
                             wdRestarts := if left then s.restartsNow ++ [s.time.core] else x.wdRestarts } }
  if s.bankOk first then (run first left, left)
  else if s.bankOk (first + 1) then (run (first + 1) true, left)
  else ({ s with sec := { x with bootFail := true } }, left)

/-- A FIRMWARE event (R333, R419). (DEDUCED, log 24, unsafe) -/
def State.firmwareEvent (s : State) (fallback : Bool) (ended : Nat) : State :=
  s.event 0x0B [(16, leBytes 1 (1 + 2 * b2n fallback)), (20, leBytes 4 ended)]

/-- The life-cycle state that the fuses show: the highest whose bit reads 1 (R423). -/
def fuseState (f : Fuses) : BitVec 3 :=
  if f.lc.getLsbD 3 then 4 else if f.lc.getLsbD 2 then 3 else if f.lc.getLsbD 1 then 2 else if f.lc.getLsbD 0 then 1 else 0

/-- Closing actions of the states the fuses show (R292, R425). -/
def State.closeLife (s : State) : State :=
  let st := fuseState s.sec.fuses
  let s := if 1 ≤ st.toNat then { s with sec := { s.sec with fuses := { s.sec.fuses with chainClosed := true, pathClosed := 15 } } } else s
  if st = 4 then
    { s with sec := { s.sec with fuses := { s.sec.fuses with secretBlown := true }, bankA := {}, bankB := {} } }
  else s

/-- Fuses and life-cycle state read (R348 step 2, R423). -/
def State.readFuses (s : State) : State :=
  let s := s.closeLife
  let f := s.sec.fuses
  { s with sec := { s.sec with lcState := fuseState f, fuseSvnShown := f.svn, revokedShown := f.revoked,
                               ownerShown := !f.ownerHash.isEmpty } }

/-! ### P3 -/

/-- The core and optical domains lose power: quadrants held in core reset, lasers off, rings dark, mesh state and Cask lost
with the quadrants' and ports' counters (R361, R437, R272, R404). (DEDUCED, log 71, unsafe) -/
def State.enterP3 (s : State) : State :=
  let tell := s.rst.pitchTell ++ (s.pitch.filter fun (x : Nat × PitchImg) => x.2.state ≠ .free).map fun x => (x.1, x.2.id, 0)
  let s := (List.range 16).foldl (fun (s : State) o => s.lasersOff o) s
  let s := (s.giveUpRecords fun _ => true).clearQuads
  let s := { s with regs := s.regs.filter fun (x : Nat × W32) =>
      !(0x100000 ≤ x.1 && x.1 < 0x600000 && regReach x.1 = Reach.core) }
  let s := s.dropStaged fun a => 0x100000 ≤ a && a < 0x600000
  { s with rings1 := [], meshes := SMap.mapVals s.meshes {} darkMesh, cask := [], stageLeft := [], pitch := []
           ctrs := s.ctrs.filter fun (x : Nat × Ctr) => 1028 ≤ x.1 / 512
           tap := { s.tap with badCask := [], running := false, staged := [], stopCmd := [], writeIdx := [0, 0, 0, 0] }
           pwr := { s.pwr with state := 3, transition := none }
           rst := { s.rst with pitchTell := tell, caskWiped := false, fromP3 := false } }

/-! ### The steps of a release (R348) -/

/-- Every mesh takes the normal map before any laser lights (R269). (DEDUCED, log 25, unsafe; DEDUCED, log 65, unsafe) -/
def State.meshesNormal (s : State) : State := { s with meshes := SMap.mapVals s.meshes {} darkMesh }

/-- Shapers, samplers and windows start with the quadrants. -/
def State.startWindows (s : State) : State :=
  let now := s.time.free.toNat
  { s with netBase := [now, now, now, now], sampleStart := [now, now, now, now], bwStart := now
           sampleWin := [1000, 1000, 1000, 1000], bwWin := 1000 }

/-- The result of an array's start test: as observed, else a plain pass. -/
def testOf (obs : List (BitVec 10 × StartTest)) (k : Nat) : StartTest :=
  match obs.find? fun x => x.1.toNat = k with | some x => x.2 | none => .pass

/-- Start tests of every array (R236). -/
def State.startAll (s : State) (obs : List (BitVec 10 × StartTest)) : State :=
  { s with arrays := (List.range 1024).map fun k => (k, testedArray s k (testOf obs k) (s.array k)) }

/-- The two copies of engine o's part of the non-volatile record after a check of their CRCs: a copy that fails is written again
from the other (R368). -/
def State.mendNv (s : State) (o : Nat) (bad1 bad2 : Bool) : State :=
  let mend (into frm : SMap Laser) : SMap Laser :=
    (List.range 10).foldl (fun (m : SMap Laser) n =>
      SMap.set m (10 * o + n) (SMap.get frm (10 * o + n) (laserReset n)) (laserReset n)) into
  if bad1 && !bad2 then { s with nvLasers := mend s.nvLasers s.nvSecond }
  else if bad2 && !bad1 then { s with nvSecond := mend s.nvSecond s.nvLasers }
  else s

/-- The non-volatile record is applied to engine o; one whose copies both fail stays dark, with its record (R261, R368). -/
def State.applyNv (s : State) (o : Nat) (bad1 bad2 : Bool) : State :=
  let s := s.mendNv o bad1 bad2
  if bad1 && bad2 then
    (s.updEngine o fun e => { e with nvLost := true }).errorAt 0x08 sevContained (BitVec.ofNat 8 (o / 4)) [(32, [4]), (33, leBytes 1 o)]
  else
    (List.range 10).foldl (fun (s : State) n => s.updLaser o n fun _ => SMap.get s.nvLasers (10 * o + n) (laserReset n)) s

/-- The non-volatile record is applied to the engines, with the copies that fail their CRC. -/
def State.applyRecordNv (s : State) (bad1 bad2 : BitVec 16) : State :=
  (List.range 16).foldl (fun (s : State) o => s.applyNv o (bad1.getLsbD o) (bad2.getLsbD o)) s

/-- The engines' lasers as the end of step 10 lets them: on again after P3 where TX_ON holds. -/
def State.lightEngines (s : State) : State := (List.range 16).foldl (fun (s : State) o => s.lasersOn o) s

/-- RST_ERRSRC bits [7:0]. (DEDUCED, log 27, safe) -/
def State.errSrc (s : State) : Nat :=
  let recent := (s.rst.recent.filter fun t => s.time.core ≤ t + 20000000000).length
  s.rst.errUnit.toNat + 16 * s.rst.errQuad.toNat + 64 * min 3 recent

/-- The CRITICAL record that the end of an error-raised release owes, before every other (R373). (DEDUCED, log 27, safe) -/
def State.releaseRecords (s : State) : State :=
  if s.rst.errRaised then s.record (s.detected 0x0C sevFatal 0xFF (leBytes 1 s.errSrc)) else s

/-- Commands that the reset interrupted complete, and what they had begun is over (R337). (DEDUCED, log 25, unsafe) -/
def State.endInterrupted (s : State) : State :=
  let s := { s with meshes := SMap.mapVals s.meshes {} fun x => { x with recal := none }
                    pwr := { s.pwr with transition := none } }
  (List.range 16).foldl (fun (s : State) c =>
    (s.ring c).cmds.foldl (fun (s : State) f =>
      let ref := f.ref (BitVec.ofNat 4 c)
      if f.opcode = 0x30 then s.complete ref .missed [5]
      else if f.opcode = 0x24 && leAt f.bytes 8 1 = 1 then s.succeed ref
      else s.complete ref .resetAborted []) s) s

/-- The PITCH events that a reset owes (R385, R386). -/
def State.tellPitch (s : State) : State :=
  s.rst.pitchTell.foldl (fun (s : State) x => s.pitchEvent x.1 x.2.1.toNat 2 x.2.2) { s with rst := { s.rst with pitchTell := [] } }

/-- Step 11: FW_READY is set and the reach ends; a narrower source still held then asserts its own reach (R347, R348). -/
def State.releaseEnds (s : State) : State :=
  let s := s.releaseRecords
  let s := { s with rst := { s.rst with reach := none, step := 0, errRaised := false, fromP3 := false },
                    hif := { s.hif with fwReady := true }, sec := { s.sec with trial := false } }
  let s := s.endInterrupted.tellPitch
  match s.rst.held.head? with
  | none => s
  | some k => s.assertReset k.reach (some k) true

/-- The step after the boot: P3 passes over steps 6 to 10; a plain core release has no step 6. -/
def State.afterBoot (s : State) : Nat :=
  if s.pwr.state = 3 then 11 else if s.rst.reach = some .core && !s.rst.fromP3 then 8 else 6

/-- The Cask is wiped in this release (R348, R361). (DEDUCED, log 28, safe) -/
def State.wipesCask (s : State) : Bool := s.pwr.state ≠ 3 && (s.sysHeld || s.rst.fromP3)

/-- Moves the release to step n. (DEDUCED, log 22, safe) -/
def State.toStep (s : State) (n : Nat) : State := { s with rst := { s.rst with step := n } }

/-- At step 4 of a system reset LC_NONCE is drawn, and in MANUFACTURE an identity key where there is none (R421, R424). -/
def State.drawNonce (s : State) : State :=
  if s.sysHeld && !s.sec.nonceDrawn then
    let r := s.fresh
    { r.2 with sec := { r.2.sec with nonce := r.1, nonceDrawn := true, idKey := r.2.sec.idKey || r.2.sec.lcState = 0 } }
  else s

/-- Step 4: the boot chain (R415, R416, R419); in SCRAPPED and with both banks bad the release stays at step 4, as it does
while the controller is held (R374). (DEDUCED, log 24, unsafe) -/
def State.bootStep (s : State) : State :=
  let s := s.drawNonce
  if s.sec.lcState = 4 || s.err.fwHeld then s
  else
    let b := s.bootRom
    if b.1.sec.bootFail then b.1
    else
      let s := if b.2 then b.1.firmwareEvent true 0 else b.1
      if b.2 && 3 ≤ s.restartsNow.length then { s with err := { s.err with fwHeld := true } } else s.toStep s.afterBoot

end Sys2Proof.Machine
end

