-- ==== Sys2Proof/Machine/Flags.lean ====
section
/-! DEFINITION. Computed flags: the idle conditions of the blocks (R353, R239, R290), and the levels of the output pins (R351,
R356, R375, R444 to R447). -/
namespace Sys2Proof.Machine

/-! ### Idle conditions (R353) -/

/-- A plan image reserves something in quadrant q, or enters there. -/
def imageUses (i : Image) (q : Nat) : Bool :=
  i.entryQ = q || nthD i.qw q 0 ≠ 0 || nthD i.elems q 0 ≠ 0 || nthD i.slices q 0 ≠ 0 || nthD i.stageMib q 0 ≠ 0 ||
    (match i.kiln with | some k => nthD k.arrays q 0 ≠ 0 | none => false)

/-- Quadrant q meets its idle condition. -/
def State.quadIdle (s : State) (q : Nat) : Bool :=
  !(s.ports.any fun (x : Nat × PortSt) => x.1 / 256 = q && x.2.armed) &&
  !(s.plans.any fun (x : Nat × Plan) => imageUses x.2.img q) && !(s.loadQ.any fun l => imageUses l.img q) &&
  !(s.pitch.any fun (x : Nat × PitchImg) => x.2.state ≠ .free) && !s.caskCapture

/-- A Kiln array is idle when free or retired (R239). -/
def State.arrayIdle (s : State) (k : Nat) : Bool := (s.array k).state = .free || (s.array k).state = .retired

/-- Mesh group g meets its idle condition. -/
def State.groupIdle (s : State) (g : Nat) : Bool :=
  let x := s.mesh g
  !((List.range 4).any fun j => s.fibreArmed (4 * g + j)) && !x.planBound && x.prev.isNone && x.recal.isNone

/-- A port is idle when disarmed. -/
def State.portIdle (s : State) (p : Nat) : Bool := !(s.port p).armed

/-- A bundle direction is quiesced or retired (R290). -/
def BundleSt.idle (b : BundleSt) : Bool := b.quiesced || b.width = 0

/-- A bundle between x and y is idle in both directions. -/
def State.bundleIdle (s : State) (x y b : Nat) : Bool := (s.bundle x y b).idle && (s.bundle y x b).idle

/-! ### Output pins -/

/-- FAULT_N is driven low: released in an asserted power-on reach, and in an asserted system reach by SYS_ERROR and TRIP alone
(R351, R356, R375, R446). -/
def State.faultLow (s : State) : Bool :=
  if s.asserted && s.rst.reach = some .powerOn then false
  else
    s.rst.cause.getLsbD 5 || s.pwr.trip ||
      (!(s.asserted && s.sysHeld) &&
        (s.err.overflow || s.partitioned || s.err.fwHeld || s.sec.bootFail || s.pwr.inputFault))

/-- THERMTRIP_N is driven low, by its latch (R431, R443 to R445). -/
def State.thermtripLow (s : State) : Bool := s.pwr.tripLatch

/-- What TDO drives: nothing, its high impedance, unless a register shifts out in a port that TRST_N has released (R292, R356). -/
def State.tdo (s : State) : Option W32 := if s.pins.trstN then s.out.testOut else none

/-- The bus interface responds: in every reach but an asserted power-on reach, where SDA is released (R356, R447). -/
def State.sdaResponds (s : State) : Bool := !(s.asserted && s.rst.reach = some .powerOn)

/-- PWR_GOOD is high: step 6 has run, and not in P3 (R348, R356, R437). -/
def State.pwrGood (s : State) : Bool :=
  s.pwr.state ≠ 3 &&
  (match s.rst.reach with
   | none => true
   | some .core => !s.rst.fromP3 || 6 < s.rst.step
   | some _ => 6 < s.rst.step)

/-- PPS_OUT is high (R304). -/
def State.ppsOut (s : State) : Bool := s.time.ppsHigh

/-- The PMBus STATUS_WORD (R447): CML bit 1, TEMPERATURE bit 2, OFF bit 6, INPUT bit 13. -/
def State.statusWord (s : State) : Nat :=
  2 * b2n s.pwr.pm.cml + 4 * b2n (s.pwr.pm.tempBits ≠ 0 || s.pwr.trip || s.pwr.warn) + 64 * b2n (s.pwr.state = 3) +
    2 ^ 13 * b2n (s.pwr.pm.inputBits ≠ 0 || s.pwr.inputFault)

/-- SMBALERT_N is low while STATUS_WORD is not zero. -/
def State.alertLow (s : State) : Bool := s.statusWord ≠ 0

/-! ### Job watches (R387) -/

/-- A frame counts for a job's watch. (DEDUCED, log 79, safe) -/
def State.jobFrame (s : State) (q job : Nat) (f : Frame) : Bool := s.isOvdu q f && oJob f = job

/-- Frames of a job that wait for admission in quadrant q. (DEDUCED, log 79, safe) -/
def waitingJobs (s : State) (q job : Nat) : Nat :=
  (s.waiting.map fun (x : Nat × List Waiting) =>
    (x.2.filter fun w => srcQuad w.ctx.src = q && s.jobFrame q job w.ctx.bytes).length).sum

/-- IN_FLIGHT of a watch in quadrant q: frames of the job from arrival until they have left, and open instances of its plans
that enter there. A frame on its way over the floor counts in the quadrant of its ingress. (DEDUCED, log 79, safe) -/
def State.jobInFlight (s : State) (q job : Nat) : Nat :=
  let here (c : FrameCtx) : Bool := srcQuad c.src = q && s.jobFrame q job c.bytes
  let queued := (s.queues.map fun (x : Nat × QueueSt) =>
    if x.1 / 2048 = q then (x.2.entries.filter fun e => s.jobFrame q job e.bytes).length else 0).sum
  let held := (s.held.filter fun h => h.quad.toNat = q && s.jobFrame q job h.wait.ctx.bytes).length
  let looked := (s.lookups.filter fun l => here l.ctx).length
  let flying := (s.flying.filter fun (x : Nat × Flying) => here x.2.ctx && !x.2.queued && !x.2.dropped &&
    !(s.floor q).repl.any fun r => r.ctx.fid = x.1).length
  let launch := (s.launches.filter fun l => l.port / 256 = q && s.jobFrame q job l.bytes).length
  let repl := ((s.floor q).repl.filter fun r => s.jobFrame q job r.ctx.bytes).length
  let svc := ((SMap.get s.mashIn q [] ++ SMap.get s.respIn q [] ++ SMap.get s.pitchIn q []).filter
    fun (c : FrameCtx) => s.jobFrame q job c.bytes).length
  let insts := (s.plans.map fun (x : Nat × Plan) =>
    if x.2.img.entryQ = q && x.2.img.job.toNat = job then (x.2.insts.filter fun i => i.state ≠ .ended).length else 0).sum
  waitingJobs s q job + queued + held + looked + flying + launch + repl + svc + insts

end Sys2Proof.Machine
end

