-- ==== Sys2Proof/Machine/BlockReset.lean ====
section
/-! DEFINITION. Block resets: what the reset of each block clears, the command and its completion (R353 to R355, R327). -/
namespace Sys2Proof.Machine

/-! ### What a block reset clears -/

/-- Registers of a quadrant block that are set device-wide: a quadrant's reset keeps them. (DEDUCED, log 26, safe) -/
def deviceWide : List Reg := [.portClass, .hlthCfg, .hlthBudget, .jobWatchSel]

/-- Registers indexed by a port. -/
def portRegs : List Reg :=
  [.portLink, .portCredit, .flrIng, .tmPcfg, .tmVcw0, .tmVcw1, .tmGenw, .tmQecn, .tmQsamp, .tmShpA, .tmShpB, .tmPolA, .tmPolB,
   .tmPolC, .hlthPort]

/-- The stored words for which `p` holds of register and indices go back to their Reset column. -/
def State.dropRegs (s : State) (p : Reg → List Nat → Bool) : State :=
  { s with regs := s.regs.filter fun (x : Nat × W32) => match regAt x.1 with | some (r, ix) => !p r ix | none => false }

/-- An address in the block of quadrant q. -/
def inQuad (q a : Nat) : Bool := a / 0x100000 = q + 1

/-- A stream with an end in quadrant q. -/
def streamAt (q : Nat) (st : StreamId) : Bool := streamFrom st = q || streamTo st = q

/-- The same for a stream's key. -/
def streamKeyAt (q k : Nat) : Bool :=
  let src := k / 256 % 1024
  (if k / 262144 % 2 = 1 then src % 4 else src / 256) = q || (if k / 524288 = 0 then k % 256 / 64 else k % 4) = q

/-- Cells of other quadrants' streams only. -/
def keepCells (q : Nat) (l : List Cell) : List Cell := l.filter fun c => !streamAt q c.st

/-- A frame that goes with the reset of quadrant q has left its domain in the quadrants, other than q, whose scoreboards expect
it (R95, R96). (DEDUCED, log 26, safe) -/
def State.departElsewhere (s : State) (q : Nat) (t : Target) (f : Frame) : State :=
  match t with
  | .unicast _ p => if p / 256 = q then s else s.depart (p / 256) f
  | .mash _ | .pitch _ => if eidDie (oDst f) = q then s else s.depart (eidDie (oDst f)) f
  | .copies cs => ((List.range 4).filter fun y => y ≠ q && cs.any fun c => c.sheaf / 256 = y).foldl (fun (s : State) y => s.depart y f) s

/-- Frames that wait for admission in quadrant q, with its ports and services. -/
def State.waitsIn (s : State) (q : Nat) : List Waiting :=
  (s.waiting.filter fun (x : Nat × List Waiting) => x.1 / 2048 = q || x.1 / 8 = 1024 + q).flatMap (·.2)

/-- Cells that cross quadrant q, or the bundles to and from it, are lost to the streams of the other quadrants, which note them
(R114). -/
def State.loseTransit (s : State) (q : Nat) : State :=
  let flights := s.bundles.flatMap fun b =>
    if b.1 / 256 = q || b.1 / 64 % 4 = q then b.2.flight.filterMap fun (f : FlitSt) =>
      match f.body with | .cell c => some c | _ => none
    else []
  let queued := s.s2.flatMap fun x => if x.1 / 4 = q then x.2 else []
  ((queued ++ flights).filter fun c => !streamAt q c.st).foldl (fun (s : State) c => s.noteLost c) s

/-- Frames on the floor with an end in quadrant q are gone; one from another quadrant gives back what it was charged. -/
def State.dropFloorFrames (s : State) (q : Nat) : State :=
  let toQ (f : Flying) : Bool := match f.target with
    | .unicast _ p => p / 256 = q | .mash y => y.toNat = q | .pitch y => y.toNat = q | .copies _ => false
  let mine (f : Flying) : Bool := srcQuad f.ctx.src = q || toQ f
  let dead := s.flying.filter fun (x : Nat × Flying) => mine x.2
  let s := s.loseTransit q
  let s := (dead.filter fun x => srcQuad x.2.ctx.src ≠ q).foldl (fun (s : State) x => s.freeIngress x.2.ctx) s
  let s := dead.foldl (fun (s : State) x => s.departElsewhere q x.2.target x.2.ctx.bytes) s
  let s := (List.range 4).foldl (fun (s : State) x => (List.range 4).foldl (fun (s : State) y =>
    if x = q then s else s.setS2q x y (keepCells q (SMap.get s.s2 (4 * x + y) []))) s) s
  { s with flying := s.flying.filter fun (x : Nat × Flying) => !mine x.2
           streams := s.streams.filter fun (x : Nat × StreamSt) => !streamKeyAt q x.1
           reseq := s.reseq.filter fun (x : Nat × ReseqSt) => !streamKeyAt q x.1
           s1 := SMap.mapVals (s.s1.filter fun (x : Nat × List Cell) => x.1 / 256 ≠ q) [] (keepCells q)
           s2 := SMap.mapVals (s.s2.filter fun (x : Nat × List Cell) => x.1 / 4 ≠ q) [] (keepCells q)
           arriving := s.arriving.filter fun (x : Nat × Nat × Cell) => !streamAt q x.2.2.st
           lanesIn := SMap.mapVals (s.lanesIn.filter fun (x : Nat × List Cell) => x.1 / 4096 ≠ q) [] (keepCells q)
           s1count := s.s1count.filter fun (x : Nat × Nat) => x.1 / 64 ≠ q
           arrivals := s.arrivals.filter fun (x : Nat × Nat) => x.1 / 64 ≠ q }

/-- The quadrant's own memories: everything kept by port, queue, entry, array or quadrant number (R353, R359, R404).
(DEDUCED, log 26, safe) -/
def State.wipeQuad (s : State) (q : Nat) : State :=
  { s with ports := s.ports.filter fun (x : Nat × PortSt) => x.1 / 256 ≠ q
           queues := s.queues.filter fun (x : Nat × QueueSt) => x.1 / 2048 ≠ q
           pols := s.pols.filter fun (x : Nat × PolSt) => x.1 / 2048 ≠ q
           tmShapeEn := s.tmShapeEn.set q true, tmPolEn := s.tmPolEn.set q true, tmPend := SMap.erase s.tmPend q
           home := s.home.filter fun (x : Nat × BitVec 128) => x.1 / 2 ^ 23 ≠ q
           cache := s.cache.filter fun (x : Nat × CacheLine) => x.1 / 2 ^ 20 ≠ q
           cacheFill := s.cacheFill.filter fun (x : Nat × Nat) => x.1 / 2 ^ 18 ≠ q
           tables := SMap.erase s.tables q
           chan := s.chan.filter fun (x : Nat × List TblMsg) => x.1 / 4 ≠ q && x.1 % 4 ≠ q
           lookups := s.lookups.filter fun l => l.quad.toNat ≠ q
           doms := s.doms.filter fun d => d.quad.toNat ≠ q
           held := s.held.filter fun h => h.quad.toNat ≠ q
           waiting := s.waiting.filter fun (x : Nat × List Waiting) => !(x.1 / 2048 = q || x.1 / 8 = 1024 + q)
           floors := SMap.mapVals (SMap.erase s.floors q) {} fun f => { f with seen := f.seen.set q 0 }
           mashIn := SMap.erase s.mashIn q, respIn := SMap.erase s.respIn q, pitchIn := SMap.erase s.pitchIn q
           svcSeq := s.svcSeq.filter fun x => !(s.isSvcEid q x.1.src.toNat && eidDie x.1.src.toNat = q)
           tuns := s.tuns.filter fun (x : Nat × TunSt) => x.1 / 64 ≠ q
           kstreams := s.kstreams.filter fun (x : Nat × KStream) => x.1 / 64 ≠ q
           arrays := s.arrays.filter fun (x : Nat × ArraySt) => x.1 / 256 ≠ q
           ctrs := s.ctrs.filter fun (x : Nat × Ctr) => x.1 / 131072 ≠ q && x.1 / 512 ≠ 1024 + q
           tap := { s.tap with staged := s.tap.staged.filter fun x => x.1.toNat ≠ q, sampleCnt := s.tap.sampleCnt.set q 0 } }

/-- A bundle held by the reset of one of its dies, or by its own: a die that keeps running keeps the vector in service (R289). -/
def halfReset (z : BundleSt) : BundleSt :=
  { inReset := true, inService := if z.width = 3 || z.inReset then z.inService else some z.work }

/-- The die-to-die directions of quadrant q are held: each bundle trains again. -/
def State.holdBundles (s : State) (q : Nat) : State :=
  let s := (List.range 4).foldl (fun (s : State) y =>
    if y = q then s
    else (List.range 64).foldl (fun (s : State) b =>
      (s.updBundle q y b halfReset).updBundle y q b halfReset) s) s
  { s with dirs := s.dirs.filter fun (x : Nat × DirSt) => x.1 / 4 ≠ q && x.1 % 4 ≠ q }

/-- Frames that wait in other quadrants for a reply of home q take a home miss (R70, R354). -/
def State.missLookups (s : State) (q : Nat) : State :=
  let gone := s.lookups.filter fun l => s.homeOf l.quad.toNat l.key = q
  let s := { s with lookups := s.lookups.filter fun l => s.homeOf l.quad.toNat l.key ≠ q }
  gone.foldl (fun (s : State) l => s.resumeLookup l.ctx none) s

/-- Host records that wait at home q are not processed: LRES 0x0 (R86, R87). -/
def State.dropRecords (s : State) (q : Nat) : State :=
  let gone := s.hostRecs.filter fun r => s.homeOf 0 (eKey r.entry) = q
  let s := { s with hostRecs := s.hostRecs.filter fun r => s.homeOf 0 (eKey r.entry) ≠ q }
  gone.foldl (fun (s : State) r => (s.writeLres r 0).loadDone r.cmd 0) s

/-- Quadrant q goes into block reset (R353, R354). (DEDUCED, log 26, safe) -/
def State.resetQuad (s : State) (q : Nat) : State :=
  let walk := (s.table q).rehashCmd
  let s := (s.waitsIn q).foldl (fun (s : State) w => s.departElsewhere q w.target w.ctx.bytes) s
  let s := (((s.dropFloorFrames q).wipeQuad q).holdBundles q).dropRegs fun r ix =>
    inQuad q (r.addr ix) && r.reach = .core && !deviceWide.contains r
  let peerWire (a : Nat) : Bool := (List.range 4).any fun x => x ≠ q && (List.range 64).any fun b => (List.range 2).any fun h =>
    a = Reg.d2dWire.addr [x, q, b, h]
  let s := s.dropStaged fun a => inQuad q a || peerWire a
  let s := { s with rst := { s.rst with quadInReset := s.rst.quadInReset ||| BitVec.ofNat 4 (2 ^ q) } }
  let s := ((s.missLookups q).dropRecords q).tblSettle
  let s := match walk with | some c => s.complete c .resetAborted [] | none => s
  s.stopEnds.reweight

/-- A port goes into block reset; it keeps its flap penalty and its share of cells (R353). (DEDUCED, log 26, safe) -/
def State.resetPort (s : State) (p : Nat) : State :=
  let s := s.updPort p fun x =>
    { inReset := true, penalty := x.penalty, suppressed := x.suppressed, ingUsed := x.ingUsed }
  let s := s.dropRegs fun r ix => portRegs.contains r && pix p = ix.take 2
  { s with queues := s.queues.filter fun (x : Nat × QueueSt) => x.1 / 8 ≠ p
           pols := s.pols.filter fun (x : Nat × PolSt) => x.1 / 8 ≠ p
           stageTm := s.stageTm.filter fun (x : Nat × W32) => match regAt x.1 with
             | some (_, ix) => ix.take 2 ≠ pix p | none => true }

/-- Bundle pairs in the order of R327. -/
def bundlePairs : List (Nat × Nat) := [(0, 1), (0, 2), (0, 3), (1, 2), (1, 3), (2, 3)]

/-! ### The command -/

/-- The block is held: in block reset already, or in a quadrant that is (R355, R437). -/
def State.blockDown (s : State) (ty ix : Nat) : Bool :=
  let again := s.blockRst.any fun b => b.1 = ty && b.2.1 = ix
  match ty with
  | 1 => again || s.quadDown ix
  | 2 => again || s.quadDown (ix / 256)
  | 3 => again || s.groupDown ix
  | 4 => again || s.portDown ix
  | _ => let p := nthD bundlePairs (ix / 64) (0, 1)
         again || s.quadDown p.1 || s.quadDown p.2

/-- How many blocks of a type there are (R327). -/
def blockCount (ty : Nat) : Nat :=
  match ty with | 1 => 4 | 2 => 1024 | 3 => 64 | 4 => 1024 | 5 => 384 | _ => 0

/-- The block meets its idle condition. -/
def State.blockIdle (s : State) (ty ix : Nat) : Bool :=
  match ty with
  | 1 => s.quadIdle ix
  | 2 => s.arrayIdle ix
  | 3 => s.groupIdle ix
  | 4 => s.portIdle ix
  | _ => let p := nthD bundlePairs (ix / 64) (0, 1)
         s.bundleIdle p.1 p.2 (ix % 64)

/-- The block is cleared and held. -/
def State.blockClear (s : State) (ty ix : Nat) : State :=
  match ty with
  | 1 => s.resetQuad ix
  | 2 => s.updArray ix fun _ => {}
  | 3 => (s.ringsDark ix).updMesh ix fun x => { x with inReset := true }
  | 4 => s.resetPort ix
  | _ => let p := nthD bundlePairs (ix / 64) (0, 1)
         let wire (x y a : Nat) : Bool := (List.range 2).any fun h => a = Reg.d2dWire.addr [y, x, ix % 64, h]
         let s := (s.loseFlight p.1 p.2 (ix % 64)).loseFlight p.2 p.1 (ix % 64)
         let s := (s.updPair p.1 p.2 (ix % 64) halfReset).dropStaged fun a => wire p.1 p.2 a || wire p.2 p.1 a
         ((s.nextQuiet p.1 p.2).nextQuiet p.2 p.1).reweight

/-- BLOCK_RESET (R327, R353, R355). (DEDUCED, log 26, safe) -/
def execBlockReset (c : CmdRing) (s : State) : Res :=
  done (s.withCmd c 0x24 anySub fun s d ref =>
    let ty := leAt d 8 1
    let ix := leAt d 10 2
    -- for the cause of a port, DETAIL is the port (R332)
    let port := if ty = 4 then ix else 0
    if blockCount ty ≤ ix then s.refuse ref .range port
    else if s.blockDown ty ix then s.refuse ref .state port
    else if !s.blockIdle ty ix then s.complete ref .notIdle []
    else { s.blockClear ty ix with blockRst := s.blockRst ++ [(ty, ix, ref)] })

/-! ### Its completion -/

/-- A held quadrant is released: caches drop what it homes, its arrays are tested, the weights follow (R236, R354). -/
def State.freeQuad (s : State) (q : Nat) (obs : List (BitVec 10 × StartTest)) : State :=
  let now := s.time.free.toNat
  let s := { s with rst := { s.rst with quadInReset := s.rst.quadInReset &&& ~~~(BitVec.ofNat 4 (2 ^ q)) }
                    netBase := s.netBase.set q now, sampleStart := s.sampleStart.set q now, sampleWin := s.sampleWin.set q 1000 }
  let s := (List.range 4).foldl (fun (s : State) y =>
    if y = q then s else (s.cacheUnhome y q).postMsg y q (.hold (s.floor y).hold)) s
  let s := (List.range 256).foldl (fun (s : State) a => s.startTest (256 * q + a) (testOf obs (256 * q + a))) s
  let s := (List.range 4).foldl (fun (s : State) y =>
    if y = q then s else (List.range 64).foldl (fun (s : State) b => s.updPair q y b fun z => { z with inReset := false }) s) s
  s.reweight fun x y => x = q || y = q

/-- The block leaves block reset. -/
def State.blockFree (s : State) (ty ix : Nat) (obs : List (BitVec 10 × StartTest)) : State :=
  match ty with
  | 1 => s.freeQuad ix obs
  | 2 => s.startTest ix (testOf obs ix)
  | 3 => s.updMesh ix fun x => { x with inReset := false }
  | 4 => s.updPort ix fun x => { x with inReset := false }
  | _ => let p := nthD bundlePairs (ix / 64) (0, 1)
         (s.updPair p.1 p.2 (ix % 64) fun z => { z with inReset := false }).reweight fun x y => (x, y) = p || (y, x) = p

/-- BLOCK_RESET_COMPLETE, which the firmware makes (R24), of the block of type `ty` and index `ix`, with the start tests of
arrays that did not plainly pass. (DEDUCED, log 26, safe) -/
def execBlockResetComplete (ty : BitVec 8) (ix : BitVec 16) (arrays : List (BitVec 10 × StartTest)) (s : State) : Res :=
  if !s.hif.fwReady then done s else
  match s.blockRst.find? fun b => b.1 = ty.toNat && b.2.1 = ix.toNat with
  | none => done s
  | some b =>
    let s := { s with blockRst := s.blockRst.filter fun x => !(x.1 = ty.toNat && x.2.1 = ix.toNat) }
    done ((s.blockFree ty.toNat ix.toNat arrays).succeed b.2.2)

end Sys2Proof.Machine
end

