-- ==== Sys2Proof/Machine/Reset.lean ====
section
/-! DEFINITION. The reset pins, the host's resets, the release steps, errors in critical state and the reference monitor (R343
to R352, R357, R450, R451). -/
namespace Sys2Proof.Machine

/-! ### Power-on (R344, R347, R357) -/

/-- POR_N_ASSERT: POR_N has been low for 10 µs. -/
def execPorNAssert (s : State) : Res := done (if s.rst.held.contains .porPin then s else s.source .porPin true)

/-- POR_N_RELEASE: POR_N has been high for 1 ms. -/
def execPorNRelease (s : State) : Res := done (if s.rst.held.contains .porPin then s.sourceEnds .porPin else s)

/-- POR_SUPPLY_LOW: the cellar supply is below its threshold; the input's removal ends the hold of a cellar trip and takes the
power of the trip latch (R431, R445). -/
def execPorSupplyLow (s : State) : Res :=
  let s := { s with pwr := { s.pwr with cellarTrip := false, tripLatch := false } }
  done (if s.rst.held.contains .porSupply then s else s.source .porSupply true)

/-- POR_SUPPLY_RELEASE: the supply has held for 10 µs. -/
def execPorSupplyRelease (s : State) : Res := done (if s.rst.held.contains .porSupply then s.sourceEnds .porSupply else s)

/-! ### SYS_RST_N and PERST_N -/

/-- SYS_RST_N_ASSERT: SYS_RST_N has been low for 1 µs. -/
def execSysRstNAssert (s : State) : Res := done (if s.rst.held.contains .sysPin then s else s.source .sysPin true)

/-- SYS_RST_N_RELEASE: SYS_RST_N has been high for 100 µs; HELD and the count of error-raised resets clear (R352). -/
def execSysRstNRelease (s : State) : Res :=
  if !s.rst.held.contains .sysPin then done s
  else
    let s := { s with rst := { s.rst with recent := if s.rst.heldSys then [] else s.rst.recent, heldSys := false } }
    done (s.sourceEnds .sysPin)

/-- A host-interface reset: the configuration space, the rings and the MSI-X state go, and outstanding commands lose their
completions (R346, R450). (DEDUCED, log 19, safe) -/
def State.resetHif (s : State) : State :=
  { s with hif := { fwReady := s.hif.fwReady, eventsLost := s.hif.eventsLost }
           rings := SMap.mapVals s.rings {} fun x => { cmds := x.cmds.map fun f => { f with mute := true } } }

/-- PERST_N_ASSERT: PERST_N has been low for 1 µs, or a Hot Reset or link down stands; PERST_MODE is sampled (R346, R451).
(DEDUCED, log 19, safe) -/
def execPerstNAssert (s : State) : Res :=
  if s.rst.perstLow then done s
  else
    let mode := s.rb .rstCfg [] 0
    let s := { s with rst := { s.rst with perstLow := true, perstSampled := mode } }
    done (if mode then s.resetHif else s.source .sysPerst true)

/-- PERST_N_RELEASE: PERST_N has been high for 10 µs. A link that no reset holds down trains again.
(DEDUCED, log 19, safe) -/
def execPerstNRelease (s : State) : Res :=
  if !s.rst.perstLow then done s
  else
    let s := { s with rst := { s.rst with perstLow := false } }
    if s.rst.held.contains .sysPerst then done (s.sourceEnds .sysPerst)
    else done (if s.rst.perstSampled && !s.sysHeld then { s with hif := { s.hif with linkUp := true } } else s)

/-! ### Host resets (R345) -/

/-- A host write of RST_CTRL: without KEY it is ignored and counted; SYS_RESET governs where both bits are 1. -/
def State.rstCtrl (s : State) (v : W32) : State :=
  if fld v.toNat 16 16 ≠ 0xC0DE then s.ignoredWrite
  else if bit v.toNat 1 then s.source .sysHost false
  else if bit v.toNat 0 then s.source .coreHost false
  else s

/-- CORE_RESET. -/
def execCoreReset (v : W32) (s : State) : Res := done (s.host (·.rstCtrl v))

/-- SYS_RESET. -/
def execSysReset (v : W32) (s : State) : Res := done (s.host (·.rstCtrl v))

/-! ### Release steps (R348) -/

/-- Step 9: windows start, and the floor takes its weights from the bundles as trained (R130). -/
def State.quadsReleased (s : State) : State :=
  let s := s.startWindows
  let w := s.weightsNow
  (s.installWeights w fun _ _ => true).floorRecords w

/-- Step 10: start tests; after a system or power-on reset the non-volatile record; after power-on and P3 normal maps (R236,
R261, R269). -/
def State.testsRun (s : State) (o : StepObs) : State :=
  let s := s.startAll o.arrays
  let s := if s.sysHeld then s.applyRecordNv o.nvFirst o.nvSecond else s
  let s := if s.rst.reach = some .powerOn || s.rst.fromP3 then s.meshesNormal else s
  (s.toStep 11).lightEngines

/-- RELEASE_STEP_COMPLETE: step n ends. Steps 5 and 7 run beside the others. A step that is not in progress does not end.
(DEDUCED, log 22, safe) -/
def execReleaseStepComplete (n : BitVec 4) (o : StepObs) (s : State) : Res :=
  let k := n.toNat
  let now := s.rst.step
  if k = 5 then
    done (if !s.hif.linkUp && !s.rst.perstLow && (s.rst.reach.isNone || 4 ≤ now) then
      { s with hif := { s.hif with linkUp := true } } else s)
  else if s.rst.reach.isNone || now = 0 then done s
  else if k = 7 then
    done (if s.wipesCask && 8 ≤ now then { s with rst := { s.rst with caskWiped := true } } else s)
  else if k ≠ now then done s
  else
    match k with
    | 1 => done (if s.clk.refOk then s.toStep 2 else s)
    | 2 => done (s.readFuses.toStep 3)
    | 3 => done ({ s with clk := { s.clk with pllLock := true } }.toStep 4)
    | 4 => done s.bootStep
    | 6 => done (s.toStep 8)
    | 8 => done (s.toStep 9)
    | 9 => done (s.quadsReleased.toStep 10)
    | 10 => done (s.testsRun o)
    | 11 => done (if s.wipesCask && !s.rst.caskWiped then s else s.releaseEnds)
    | _ => done s

/-! ### Errors in critical state (R350 to R352) -/

/-- UNIT of RST_ERRSRC. (DEDUCED, log 27, safe) -/
def critCode (u : CritUnit) : BitVec 4 :=
  match u with
  | .resetController => 1 | .cellarController => 2 | .floorRotation => 3 | .rootPll => 4

/-- CRITICAL_ERROR: a system reset is raised without firmware; the third within 10 s holds the reach.
(DEDUCED, log 27, safe) -/
def execCriticalError (u : CritUnit) (q : Quad) (s : State) : Res :=
  if s.sysHeld && s.rst.step = 0 then done s
  else
    let recent := (s.rst.recent.filter fun t => s.time.core ≤ t + 20000000000) ++ [s.time.core]
    let held : Bool := 3 ≤ recent.length
    let s := s.source .sysError false
    let s := { s with rst := { s.rst with errUnit := critCode u, errQuad := if u = CritUnit.floorRotation then q else 0, recent := recent,
                                          errRaised := true, heldSys := s.rst.heldSys || held } }
    done s.startRelease

/-! ### The reference monitor (R343) -/

/-- REF_OK_LOSS, with the offset measured: REF_OK falls, also where it had not held for 1 ms since the last fall. -/
def execRefOkLoss (offset : W16) (s : State) : Res :=
  let s := { s with clk := { s.clk with refOk := false, holdover := s.clk.pllLock, refLost := true, refOffset := offset } }
  done (s.errorAt 0x09 sevContained 0xFF [(32, [1]), (36, leBytes 2 offset.toNat)])

/-- REF_OK_RESTORED: REF_OK has held for 1 ms, and HOLDOVER clears. -/
def execRefOkRestored (s : State) : Res :=
  done { s with clk := { s.clk with refOk := true, holdover := false } }

/-- SCL_STUCK_LOW: SDA is released and the bus interface resets, so the access under way gets no answer; no reading or status bit of
the device changes (R357). -/
def execSclStuckLow (s : State) : Res := done (s.reply .noResponse)

end Sys2Proof.Machine
end

