-- ==== Sys2Proof/Machine/Errors.lean ====
section
/-! DEFINITION. Error records at the host, the firmware watchdog and the return of the firmware (R336, R362, R369 to R374). -/
namespace Sys2Proof.Machine

/-- ERR_ACK: the record with this SEQ leaves the queue, with a FINAL event if it folded more than one occurrence (R372). -/
def execErrAck (seq : W32) (s : State) : Res :=
  done (s.host fun s =>
    match s.err.queue.find? (·.seq = seq) with
    | none => s.ignoredWrite
    | some r =>
      let s := { s with err := { s.err with queue := s.err.queue.filter (·.seq ≠ seq) } }
      if 1 < r.count then s.eventBytes (r.bytes s.time.ns true) else s)

/-- The sixteen words of a record. -/
def recWords (r : ErrRec) : List W32 :=
  let b := r.bytes r.timeNs false
  (List.range 16).map fun k => BitVec.ofNat 32 (leAt b (4 * k) 4)

/-- ERR_HEAD_READ: word 0 of the oldest record, all of which is latched; 0 with the queue empty (ERR_HEAD). -/
def execErrHeadRead (s : State) : Res :=
  done (s.host fun s =>
    match s.err.queue.head? with
    | none => s.reply (.data 0)
    | some r =>
      let w := recWords r
      { s with err := { s.err with head := w } }.reply (.data ((nthD w 0 0).setWidth 64)))

/-- OVERFLOW_CLEAR: a 1 written to OVERFLOW clears it and LOST (R371). -/
def execOverflowClear (s : State) : Res :=
  done (s.host fun s => { s with err := { s.err with overflow := false, lost := 0 } })

/-- AER_UNCORRECTABLE (R362, R369). (DEDUCED, log 29, unsafe) -/
def execAerUncorrectable (s : State) : Res := done (s.errorAt 0x0A sevContained 0xFF [(32, [1])])

/-! ### The firmware (R336, R374) -/

/-- A rehash that a firmware restart ends is walked back: the outgoing seeds of home h are active again, and the entries moved
so far return to them (R77, R331). (DEDUCED, log 25, unsafe) -/
def State.unrehash (s : State) (h : Nat) : State :=
  let t := s.table h
  match t.rehash, t.rehashCmd with
  | some (_, o1, o2), some _ =>
    let n := s.reg .tblBucket [h]
    (s.setReg .tblBucket [h] (o1.toNat + o2.toNat * 65536)).updTable h fun t =>
      { t with rehash := some (0, BitVec.ofNat 16 n, BitVec.ofNat 16 (n / 65536)), rehashCmd := none, seedSel := !t.seedSel }
  | _, _ => s

/-- What fetched commands were doing beyond their own step is undone: a command ended by FW_RESTARTED has applied none of its
change (R331). A block already in reset stays so until its reset completes: it is wiped. (DEDUCED, log 25, unsafe) -/
def State.undoWork (s : State) : State :=
  let s := (List.range 4).foldl State.unrehash (s.giveUpRecords fun _ => true)
  let fences := s.tblWait.filterMap (·.2.2)
  let s := fences.reverse.foldl State.unfence { s with tblWait := [] }
  { s with loadQ := [], launches := [], loads := []
           plans := s.plans.map fun (x : Nat × Plan) => (x.1, { x.2 with unload := none })
           meshes := SMap.mapVals s.meshes {} fun x =>
             match x.prev with
             | some (old, some _) => { meshBack old x with recal := none }
             | _ => { x with recal := none }
           tap := { s.tap with running := s.tap.running || !s.tap.stopCmd.isEmpty, stopCmd := [] }
           sec := { s.sec with staging := none }
           pwr := { s.pwr with transition := none } }

/-- Every command fetched and not completed ends with FW_RESTARTED; answers how many. (DEDUCED, log 25, unsafe) -/
def State.endFetched (s : State) : State × Nat :=
  (List.range 16).foldl (fun (acc : State × Nat) c =>
    (acc.1.ring c).cmds.foldl (fun (acc : State × Nat) f =>
      (acc.1.complete (f.ref (BitVec.ofNat 4 c)) .fwRestarted [], acc.2 + 1)) acc)
    (((List.range 64).filter fun g => (s.mesh g).recal.isSome).foldl (fun (s : State) g => s.groupPorts g) s.undoWork, 0)

/-- The firmware runs, or starts, under its watchdog: no reach stands, it is not held, and a bank boots. -/
def State.fwLive (s : State) : Bool := s.rst.reach.isNone && !s.err.fwHeld && !s.sec.bootFail

/-- A FIRMWARE record (R369). -/
def State.firmwareRecord (s : State) (held : Bool) : State :=
  s.errorAt 0x0B sevContained 0xFF [(32, leBytes 1 s.restartsNow.length), (33, leBytes 1 (b2n held))]

/-- WATCHDOG_EXPIRY: the controller restarts alone; at the third restart within 60 s it is held (R374).
(DEDUCED, log 24, unsafe) -/
def execWatchdogExpiry (s : State) : Res :=
  if !s.fwLive then done s
  else
    let times := s.restartsNow ++ [s.time.core]
    let held : Bool := 3 ≤ times.length
    let s := { s with hif := { s.hif with fwReady := false }
                      sec := { s.sec with wdRestarts := times, activating := false, recovered := false, staging := none }
                      err := { s.err with fwHeld := held } }
    done (if held then s.firmwareRecord true else s)

/-- FIRMWARE_RESTART_COMPLETE: the controller has booted; fetched commands end, the event is raised, fetching resumes (R336,
R415, R419), and after a watchdog restart the record is written (R374). (DEDUCED, log 24, unsafe) -/
def execFirmwareRestartComplete (s : State) : Res :=
  if !s.fwLive || s.hif.fwReady then done s
  else
    let chosen := s.sec.activating
    let b := s.bootRom
    if b.1.sec.bootFail then done b.1
    else
      let fb := b.1.sec.runBank ≠ s.sec.nextBank.getD s.sec.bootBank
      -- the restart itself was counted as it began
      let e := { b.1 with sec := { b.1.sec with wdRestarts := s.sec.wdRestarts } }.endFetched
      let s := e.1.firmwareEvent fb e.2
      let s := { s with hif := { s.hif with fwReady := true }, sec := { s.sec with trial := false, activating := false } }
      done (if chosen then s else s.firmwareRecord false)

end Sys2Proof.Machine
end

