-- ==== Sys2Proof/Machine/Fleet.lean ====
section
/-! DEFINITION. Link health and the expulsion budget (R393 to R396). -/
namespace Sys2Proof.Machine

/-! ### Scores and levels (R393, HLTH_CFG, HLTH_BUDGET) -/

/-- SCORE of a penalty. -/
def scoreOf (d : Nat) : Nat := 255 - min 255 d
def State.score (s : State) (p : Nat) : Nat := scoreOf (s.port p).hd
def State.suspectLvl (s : State) : Nat := s.rf .hlthCfg [0] 0 8
def State.readmitLvl (s : State) : Nat := max s.suspectLvl (s.rf .hlthCfg [0] 8 8)
/-- PIN of a port. -/
def State.pinned (s : State) (p : Nat) : Bool := s.rb .hlthPort (pix p) 10

/-- Expulsions within the last EXPEL_WIN_MS on the whole device. -/
def State.inWindow (s : State) : Nat :=
  let win := max 1 (s.rf .hlthBudget [0] 8 16) * 1000000
  (s.expulsions.filter fun t => s.time.free.toNat < t + win).length

/-- W of a port's sheaf, and its MIN_WIDTH; none for a port of no sheaf. -/
def State.sheafWidth (s : State) (p : Nat) : Option (Nat × Nat × Nat) :=
  match s.sheafOfPort p with
  | none => none
  | some k => some (k, (s.activeList k).length, ((SMap.find s.sheaves k).map (·.minWidth)).getD 0)

/-- The HEALTH event (R396). -/
def State.healthEvent (s : State) (p action : Nat) : State :=
  let w := (s.sheafWidth p).getD (0, 0, 0)
  s.event 0x08 [(16, leBytes 2 p), (18, leBytes 1 action), (19, leBytes 1 (s.score p)), (20, leBytes 2 w.1),
    (22, leBytes 1 w.2.1), (24, leBytes 4 s.inWindow)]

/-- The budget allows one more expulsion (R395). -/
def State.budgetLeft (s : State) : Bool := s.inWindow < s.rf .hlthBudget [0] 0 8

/-- The sheaf keeps MIN_WIDTH without port p (R395). -/
def State.widthAllows (s : State) (p : Nat) : Bool :=
  match s.sheafWidth p with
  | none => true
  | some (k, w, least) => least ≤ w - b2n ((s.activeList k).contains p)

/-- Port p is expelled: it leaves the active list, which its quadrant tells the others (R91, R278), and counts in the window. -/
def State.expel (s : State) (p : Nat) : State :=
  let s := (s.updPort p fun x => { x with hstate := .expelled, readmitAt := none }).tellAll (p / 256)
  ({ s with expulsions := (s.expulsions.filter fun t => s.time.free.toNat < t + 65535000000) ++ [s.time.free.toNat] }).healthEvent p 2

/-- Port p becomes DEGRADED, with the event that says why. -/
def State.degrade (s : State) (p action : Nat) : State :=
  (s.updPort p fun x => { x with hstate := .degraded, degradedAt := s.time.core, readmitAt := none }).healthEvent p action

/-! ### The millisecond (R393, R394) -/

/-- The points of one millisecond of a port. (DEDUCED, log 79, safe) -/
def State.healthPoints (s : State) (p uncorrectable : Nat) : Nat :=
  let x := s.port p
  let missing := if x.up then popcount (x.firstWidth &&& ~~~x.width).toNat 8 else 0
  let silent : Bool := x.silentMs || x.aliveAt + 512000 ≤ s.time.core
  min 255 (4 * uncorrectable + x.retryPoints + 8 * missing + 64 * b2n silent)

/-- A port's penalty takes its millisecond, and the codewords are counted (R393, R401). -/
def State.healthCount (s : State) (p : Nat) (o : Option FecObs) : State :=
  let c := (o.map (·.corrected)).getD 0
  let u := (o.map (·.uncorrectable)).getD 0
  let pts := s.healthPoints p u
  ((s.updPort p fun x => { x with hd := min 4095 (x.hd - x.hd / 8 + pts), retryPoints := 0, silentMs := false }).count p 4 c).count p 5 u

/-- HEALTHY and SUSPECT move by the score; the readmission timer runs while the score holds (R394). -/
def State.healthMove (s : State) (p : Nat) : State :=
  let low : Bool := s.score p < s.suspectLvl
  let good : Bool := s.readmitLvl ≤ s.score p
  match (s.port p).hstate with
  | .healthy => if low then (s.updPort p fun x => { x with hstate := .suspect, suspectAt := s.time.core }).healthEvent p 1 else s
  | .suspect => if low then s else (s.updPort p fun x => { x with hstate := .healthy }).healthEvent p 6
  | .degraded | .expelled =>
    s.updPort p fun x => { x with readmitAt := if good then x.readmitAt.or (some s.time.core) else none }

/-- The DEGRADED ports whose score is low, oldest degradation first. -/
def State.degradedLow (s : State) (ps : List Nat) : List Nat :=
  let at_ (p : Nat) : Nat := (s.port p).degradedAt
  let low := ps.filter fun p => (s.port p).hstate = .degraded && s.score p < s.suspectLvl
  low.foldl (fun (l : List Nat) p => (l.takeWhile fun a => at_ a ≤ at_ p) ++ p :: (l.dropWhile fun a => at_ a ≤ at_ p)) []

/-- The armed ports. -/
def State.allArmed (s : State) : List Nat := (List.range 1024).filter fun p => (s.port p).armed

/-- The DEGRADED ports whose score is low are expelled as budget and width allow (R394, R395). -/
def State.expelDegraded (s : State) : State :=
  (s.degradedLow s.allArmed).foldl (fun (s : State) p =>
    if !s.pinned p && s.budgetLeft && s.widthAllows p then s.expel p else s) s

/-- HEALTH_TICK: a millisecond of every armed port, with what their receivers counted. (DEDUCED, log 79, safe) -/
def execHealthTick (obs : List FecObs) (s : State) : Res :=
  if !(s.live && s.hif.fwReady) then done s
  else
    let ps := s.allArmed
    let s := (ps.foldl (fun (s : State) p => s.healthCount p (obs.find? fun o => o.port.toNat = p)) s).expelDegraded
    done (ps.foldl (fun (s : State) p => s.healthMove p) s)

/-- EXPEL_HOLD_MS in CLK_CORE cycles. -/
def State.expelHold (s : State) : Nat := max 1 (s.rf .hlthCfg [0] 16 8) * 2000000

/-- A SUSPECT port whose hold has run out is expelled or degraded (R394); the budget is judged first (R395). -/
def State.holdEnds (s : State) (k : Nat) : State :=
  if (s.port k).hstate ≠ .suspect || s.pinned k then s
  else if !s.budgetLeft then s.degrade k 3
  else if !s.widthAllows k then s.degrade k 4
  else s.expel k

/-- EXPEL_HOLD_EXPIRY: a port has been SUSPECT for EXPEL_HOLD_MS (R394). The decisions of its millisecond that R395 takes before it
come first: the DEGRADED ports, and the lower ports whose hold has run out as well. (DEDUCED, log 79, safe) -/
def execExpelHoldExpiry (p : Port) (s : State) : Res :=
  let k := p.toNat
  done (if !s.live || !s.hif.fwReady || (s.port k).hstate ≠ .suspect || s.pinned k then s
    else
      let before := s.allArmed.filter fun j => j < k && (s.port j).suspectAt + s.expelHold ≤ s.time.core
      (before.foldl (fun (s : State) j => s.holdEnds j) s.expelDegraded).holdEnds k)

/-- READMIT_HOLD_EXPIRY: the score has stayed at READMIT_LVL for READMIT_HOLD (R394). -/
def execReadmitHoldExpiry (p : Port) (s : State) : Res :=
  let k := p.toNat
  let x := s.port k
  done (if s.live && s.hif.fwReady && (x.hstate = .degraded || x.hstate = .expelled) && x.readmitAt.isSome then
    ((s.updPort k fun x => { x with hstate := .healthy, readmitAt := none }).tellAll (k / 256)).healthEvent k 5
  else s)

end Sys2Proof.Machine
end

