-- ==== Sys2Proof/Machine/Counters.lean ====
section
/-! DEFINITION. Reading and clearing counters (R401 to R404), and the tap: its rules, its records and the operating mode (R406 to
R412). -/
namespace Sys2Proof.Machine

/-! ### Counters -/

/-- CNT_CLEAR (R404): INDEX, GROUP, ZERO and ALL of the word written. (DEDUCED, log 78, safe) -/
def execCntClear (v : W32) (s : State) : Res :=
  done (s.host fun s =>
    let n := v.toNat
    let g := fld n 9 12
    let mine (k : Nat) : Bool := k / 512 = g && (bit n 22 || k % 512 = fld n 0 9)
    { s with ctrs := s.ctrs.map fun (x : Nat × Ctr) => (x.1, if mine x.1 then x.2.clear s.time.core (bit n 21) else x.2) })

/-- The counter a BAR4 offset shows (R401, R403). (DEDUCED, log 44, safe) -/
def State.shown (s : State) (off : Nat) : Nat :=
  let page := s.reg .cntPage [off / 4096]
  if bit page 12 then (s.ctr (fld page 0 12) (off % 4096 / 8)).toNat else 0

/-- BAR4_READ of `size` bytes at an offset (R403). (DEDUCED, log 78, safe) -/
def execBar4Read (off : BitVec 18) (size : Nat) (s : State) : Res :=
  done (s.host fun s =>
    let o := off.toNat
    let v := s.shown o
    let word (n : Nat) : Reply := .data (BitVec.ofNat 64 n)
    if size = 8 && o % 8 = 0 then s.reply (word v)
    else if size = 4 && o % 8 = 0 then
      { s with pageShadow := SMap.put s.pageShadow (o / 4096) (BitVec.ofNat 32 (v / 2 ^ 32)) }.reply (word (v % 2 ^ 32))
    else if size = 4 && o % 8 = 4 then
      match SMap.find s.pageShadow (o / 4096) with
      | some h => { s with pageShadow := SMap.erase s.pageShadow (o / 4096) }.reply (word h.toNat)
      | none => s.reply (word (v / 2 ^ 32))
    else { s with err := { s.err with badAccess := satTo 65535 (s.err.badAccess + 1) } }.reply .unsupported)

/-- BAR4_WRITE: discarded and counted (R403). (DEDUCED, log 78, safe) -/
def execBar4Write (_off : BitVec 18) (s : State) : Res := done (s.host fun s => s.countDev 2)

/-! ### TAP_SET (R406) -/

/-- A TAP_SET command whose record carries operation `op`; a failed read ends it with DMA_ERROR. -/
def State.withTap (s : State) (c : CmdRing) (op : Nat) (rd : DmaRead) (k : State → CmdRef → List Byte → State) : State :=
  let mine : Bool := match rd with | none => true | some b => leAt b 0 1 = op
  if mine then
    s.withRead c 0x41 anySub (leAt · 16 8) rd fun s d ref b =>
      if leAt d 24 4 ≠ 64 then s.refuse ref .range 0 else k s ref b
  else s

/-- Fields of a match block out of range (Match blocks). (DEDUCED, log 77, safe) -/
def blockBad (b : List Byte) : Bool :=
  7 < leAt b 32 1 || 15 < leAt b 33 1 || 2 < leAt b 34 1 || 2 < leAt b 35 1 || 1 < leAt b 38 1 || leAt b 39 1 ≠ 0

/-- The match block of a record. -/
def blockOf (b : List Byte) : MatchBlock :=
  { points := BitVec.ofNat 8 (leAt b 32 1), classes := BitVec.ofNat 8 (leAt b 33 1), priv := BitVec.ofNat 8 (leAt b 34 1),
    master := BitVec.ofNat 8 (leAt b 35 1), job := BitVec.ofNat 16 (leAt b 36 2), jobAny := bit (leAt b 38 1) 0,
    eid := BitVec.ofNat 32 (leAt b 40 4), eidMask := BitVec.ofNat 32 (leAt b 44 4), lo := BitVec.ofNat 64 (leAt b 48 8),
    hi := BitVec.ofNat 64 (leAt b 56 8) }

/-- The rule or filter of a record. -/
def ruleOf (b : List Byte) (cask : Bool) : TapRule :=
  { portLo := leAt b 4 2, portHi := leAt b 6 2, en := bit (leAt b 8 1) 0, cask, blk := blockOf b }

/-- A reserved operation, for the one row that refuses it. (DEDUCED, log 21, safe) -/
def tapReserved (rd : DmaRead) : Bool := match rd with | none => false | some b => leAt b 0 1 = 0 || 5 < leAt b 0 1

/-- TAP_SET_RULE; this row also refuses a record of a reserved operation. -/
def execTapSetRule (c : CmdRing) (rec : DmaRead) (s : State) : Res :=
  done (if tapReserved rec then s.withRead c 0x41 anySub (leAt · 16 8) rec fun s _ ref _ => s.refuse ref .range 0
    else s.withTap c 1 rec fun s ref b =>
      let dest := leAt b 9 1
      if 15 < leAt b 1 1 || !allZero b 2 2 || 1023 < leAt b 4 2 || 1023 < leAt b 6 2 || 1 < leAt b 8 1 || dest = 0 || 2 < dest ||
          !allZero b 10 22 || blockBad b then s.refuse ref .range 0
      else if dest = 2 && s.tap.running then s.refuse ref .state 0
      else { s with tap := { s.tap with pendRules := SMap.put s.tap.pendRules (leAt b 1 1) (ruleOf b (dest = 2)) } }.succeed ref)

/-- TAP_SET_FILTER. -/
def execTapSetFilter (c : CmdRing) (rec : DmaRead) (s : State) : Res :=
  done (s.withTap c 2 rec fun s ref b =>
    let q := leAt b 2 1
    if 15 < leAt b 1 1 || 3 < q || leAt b 3 1 ≠ 0 || leAt b 4 2 / 256 ≠ q || leAt b 6 2 / 256 ≠ q || 1 < leAt b 8 1 ||
        !allZero b 9 23 || blockBad b then s.refuse ref .range 0
    else { s with tap := { s.tap with
      pendFilters := SMap.put s.tap.pendFilters (16 * q + leAt b 1 1) (ruleOf b false) } }.succeed ref)

/-- TAP_START. -/
def execTapStart (c : CmdRing) (rec : DmaRead) (s : State) : Res :=
  done (s.withTap c 3 rec fun s ref b =>
    if !allZero b 1 7 || 1 < leAt b 8 1 || !allZero b 9 55 then s.refuse ref .range 0
    else if s.tap.running then s.refuse ref .state 0
    else { s with tap := { s.tap with running := true, caskStop := bit (leAt b 8 1) 0 } }.succeed ref)

/-- TAP_STOP. (DEDUCED, log 77, safe) -/
def execTapStop (c : CmdRing) (rec : DmaRead) (s : State) : Res :=
  done (s.withTap c 4 rec fun s ref b =>
    if !allZero b 1 63 then s.refuse ref .range 0
    else if !s.tap.running then s.refuse ref .state 0
    else { s with tap := { s.tap with running := false, stopCmd := s.tap.stopCmd ++ [ref] } }.stopEnds)

/-- Records that the tap region of quadrant q holds (R409). -/
def State.tapCap (s : State) (q : Nat) : Nat := caskSize (s.layout q) 2 / 160
/-- Cask address of record k in the tap region of quadrant q. (DEDUCED, log 77, safe) -/
def State.tapPlace (s : State) (q k : Nat) : Nat := caskBase (s.layout q) 2 + 160 * (k % s.tapCap q)

/-- TAP_READ: records of a quadrant's region go to a host buffer. (DEDUCED, log 77, safe) -/
def execTapRead (c : CmdRing) (rec : DmaRead) (s : State) : Res :=
  done (s.withTap c 5 rec fun s ref b =>
    let q := leAt b 2 1
    let first := leAt b 8 8
    let n := leAt b 16 4
    let have_ := (nthD s.tap.writeIdx q 0).toNat
    if leAt b 1 1 ≠ 0 || 3 < q || !allZero b 3 5 || !allZero b 20 4 || !allZero b 32 32 then s.refuse ref .range 0
    else if s.quadDown q then s.refuse ref .state 0
    else if have_ < first + n || first + s.tapCap q < have_ then s.refuse ref .range 0
    else ((List.range n).foldl (fun (s : State) i =>
      -- a poisoned record is discarded and counted (R365)
      if s.tap.badCask.contains (q, first + i) then s.countQuad q 51
      else s.hostWrite (leAt b 24 8 + 160 * i) (s.caskRead q (s.tapPlace q (first + i)) 160)) s).succeed ref)

/-- Writes a record to the tap region of quadrant q, or counts it lost where the region has stopped full (R408, R409).
(DEDUCED, log 77, safe) -/
def State.tapToCask (s : State) (q : Nat) (b : List Byte) : State :=
  let k := (nthD s.tap.writeIdx q 0).toNat
  if s.tapCap q = 0 || (s.tap.caskStop && s.tapCap q ≤ k) then s.countQuad q 48
  else
    let r := nthD s.tap.rseqCask q 0
    let s := s.caskWrite q (s.tapPlace q k) (patch b 28 (leBytes 4 r.toNat))
    { s with tap := { s.tap with writeIdx := s.tap.writeIdx.set q (BitVec.ofNat 64 (k + 1))
                                 rseqCask := s.tap.rseqCask.set q (r + 1) } }.countDev 5

/-- Writes a record to the host tap ring, or counts it lost (R334, R408). (DEDUCED, log 77, safe) -/
def State.tapToHost (s : State) (q : Nat) (b : List Byte) : State :=
  if s.ringRoom 33 (b.length / 160) then
    let s := s.putEntry 33 (patch b 28 (leBytes 4 s.tap.rseqHost.toNat)) false
    { s with tap := { s.tap with rseqHost := s.tap.rseqHost + 1 } }.countDev 4
  else s.countQuad q 48

/-- TAP_RECORD_DRAIN: the oldest staged record of quadrant q leaves (R407, R408). (DEDUCED, log 77, safe) -/
def execTapRecordDrain (q : Quad) (s : State) : Res :=
  match s.tap.staged.find? fun x => x.1 = q with
  | none => done s
  | some x =>
    let s := { s with tap := { s.tap with staged := s.tap.staged.eraseP fun y => y.1 = q } }
    done (if x.2.cask then s.tapToCask q.toNat x.2.bytes else s.tapToHost q.toNat x.2.bytes).stopEnds

/-! ### Operating mode (R410) and sampler (R411) -/

/-- The recovery condition. -/
def State.recoveryNeeded (s : State) : Bool :=
  (s.err.queue.any fun r => r.sev = sevContained || r.sev = sevFatal) || s.rst.quadInReset ≠ 0 || s.partitioned

/-- MODE_WRITE: 0 NORMAL, 1 START_UP, 2 TEST, 3 RECOVERY; a write the table does not allow is ignored and counted. -/
def execModeWrite (m : BitVec 2) (s : State) : Res :=
  done (s.host fun s =>
    let now := s.tap.mode
    let idle : Bool := s.plans.isEmpty && s.loadQ.isEmpty && !(s.pitch.any fun (x : Nat × PitchImg) => x.2.state ≠ .free)
    if m = 0 && now ≠ 0 then s.toNormal
    else if now = 0 && ((m = 2 && idle) || (m = 3 && s.recoveryNeeded)) then { s with tap := { s.tap with mode := m } }
    else s.ignoredWrite)

/-- RECOVERY_EXIT: the recovery condition has been absent for 1 s. -/
def execRecoveryExit (s : State) : Res :=
  done (if s.tap.mode = 3 && !s.recoveryNeeded then s.toNormal else s)

/-- SAMPLER_EN_WRITE: EN = 1. -/
def execSamplerEnWrite (s : State) : Res :=
  done (s.host fun s =>
    if s.tap.mode = 0 then s.ignoredWrite
    else if s.tap.sampleEn then s
    else { s with tap := { s.tap with sampleEn := true, sampleCnt := [0, 0, 0, 0] } })

end Sys2Proof.Machine
end

