-- ==== Sys2Proof/Machine/FwImage.lean ====
section
/-! DEFINITION. Firmware images (R413): what the ROM and the firmware verify of one (R414, R417), and recovery through SEC_RECOV
(R416). -/
namespace Sys2Proof.Machine

/-! ### Verification (R414, R417) -/

/-- Check 1 of R414: the offset of the first field found wrong. (DEDUCED, log 73, unsafe) -/
def imageField (b : List Byte) : Option Nat :=
  if leAt b 0 4 ≠ 0x46574731 then some 0
  else if 64 < leAt b 8 1 then some 8
  else if 1 < leAt b 9 1 then some 9
  else if leAt b 10 2 ≠ 0 then some 10
  else if leAt b 12 4 % 64 ≠ 0 || 2 ^ 24 < 1024 + leAt b 12 4 then some 12
  else if !allZero b 784 240 then some 784
  else none

/-- Checks 2 to 5 of R414. (DEDUCED, log 73, unsafe) -/
def State.imageSigned (s : State) (b : List Byte) : Option Nat :=
  if leAt b 8 1 < s.sec.fuses.svn then some 8
  else if bit s.sec.fuses.revoked.toNat (leAt b 9 1) then some 9
  else if Config.sha256 (sl b 16 384) ≠ Config.keyHash (BitVec.ofNat 1 (leAt b 9 1)) then some 16
  else if !Config.pssVerify (sl b 16 384) (sl b 400 384) (b.take 400 ++ b.drop 784) then some 400
  else none

/-- What a bank keeps of an image. -/
def bankOf (b : List Byte) : FwBank :=
  { valid := true, version := BitVec.ofNat 32 (leAt b 4 4), svn := leAt b 8 1, slot := BitVec.ofNat 1 (leAt b 9 1),
    hash := Config.sha256 b }

/-- The ROM reads an image from SEC_RECOV: one that verifies goes to bank A, which becomes BOOT_BANK, and the boot runs again;
another sets RECOV_ERR to the offset of the field that failed. (DEDUCED, log 73, unsafe) -/
def State.recover (s : State) (img : DmaRead) : State :=
  match img with
  | none => s
  | some bytes =>
    let len := s.reg .secRecovLen []
    let b := bytes.take len
    let fail (o : Nat) : State := { s with sec := { s.sec with recovErr := BitVec.ofNat 16 o } }
    match imageField (padTo 1024 b) with
    | some o => fail o
    | none =>
      if len ≠ 1024 + leAt b 12 4 then fail 12
      else
        match s.imageSigned b with
        | some o => fail o
        | none =>
          { s with sec := { s.sec with bankA := bankOf b, bootBank := 0, nextBank := none, trial := false, bootFail := false,
                                       recovered := true, recovErr := 0xFFFF } }

/-- A GO that waited for Bus Master Enable is taken, while recovery is still open (R315, R416). -/
def State.recoverNow (s : State) : State :=
  match s.hif.waitGo with
  | none => s
  | some img =>
    let s := { s with hif := { s.hif with waitGo := none } }
    if s.sec.bootFail then s.recover img else s

end Sys2Proof.Machine
end

