-- ==== Sys2Proof/Machine/HostIf.lean ====
section
/-! DEFINITION. The host interface (R315 to R335): doorbells, ring enable and disable, descriptor fetch, write-backs,
interrupts and the NOP command. -/
namespace Sys2Proof.Machine

/-! ### Rings -/

def State.dbBad (s : State) : State := 
  { s.countDev 1 with hif := { s.hif with dbBad := satTo 65535 (s.hif.dbBad + 1) } }

/-- DOORBELL of ring r (R317, R322, R335). -/
def execDoorbell (r : Fin 34) (v : W32) (aligned : Bool) (s : State) : Res :=
  done (s.host fun s =>
    let x := s.ring r
    if !aligned || !x.enabled then s.dbBad
    else
      let ok : Bool :=
        if r.val < 16 then (v - x.prod).toNat < 2 ^ 31 && (v - x.cons).toNat ≤ s.ringSize r
        else (v - x.cons).toNat ≤ (x.prod - x.cons).toNat
      if !ok then s.dbBad
      else
        let s := s.updRing r fun x =>
          { x with armed := true, timer := none, prod := if r.val < 16 then v else x.prod,
                   cons := if r.val < 16 then x.cons else v }
        let s := if r.val < 16 then s else s.judgeIrq r false
        if r.val = 32 then s.eventsLostNow else s)

/-- RING_ENABLE: ENABLE written as 1; entries that waited as the ring was disabled are gone (R321, R334, R335). -/
def execRingEnable (r : Fin 34) (s : State) : Res :=
  done (s.host fun s =>
    let x := s.ring r
    let l := s.rf .hifRingCfg [r] 0 5
    if x.enabled then s
    else if !(6 ≤ l && l ≤ 16 && s.reg64 .hifRingBase [r] % 4096 = 0 && s.reg64 .hifRingWb [r] % 8 = 0 &&
        (16 ≤ r.val || (s.ring (s.pairRing r)).enabled)) then s.ignoredWrite
    else
      let s := s.updRing r fun x => { x with enabled := true, prod := 0, cons := 0, armed := true, timer := none,
                                             stalled := false, heldDesc := none, era := x.era + 1 }
      let s := { s with hif := { s.hif with waitEntries := s.hif.waitEntries.filter fun x => x.1 ≠ r.val } }
      let s := s.writeBack r
      if r.val = 32 then s.eventsLostNow else s)

/-- A completion ring is named by an enabled command ring or holds reserved room; the room of an entry that waits for Bus Master
Enable is reserved (R321). (DEDUCED, log 16, safe) -/
def State.ringBound (s : State) (r : Nat) : Bool :=
  16 ≤ r && r < 32 && ((List.range 16).any (fun c => (s.ring c).enabled && s.pairRing c = r) || (s.ring r).reservedHere ≠ 0 ||
    s.waitSlots r ≠ 0)

/-- RING_DISABLE: ENABLE written as 0 (R321). -/
def execRingDisable (r : Fin 34) (s : State) : Res :=
  done (s.host fun s =>
    if !(s.ring r).enabled then s
    else if s.ringBound r then s.ignoredWrite
    else s.updRing r fun x => { x with enabled := false, stalled := false, heldDesc := none })

/-! ### Descriptors -/

/-- The operand bytes of each opcode, and the offsets of its host addresses; `none` for a reserved opcode (R326).
(DEDUCED, log 12, unsafe) -/
def opLayout (op : Nat) : Option (List (Nat × Nat) × List Nat) :=
  match op with
  | 0x00 => some ([], [])
  | 0x01 | 0x02 => some ([(8, 2)], [])
  | 0x03 | 0x04 => some ([(8, 8)], [8])
  | 0x05 => some ([(8, 8), (16, 4)], [8])
  | 0x06 => some ([(8, 1), (16, 8), (24, 8)], [16])
  | 0x07 => some ([(8, 1), (12, 2), (14, 2), (16, 8), (24, 8)], [16])
  | 0x08 => some ([(8, 4), (12, 1)], [])
  | 0x09 => some ([(8, 1), (12, 4)], [])
  | 0x10 => some ([(8, 2), (16, 8), (24, 8), (32, 4)], [16, 24])
  | 0x11 => some ([(8, 2), (10, 1)], [])
  | 0x12 => some ([(8, 2), (12, 4)], [])
  | 0x13 => some ([(8, 2), (10, 1), (12, 2), (16, 4), (20, 4)], [])
  | 0x20 => some ([(8, 2)], [])
  | 0x21 => some ([(8, 1), (9, 1)], [])
  | 0x22 => some ([(8, 1), (9, 1), (10, 1), (12, 4), (16, 2), (20, 4)], [])
  | 0x23 => some ([(8, 1), (9, 1), (10, 1), (11, 1)], [])
  | 0x24 => some ([(8, 1), (10, 2)], [])
  | 0x25 => some ([(8, 1)], [])
  | 0x30 => some ([(8, 2), (10, 2), (16, 8), (24, 8)], [24])
  | 0x40 => some ([(8, 1), (16, 8), (24, 4)], [16])
  | 0x41 | 0x50 | 0x51 | 0x52 | 0x53 => some ([(16, 8), (24, 4)], [16])
  | _ => none

/-- A descriptor that R324 does not end with BAD_DESCRIPTOR. (DEDUCED, log 13, safe) -/
def descriptorOk (d : List Byte) : Bool :=
  match opLayout (leAt d 0 1) with
  | none => false
  | some (ops, addrs) =>
    leAt d 1 1 < 4 && leAt d 2 2 = 0 &&
    ((List.range 56).all fun i => ops.any (fun o => o.1 ≤ i + 8 && i + 8 < o.1 + o.2) || leAt d (i + 8) 1 = 0) &&
    addrs.all fun a => leAt d a 8 % 8 = 0

/-- Completions a command can produce (R320). (DEDUCED, log 13, safe) -/
def completionsOf (d : List Byte) : Nat := if leAt d 0 1 = 0x10 then 2 else 1

/-- The paired ring of command ring r has room for `n` completions beyond those reserved there (R320).
(DEDUCED, log 13, safe) -/
def State.pairRoom (s : State) (r n : Nat) : Bool :=
  let p := s.pairRing r
  (s.ring p).enabled && s.ringUsed p + s.waitSlots p + (s.ring p).reservedHere + n ≤ s.ringSize p

/-- Command ring r has a descriptor to fetch: fewer than 64 commands are outstanding, and a stalled ring has got its room.
(DEDUCED, log 13, safe) -/
def State.fetchReady (s : State) (r : Nat) : Bool :=
  let x := s.ring r
  x.enabled && x.prod ≠ x.cons && x.cmds.length < 64 &&
    (match x.heldDesc with | none => true | some d => s.pairRoom r (completionsOf d))

/-- The ring whose turn it is: the next after the one fetched from last, in ascending ring number (R328).
(DEDUCED, log 13, safe) -/
def State.fetchTurn (s : State) : Option Nat :=
  ((List.range 16).map fun k => (s.hif.lastFetch.toNat + 1 + k) % 16).find? s.fetchReady

/-- DESCRIPTOR_FETCH on ring c, in its turn: the read of the descriptor at CONS returns `d`, unless its content is already held
(R320, R324, R328, R336). (DEDUCED, log 13, safe) -/
def execDescriptorFetch (c : CmdRing) (d : List Byte) (s : State) : Res :=
  let r := c.toNat
  let x := s.ring r
  if !(s.fetchTurn = some r && s.hif.fwReady && s.hif.busMaster) then done s
  else
    let d := x.heldDesc.getD (padTo 64 (d.take 64))
    let p := s.pairRing r
    let n := completionsOf d
    let s := { s with hif := { s.hif with lastFetch := c } }
    if !s.pairRoom r n then
      done (s.updRing r fun x => { x with stalled := true, heldDesc := some d })
    else
      let ref : CmdRef := ⟨c, x.cons, x.era⟩
      let f : Fetched := { index := x.cons, era := x.era, opcode := BitVec.ofNat 8 (leAt d 0 1), serial := bit (leAt d 1 1) 0,
                           irqNow := bit (leAt d 1 1) 1, tag := BitVec.ofNat 32 (leAt d 4 4), bytes := d, reserved := n,
                           pair := p }
      let s := s.updRing r fun x =>
        { x with stalled := false, heldDesc := none, cons := x.cons + 1, cmds := x.cmds ++ [f] }
      let s := (s.updRing p fun x => { x with reservedHere := x.reservedHere + n }).writeBack r
      done (if descriptorOk d then s else s.complete ref .badDescriptor [])

/-- WRITE_BACK_TIMER of ring r: a count that has changed is written back within 4 µs (R319). -/
def execWriteBackTimer (r : Fin 34) (s : State) : Res :=
  let x := s.ring r
  let v := if r.val < 16 then x.cons else x.prod
  done (if x.enabled && (v ≠ x.wbCount || x.wbDue) then s.writeBack r else s)

/-! ### Interrupts -/

/-- INTERRUPT_TIMER of ring r: MOD_USEC has passed (R335). -/
def execInterruptTimer (r : Fin 34) (s : State) : Res :=
  done (if (s.ring r).armed && (s.ring r).timer.isSome && s.rf .hifRingMod [r] 0 16 ≠ 0 then s.fireRing r else s)

/-- MSIX_UNMASK of vector v: its table entry, as the host has written it, is unmasked; a pending message is sent (R317, R335,
R315). (PRESUMED, log 10, unsafe) -/
def execMsixUnmask (e : MsixEntry) (s : State) : Res :=
  done (s.host fun s =>
    let b := BitVec.ofNat 64 (2 ^ e.vector.toNat)
    let s := { s with hif := { s.hif with mask := s.hif.mask &&& ~~~b, msix := SMap.set s.hif.msix e.vector.toNat (e.addr, e.data) (0, 0) } }
    if s.hif.pba.getLsbD e.vector.toNat && s.hif.busMaster && s.hif.msixEn then
      { s with hif := { s.hif with pba := s.hif.pba &&& ~~~b }, out := { s.out with msi := s.msiOf e.vector.toNat :: s.out.msi } }
    else s)

/-- BUS_MASTER_ENABLE is set, and the MSI-X enable with it: pending messages go, waiting entries are written, write-backs follow,
and a waiting GO is taken (R315, R450). (PRESUMED, log 10, unsafe; DEDUCED, log 16, safe) -/
def execBusMasterEnable (s : State) : Res :=
  done (s.host fun s =>
    let s := { s with hif := { s.hif with busMaster := true, msixEn := true } }
    let s := (List.range 64).foldl (fun s v =>
      if s.hif.pba.getLsbD v && !s.hif.mask.getLsbD v then
        { s with hif := { s.hif with pba := s.hif.pba &&& ~~~(BitVec.ofNat 64 (2 ^ v)) },
                 out := { s.out with msi := s.msiOf v :: s.out.msi } }
      else s) s
    let s := s.hif.waitWrites.foldl (fun s x => s.hostWrite x.1 x.2) { s with hif := { s.hif with waitWrites := [] } }
    let w := s.hif.waitEntries
    let s := w.foldl (fun s x => if (s.ring x.1).enabled then s.putEntryNow x.1 (x.2.1.length / entrySize x.1) x.2.1 x.2.2 else s)
      { s with hif := { s.hif with waitEntries := [] } }
    ((List.range 34).foldl (fun s r => if (s.ring r).enabled && (s.ring r).wbDue then s.writeBack r else s) s).recoverNow)

/-- NOP (R326). -/
def execNop (c : CmdRing) (s : State) : Res := done (s.withCmd c 0x00 anySub fun s _ ref => s.succeed ref)

end Sys2Proof.Machine
end

