-- ==== Sys2Proof/Machine/Security.lean ====
section
/-! DEFINITION. Firmware images, staging and activation, attestation and the life cycle (R413 to R427). -/
namespace Sys2Proof.Machine

/-- The staging bank: the one that is not running. -/
def State.stagingBank (s : State) : BitVec 1 := s.sec.runBank + 1

/-! ### Staging (R417) -/

/-- FW_STAGE: the buffer's image is verified; the staging bank then counts as invalid until it is read back.
(DEDUCED, log 73, unsafe) -/
def execFwStage (c : CmdRing) (img : DmaRead) (s : State) : Res :=
  done (s.withRead c 0x50 anySub (leAt · 16 8) img fun s d ref bytes =>
    let len := leAt d 24 4
    let b := bytes.take len
    if s.sec.staging.isSome || s.sec.activating then s.refuse ref .state 0
    else
      match imageField (padTo 1024 b) with
      | some o => s.refuse ref .image o
      | none =>
        if len ≠ 1024 + leAt b 12 4 then s.refuse ref .range 0
        else
          match s.imageSigned b with
          | some o => s.refuse ref .image o
          | none =>
            let s := s.setBank s.stagingBank {}
            { s with sec := { s.sec with staging := some (bankOf b, ref), stagedValid := false } })

/-- The offsets of R417, as the DETAIL of a failed verification. -/
def stageOffsets : List Nat := [0, 8, 9, 10, 12, 16, 400, 784]

/-- FW_STAGE_COMPLETE: the read-back passes or fails; which field of the bank it finds wrong is open, and its offset is DETAIL.
(DEDUCED, log 73, unsafe) -/
def execFwStageComplete (ok : Bool) (s : State) : Res :=
  match s.sec.staging with
  | none => done s
  | some (b, ref) =>
    let s := { s with sec := { s.sec with staging := none } }
    if ok then
      let s := s.setBank s.stagingBank b
      done ({ s with sec := { s.sec with stagedValid := true } }.succeed ref)
    else done (s.fresh.2.refuse ref .image (nthD stageOffsets (s.fresh.1.toNat % 8) 0))

/-! ### Activation (R418) -/

/-- A FW_ACTIVATE command whose record carries operation `op`. -/
def State.withActivate (s : State) (c : CmdRing) (op : Nat) (rd : DmaRead) (k : State → CmdRef → State) : State :=
  let mine : Bool := match rd with | none => true | some b => leAt b 0 1 = op
  if mine then
    s.withRead c 0x51 anySub (leAt · 16 8) rd fun s d ref b =>
      if leAt d 24 4 ≠ 16 || !allZero b 1 15 then s.refuse ref .range 0 else k s ref
  else s

/-- A reserved operation, for the one row that refuses it. (DEDUCED, log 21, safe) -/
def fwReserved (rd : DmaRead) : Bool := match rd with | none => false | some b => leAt b 0 1 = 0 || 4 < leAt b 0 1

/-- FW_ACTIVATE_TRIAL: the command completes and the controller restarts from the staging bank; this row also refuses a record
of a reserved operation. -/
def execFwActivateTrial (c : CmdRing) (rec : DmaRead) (s : State) : Res :=
  done (if fwReserved rec then s.withRead c 0x51 anySub (leAt · 16 8) rec fun s _ ref _ => s.refuse ref .range 0
    else s.withActivate c 1 rec fun s ref =>
      if !s.sec.stagedValid then s.refuse ref .state 0
      else
        let s := s.succeed ref
        { s with hif := { s.hif with fwReady := false }
                 sec := { s.sec with bootBank := s.stagingBank, nextBank := none, trial := true, activating := true,
                                     recovered := false } })

/-- FW_ACTIVATE_NEXT_BOOT. -/
def execFwActivateNextBoot (c : CmdRing) (rec : DmaRead) (s : State) : Res :=
  done (s.withActivate c 2 rec fun s ref =>
    if !s.sec.stagedValid then s.refuse ref .state 0
    else { s with sec := { s.sec with nextBank := some s.stagingBank } }.succeed ref)

/-- FW_SVN_COMMIT: fuses are blown until FUSE_SVN equals the running image's SVN (R420). -/
def execFwSvnCommit (c : CmdRing) (rec : DmaRead) (s : State) : Res :=
  done (s.withActivate c 3 rec fun s ref =>
    let v := s.sec.running.svn
    if s.sec.trial || s.sec.fallback || v ≤ s.sec.fuses.svn then s.refuse ref .state 0
    else { s with sec := { s.sec with fuses := { s.sec.fuses with svn := v }, fuseSvnShown := v } }.succeed ref)

/-- KEY_SLOT_REVOKE: key slot 0. -/
def execKeySlotRevoke (c : CmdRing) (rec : DmaRead) (s : State) : Res :=
  done (s.withActivate c 4 rec fun s ref =>
    if s.sec.running.slot ≠ 1 then s.refuse ref .state 0
    else
      let r := s.sec.fuses.revoked ||| 1
      { s with sec := { s.sec with fuses := { s.sec.fuses with revoked := r }, revokedShown := r } }.succeed ref)

/-! ### Attestation (R422) -/

/-- An ATTEST command whose request carries operation `op`. -/
def State.withAttest (s : State) (c : CmdRing) (op : Nat) (rd : DmaRead) (k : State → List Byte → CmdRef → List Byte → State) :
    State :=
  let mine : Bool := match rd with | none => true | some b => leAt b 0 1 = op
  if mine then
    s.withRead c 0x52 anySub (leAt · 16 8) rd fun s d ref b =>
      if !allZero b 1 7 || !allZero b 40 24 then s.refuse ref .range 0 else k s d ref b
  else s

/-- A reserved operation, for the one row that refuses it. (DEDUCED, log 21, safe) -/
def attestReserved (rd : DmaRead) : Bool := match rd with | none => false | some b => leAt b 0 1 = 0 || 2 < leAt b 0 1

/-- The output of ATTEST goes from byte 64 of the buffer on; the result is its length. (DEDUCED, log 75, unsafe) -/
def State.attestOut (s : State) (d : List Byte) (ref : CmdRef) (out : List Byte) : State :=
  (s.hostWrite (leAt d 16 8 + 64) out).complete ref .success (leBytes 4 out.length)

/-- Bytes 0 to 255 of the report (R422). (DEDUCED, log 75, unsafe) -/
def State.reportBody (s : State) (req : List Byte) : List Byte :=
  let x := s.sec
  let other := s.stagingBank
  recordOf 256
    [(0, leBytes 4 0x41545331), (4, leBytes 2 1), (6, leBytes 1 x.lcState.toNat),
     (7, leBytes 1 (b2n x.fallback + 2 * b2n x.recovered + 4 * b2n x.trial)), (8, leBytes 8 Config.serial.toNat),
     (16, leBytes 4 x.running.version.toNat), (20, leBytes 1 x.running.svn), (21, leBytes 1 x.fuses.svn),
     (22, leBytes 1 x.running.slot.toNat), (23, leBytes 1 x.fuses.revoked.toNat), (24, (padTo 32 x.running.hash).take 32),
     (56, if s.bankOk other then (padTo 32 (s.bank other).hash).take 32 else zeros 32), (88, sl req 8 32),
     (120, leBytes 8 s.time.ns.toNat), (128, (padTo 32 Config.idKeyHash).take 32), (160, (padTo 32 x.fuses.ownerHash).take 32),
     (192, leBytes 4 x.reportSeq.toNat)]

/-- ATTEST_REPORT; this row also refuses a request of a reserved operation. (DEDUCED, log 75, unsafe) -/
def execAttestReport (c : CmdRing) (req : DmaRead) (s : State) : Res :=
  done (if attestReserved req then s.withRead c 0x52 anySub (leAt · 16 8) req fun s _ ref _ => s.refuse ref .range 0
    else s.withAttest c 1 req fun s d ref b =>
      if leAt d 24 4 < 704 then s.refuse ref .buffer 0
      else if !s.sec.idKey then s.refuse ref .state 0
      else
        let s := { s with sec := { s.sec with reportSeq := s.sec.reportSeq + 1 } }
        let body := s.reportBody b
        let sig := (padTo 384 (Config.idSign body s.freeCtr)).take 384
        s.fresh.2.attestOut d ref (body ++ sig))

/-- ATTEST_CERTIFICATE. (DEDUCED, log 75, unsafe) -/
def execAttestCertificate (c : CmdRing) (req : DmaRead) (s : State) : Res :=
  done (s.withAttest c 2 req fun s d ref _ =>
    let cert := if s.sec.hasCert then Config.certificate.take 2048 else []
    if leAt d 24 4 < 64 + cert.length then s.refuse ref .buffer 0 else s.attestOut d ref cert)

/-! ### Life cycle (R423 to R426) -/

/-- The transition from a state to a target that the table allows, its condition met. (DEDUCED, log 74, unsafe) -/
def State.lifeAllowed (s : State) (t : Nat) (b : List Byte) : Bool :=
  let modulus := sl b 512 384
  match s.sec.lcState.toNat, t with
  | 0, 1 => s.sec.idKey && s.sec.hasCert
  | 1, 2 => !allZero b 16 32
  | 2, 3 => Config.sha256 modulus = s.sec.fuses.ownerHash && Config.pssVerify modulus (sl b 128 384) (b.take 128)
  | 1, 4 | 2, 4 | 3, 4 => true
  | _, _ => false

/-- Length of the request for a target. (DEDUCED, log 74, unsafe) -/
def lifeLength (t : Nat) : Nat := if t = 2 then 512 else if t = 3 then 896 else 128

/-- A request whose NONCE, SERIAL, length or reserved bytes are wrong. (DEDUCED, log 74, unsafe) -/
def State.lifeBad (s : State) (t len : Nat) (b : List Byte) : Bool :=
  len ≠ lifeLength t || !allZero b 1 7 || leAt b 8 8 ≠ s.sec.nonce.toNat || leAt b 48 8 ≠ Config.serial.toNat ||
    !allZero b 56 72 || (t ≠ 2 && !allZero b 16 32) || (t = 2 && !allZero b 128 384)

/-- The fuses of an accepted transition. (DEDUCED, log 74, unsafe) -/
def State.blowLife (s : State) (t : Nat) (b : List Byte) : State :=
  let f := s.sec.fuses
  let f := { f with lc := f.lc ||| BitVec.ofNat 4 (2 ^ (t - 1)), ownerHash := if t = 2 then sl b 16 32 else f.ownerHash }
  { s with sec := { s.sec with fuses := f } }.closeLife

/-- LIFECYCLE: LC_NONCE changes after every one; an accepted transition completes and then resets the device, and is refused where
the fuses fail to program, which the record's reading tells (R426, R360). (DEDUCED, log 74, unsafe) -/
def execLifecycle (c : CmdRing) (o : LifeRead) (s : State) : Res :=
  done (s.withCmd c 0x53 anySub fun s d ref =>
    let redraw (s : State) : State := { s.fresh.2 with sec := { s.sec with nonce := s.fresh.1 } }
    match o.record with
    | none => redraw (s.dmaError ref (leAt d 16 8))
    | some b =>
      let t := leAt b 0 1
      if !s.lifeAllowed t b then redraw (s.refuse ref .state 0)
      else if s.lifeBad t (leAt d 24 4) b then redraw (s.refuse ref .range 0)
      else if s.anyArmed || !s.plans.isEmpty || !s.loadQ.isEmpty then redraw (s.refuse ref .arming s.firstArmed)
      else if !o.fused then redraw (s.refuse ref .state 0)
      else ((s.blowLife t b).complete ref .success (leBytes 1 t)).source .sysLifecycle false)

/-! ### Recovery (R416) -/

/-- RECOVERY_GO: a write of GO, with the image that the ROM reads; with Bus Master Enable 0 it waits for that (R315, R416). -/
def execRecoveryGo (img : DmaRead) (s : State) : Res :=
  done (s.host fun s =>
    if !s.sec.bootFail then s.ignoredWrite
    else if !s.hif.busMaster then { s with hif := { s.hif with waitGo := some img } }
    else s.recover img)

end Sys2Proof.Machine
end

