-- ==== Sys2Proof/Machine/Power.lean ====
section
/-! DEFINITION. Power states, the blade inputs, the temperature sensors and the PMBus readings (R435 to R448). -/
namespace Sys2Proof.Machine

/-! ### THERMAL events (R448) -/

/-- A THERMAL event of a sensor (0xFF for an input), with a temperature in 0.25 °C. -/
def State.thermalEvent (s : State) (sensor kind temp flags : Nat) : State :=
  s.event 0x0A [(16, leBytes 1 sensor), (17, leBytes 1 kind), (18, leBytes 2 temp), (20, leBytes 2 s.pwr.vinA.toNat),
    (22, leBytes 2 s.pwr.vinB.toNat), (24, leBytes 1 flags)]

/-! ### Blade inputs (R435) -/

/-- The monitors take an observation; PEAK_W follows, and so do the bus readings. (DEDUCED, log 69, safe) -/
def State.takeInputs (s : State) (o : InputObs) : State :=
  let x := s.pwr
  { s with pwr := { x with vinA := o.vinA, vinB := o.vinB, iinA := o.iinA, iinB := o.iinB, pinW := o.pinW
                           peakW := if x.peakW < o.pinW then o.pinW else x.peakW
                           pm := { x.pm with vinA := o.vinA, vinB := o.vinB, iinA := o.iinA, iinB := o.iinB, pinW := o.pinW } } }

/-- Bit 0 under-voltage, bit 1 over-voltage at either blade: outside 40.0 V to 56.0 V. (DEDUCED, log 69, safe) -/
def inputRange (o : InputObs) : BitVec 2 :=
  let low : Bool := o.vinA < 4000 || o.vinB < 4000
  let high : Bool := 5600 < o.vinA || 5600 < o.vinB
  BitVec.ofNat 2 (b2n low + 2 * b2n high)

/-- One blade carries less than 25 % of a total above 20 A. (DEDUCED, log 69, safe) -/
def inputImbal (o : InputObs) : Bool :=
  let total := o.iinA.toNat + o.iinB.toNat
  2000 < total && 4 * min o.iinA.toNat o.iinB.toNat < total

/-- The monitors run: the power-on reach is not asserted. (DEDUCED, log 70, unsafe) -/
def State.monitored (s : State) : Bool := !(s.rst.reach = some .powerOn && s.rst.step = 0)

/-- INPUT_FAULT_SET: what the inputs have shown for 1 ms. (DEDUCED, log 69, safe) -/
def execInputFaultSet (o : InputObs) (s : State) : Res :=
  let k := inputRange o
  let im := inputImbal o
  if !s.monitored then done s
  else
    let was := s.pwr
    let s := s.takeInputs o
    if (k = 0 && !im) || (was.inputFault && was.inputKind = k && was.imbal = im) then done s
    else
      let s := { s with pwr := { s.pwr with inputFault := true, imbal := im, inputKind := k
                                            pm := { s.pwr.pm with inputBits := s.pwr.pm.inputBits ||| k.setWidth 3 ||| 4 } } }
      done (s.thermalEvent 0xFF 5 0 (k.toNat + 4 * b2n im))

/-- INPUT_FAULT_CLEAR: the condition has been absent for 1 ms. (DEDUCED, log 69, safe) -/
def execInputFaultClear (o : InputObs) (s : State) : Res :=
  if !s.monitored then done s
  else
    let was := s.pwr.inputFault
    let s := s.takeInputs o
    if !was || inputRange o ≠ 0 || inputImbal o then done s
    else
      let s := { s with pwr := { s.pwr with inputFault := false, imbal := false, inputKind := 0 } }
      done (s.thermalEvent 0xFF 6 0 0)

/-- PEAK_W_READ: a read of PWR_PIN; PEAK_W starts again from the present power. -/
def execPeakWRead (s : State) : Res :=
  done (s.host fun s =>
    let v := s.pwr.pinW.toNat + 2 ^ 16 * s.pwr.peakW.toNat
    { s with pwr := { s.pwr with peakW := s.pwr.pinW } }.reply (.data (BitVec.ofNat 64 v)))

/-! ### Temperature (R441 to R445) -/

/-- The warning level of a sensor in °C: PWR_WARN within its bound. -/
def State.warnLevel (s : State) (i : Nat) : Nat :=
  if i < 25 then min 110 (s.rf .pwrWarn [] 0 8) else if i < 41 then min 90 (s.rf .pwrWarn [] 8 8) else min 100 (s.rf .pwrWarn [] 16 8)

/-- The trip level of a sensor in °C. -/
def tripLevel (i : Nat) : Nat := if i < 25 then 115 else if i < 41 then 95 else 105

/-- A sensor's latest sample as a signed count of 0.25 °C. -/
def tempOf (t : BitVec 12) : Int := t.toInt

/-- The sample as the event shows it. -/
def tempWord (t : BitVec 12) : Nat := (t.signExtend 16).toNat

/-- A sensor's latest sample. -/
def State.temp (s : State) (i : Nat) : BitVec 12 := (SMap.get s.pwr.temps i 0).setWidth 12
/-- Every sensor's latest sample is at or below a bound in °C. (DEDUCED, log 70, unsafe) -/
def State.allBelow (s : State) (bound : Nat → Int) : Bool :=
  (List.range 57).all fun i => tempOf (s.temp i) ≤ 4 * bound i

/-- SENSOR_SAMPLE of sensor i (R441, R442). (DEDUCED, log 70, unsafe) -/
def execSensorSample (i : Fin 57) (t : BitVec 12) (s : State) : Res :=
  if !s.monitored then done s
  else
    let n := i.val
    let old := s.temp n
    let w : Int := 4 * (s.warnLevel n : Int)
    let hot := if 4 * (tripLevel n : Int) ≤ tempOf t then SMap.get s.pwr.hot n 0 + 1 else 0
    let s := { s with pwr := { s.pwr with temps := SMap.set s.pwr.temps n (t.setWidth 13 ||| 0x1000) 0, hot := SMap.set s.pwr.hot n hot 0
                                          pm := { s.pwr.pm with temps := SMap.set s.pwr.pm.temps n t 0 } } }
    if w ≤ tempOf t && (tempOf old < w || !s.pwr.warn) then
      let s := { s with pwr := { s.pwr with warn := true, pm := { s.pwr.pm with tempBits := s.pwr.pm.tempBits ||| 1 } } }
      done (s.thermalEvent n 1 (tempWord t) 0)
    else done s

/-- WARN_CLEAR: every sensor has been 5 °C below its warning level for 1 ms. The manual names no sensor and no temperature for
this event: both are free. (DEDUCED, log 70, unsafe) -/
def execWarnClear (s : State) : Res :=
  if s.pwr.warn && s.allBelow fun i => (s.warnLevel i : Int) - 5 then
    let v := s.fresh.1.toNat
    let s := { s.fresh.2 with pwr := { s.pwr with warn := false } }
    done (s.thermalEvent (v % 2 ^ 8) 2 (v / 2 ^ 8 % 2 ^ 16) 0)
  else done s

/-- THERMAL_TRIP of sensor i: four consecutive samples at or above its trip level (R443). (DEDUCED, log 70, unsafe) -/
def execThermalTrip (i : Fin 57) (s : State) : Res :=
  let n := i.val
  if n = 24 || s.pwr.trip || SMap.get s.pwr.hot n 0 < 4 then done s
  else
    let t := s.temp n
    let s := s.enterP3
    let s := { s with pwr := { s.pwr with trip := true, tripLatch := true, tripSensor := BitVec.ofNat 6 n
                                          pm := { s.pwr.pm with tempBits := s.pwr.pm.tempBits ||| 2 } }
                      rst := { s.rst with step := if 6 ≤ s.rst.step then 11 else s.rst.step } }
    done (s.thermalEvent n 3 (tempWord t) 0)

/-- CELLAR_THERMAL_TRIP: sensor 24 trips; the power-on reach is held until the input goes (R445).
(DEDUCED, log 70, unsafe) -/
def execCellarThermalTrip (s : State) : Res :=
  if SMap.get s.pwr.hot 24 0 < 4 then done s
  else done ({ s with pwr := { s.pwr with cellarTrip := true, tripLatch := true } }.assertReset .powerOn none false)

/-- TRIP_CLEAR: a 1 written to TRIP (R444). (DEDUCED, log 70, unsafe) -/
def execTripClear (s : State) : Res :=
  done (s.host fun s =>
    if !s.pwr.trip then s
    else if !(s.allBelow fun i => (tripLevel i : Int) - 15) then s.ignoredWrite
    else
      let n := s.pwr.tripSensor.toNat
      { s with pwr := { s.pwr with trip := false, tripLatch := false } }.thermalEvent n 4 (tempWord (s.temp n)) 0)

/-! ### Power states (R437 to R439) -/

/-- Some instance is COUNTING, RUNNING or WAITING. (DEDUCED, log 71, unsafe) -/
def State.anyOpen (s : State) : Bool := s.plans.any fun (x : Nat × Plan) => x.2.insts.any fun i => i.state ≠ .ended

/-- Why a change to state t is refused (R438). (DEDUCED, log 71, unsafe) -/
def State.powerBad (s : State) (t : Nat) : Option Cause :=
  if s.pwr.transition.isSome || !s.blockRst.isEmpty || s.pwr.trip || (s.pwr.state = 3 && (t = 1 || t = 2)) then some .state
  else if t ≠ 0 && s.anyArmed then some .arming
  else if (t = 1 || t = 2) && s.anyOpen then some .inUse
  else if t = 3 && (!s.plans.isEmpty || !s.loadQ.isEmpty || s.tap.running ||
      s.pitch.any fun (x : Nat × PitchImg) => x.2.state ≠ .free) then some .inUse
  else none

/-- POWER_STATE: P3 is left at once, with the core release that wipes the Cask; any other change takes its time (R439, R361).
(DEDUCED, log 71, unsafe) -/
def execPowerState (c : CmdRing) (s : State) : Res :=
  done (s.withCmd c 0x25 anySub fun s d ref =>
    let t := leAt d 8 1
    if 3 < t then s.refuse ref .range 0
    else if s.pwr.state.toNat = t then s.succeed ref
    else
      match s.powerBad t with
      | some cause => s.refuse ref cause (if cause = .arming then s.firstArmed else 0)
      | none =>
        if s.pwr.state = 3 then
          let s := s.succeed ref
          let s := { s with pwr := { s.pwr with state := 0 } }.source .coreP3 false
          { s with rst := { s.rst with fromP3 := true, caskWiped := false } }
        else { s with pwr := { s.pwr with transition := some (BitVec.ofNat 2 t, ref) } })

/-- POWER_STATE_COMPLETE: the firmware has made the change (R24, R437, R439, R272). (DEDUCED, log 71, unsafe) -/
def execPowerStateComplete (s : State) : Res :=
  if !s.hif.fwReady then done s else
  match s.pwr.transition with
  | none => done s
  | some (t, ref) =>
    let s := { s with pwr := { s.pwr with transition := none } }
    let s :=
      if t = 3 then s.enterP3
      else
        let s := { s with pwr := { s.pwr with state := t } }
        if t = 2 then { (List.range 16).foldl (fun (s : State) o => s.lasersOff o) s with rings1 := [] } else s.lightEngines
    done (s.succeed ref)

/-! ### PMBus (R447) -/

/-- num/den over 2^n, rounded one way or the other (log 72). (DESIGN CHOICE, log 72, safe) -/
def linearMantissa (num : Int) (den : Nat) (n : Int) : Int := signedQuot (num * 2 ^ (-n).toNat) (den * 2 ^ n.toNat)

/-- The exponents of Linear11 at which the mantissa of num/den fits its 11 bits. -/
def linearExps (num : Int) (den : Nat) : List Int :=
  ((List.range 32).map fun (i : Nat) => (i : Int) - 16).filter fun n => -1024 ≤ linearMantissa num den n && linearMantissa num den n ≤ 1023

/-- A reading num/den in Linear11: mantissa in [10:0], exponent in [15:11]; which fitting exponent it takes is free (R447).
(DESIGN CHOICE, log 72, safe) -/
def linear11 (num : Int) (den : Nat) : BitVec 16 :=
  let l := linearExps num den
  let n := nthD l (Config.linearExp num den % l.length) 15
  BitVec.ofInt 16 (linearMantissa num den n % 2 ^ 11 + 2 ^ 11 * (n % 2 ^ 5))

/-- The packet error code that follows a read: the CRC-8 of SMBus over the address byte of the command, the command, the address
byte of the read and the data. (PRESUMED, log 11, unsafe) -/
def State.busPec (s : State) (code : Nat) (data : List Byte) : Byte :=
  let a := 2 * s.pwr.pm.addr.toNat
  BitVec.ofNat 8 (crcBits 8 0x07 0 ((BitVec.ofNat 8 a :: BitVec.ofNat 8 code :: BitVec.ofNat 8 (a + 1) :: data).flatMap fun b =>
    (bitsLow 8 b.toNat).reverse))

/-- The bus answers in every reach but the power-on reach while that is asserted. -/
def State.bus (s : State) (k : State → State) : State := if s.monitored then k s else s.reply .noResponse
/-- What a read of a command answers: n data bytes, low byte first, and the PEC after them. (PRESUMED, log 11, unsafe) -/
def State.busAnswer (s : State) (code n v : Nat) : State :=
  s.reply (.data (BitVec.ofNat 64 (leAt (leBytes n v ++ [s.busPec code (leBytes n v)]) 0 (n + 1))))
/-- A reading in Linear11, in two bytes. -/
def State.busReading (s : State) (code : Nat) (num : Int) (den : Nat) : State := s.busAnswer code 2 (linear11 num den).toNat
/-- The hottest of the sensors from lo to hi − 1. -/
def State.hottest (s : State) (lo hi : Nat) : Int :=
  ((List.range hi).drop lo).foldl (fun (m : Int) i => max m (tempOf (SMap.get s.pwr.pm.temps i 0))) (-2048)

/-- CLEAR_FAULTS: status bits clear, and those whose cause persists are set again. -/
def execClearFaults (s : State) : Res :=
  done (s.bus fun s => { s with pwr := { s.pwr with pm := { s.pwr.pm with cml := false
                                                                          tempBits := BitVec.ofNat 2 (b2n s.pwr.warn + 2 * b2n s.pwr.trip)
                                                                          inputBits := if s.pwr.inputFault then s.pwr.inputKind.setWidth 3 ||| 4 else 0 } } })
/-- CAPABILITY. (PRESUMED, log 11, unsafe) -/
def execCapability (s : State) : Res := done (s.bus fun s => s.busAnswer 0x19 1 0xD0)
/-- STATUS_WORD. (PRESUMED, log 11, unsafe) -/
def execStatusWord (s : State) : Res := done (s.bus fun s => s.busAnswer 0x79 2 s.statusWord)
/-- STATUS_INPUT: over-voltage fault bit 7, under-voltage fault bit 4. (PRESUMED, log 11, unsafe) -/
def execStatusInput (s : State) : Res :=
  done (s.bus fun s => s.busAnswer 0x7C 1 (16 * b2n (s.pwr.pm.inputBits.getLsbD 0) + 128 * b2n (s.pwr.pm.inputBits.getLsbD 1)))
/-- STATUS_TEMPERATURE: over-temperature fault bit 7, warning bit 6. (PRESUMED, log 11, unsafe) -/
def execStatusTemperature (s : State) : Res :=
  done (s.bus fun s => s.busAnswer 0x7D 1 (64 * b2n (s.pwr.pm.tempBits.getLsbD 0) + 128 * b2n (s.pwr.pm.tempBits.getLsbD 1)))
/-- READ_VIN: the lower blade input, in V. -/
def execReadVin (s : State) : Res := done (s.bus fun s => s.busReading 0x88 (min s.pwr.pm.vinA.toNat s.pwr.pm.vinB.toNat : Nat) 100)
/-- READ_IIN: the sum of the blade currents, in A. -/
def execReadIin (s : State) : Res := done (s.bus fun s => s.busReading 0x89 (s.pwr.pm.iinA.toNat + s.pwr.pm.iinB.toNat : Nat) 100)
/-- READ_TEMPERATURE_1: the hottest of sensors 0 to 24. -/
def execReadTemperature1 (s : State) : Res := done (s.bus fun s => s.busReading 0x8D (s.hottest 0 25) 4)
/-- READ_TEMPERATURE_2: the hottest of sensors 25 to 56. -/
def execReadTemperature2 (s : State) : Res := done (s.bus fun s => s.busReading 0x8E (s.hottest 25 57) 4)
/-- READ_PIN, in W. -/
def execReadPin (s : State) : Res := done (s.bus fun s => s.busReading 0x97 (s.pwr.pm.pinW.toNat : Nat) 1)
/-- PMBUS_REVISION. (PRESUMED, log 11, unsafe) -/
def execPmbusRevision (s : State) : Res := done (s.bus fun s => s.busAnswer 0x98 1 0x33)
/-- PMBUS_REJECT: the data byte is not acknowledged, and CML is set. -/
def execPmbusReject (_why : PmbusBad) (s : State) : Res :=
  done (s.bus fun s => { s with pwr := { s.pwr with pm := { s.pwr.pm with cml := true } } }.reply .noResponse)

end Sys2Proof.Machine
end

