-- ==== Sys2Proof/Machine/RegView.lean ====
section
/-! DEFINITION. What BAR0 registers read (R7 to R10, R316, R338, R349): each register word from where the state keeps its
fields. Reserved fields, WO fields and unoccupied addresses read 0; a held block reads 0. -/
namespace Sys2Proof.Machine

/-! ### Held blocks (R338, R349, R437) -/

/-- The registers of an address are held: those of a quadrant block or of an optical engine while the core reach stands up to
step 9, in block reset of the quadrant, or in P3. (DEDUCED, log 9, safe) -/
def State.regHeld (s : State) (a : Nat) : Bool :=
  if 0x100000 ≤ a && a < 0x500000 then s.quadHeld (a / 0x100000 - 1)
  else if 0x500000 ≤ a && a < 0x600000 then s.engineHeld ((a - 0x500000) / 0x10000)
  else false

/-- Registers kept once for the device though each quadrant shows them (R1, R387, R395). (DEDUCED, log 9, safe) -/
def canonIx (r : Reg) (ix : List Nat) : List Nat :=
  match r with
  | .portClass | .hlthCfg | .hlthBudget | .jobWatchSel => 0 :: ix.drop 1
  | _ => ix

/-! ### Words by block -/

/-- Bits i of a list of flags, lowest first. -/
def bitsOf (l : List Bool) : Nat := (l.mapIdx fun i b => b2n b * 2 ^ i).sum

/-- Half of a 64-bit value. -/
def halfOf (v i : Nat) : Nat := if i = 0 then v % 2 ^ 32 else v / 2 ^ 32

/-- TBL_STATUS, TBL_OCC, TBL_SB. -/
def State.tblWord (s : State) (r : Reg) (q : Nat) : Nat :=
  match r with
  | .tblStatus => b2n (s.table q).rehash.isSome + min 4096 (s.table q).queue.length * 2 ^ 16
  | .tblOcc => (s.home.filter fun (x : Nat × BitVec 128) => x.1 / 2 ^ 23 = q && eValid x.2).length
  | .tblSb => (s.doms.filter fun d => d.quad.toNat = q).length + (s.held.filter fun h => h.quad.toNat = q).length * 2 ^ 19
  | _ => 0

/-- FLR_POOL and FLR_WEIGHT. -/
def State.flrWord (s : State) (r : Reg) (q : Nat) : Nat :=
  let f := s.floor q
  match r with
  | .flrPool => s.egressFree q + b2n (f.cut ≠ 0) * 2 ^ 22 + b2n f.underCap * 2 ^ 23 + f.hold.toNat * 2 ^ 24
  | .flrWeight => (f.weights.mapIdx fun i w => w * 2 ^ (8 * i)).sum
  | _ => 0

/-- STATE of MASH_PLAN: loaded, unloading, or a load that waits. -/
def State.planCode (s : State) (slot : Nat) : Nat :=
  match s.plan slot with
  | some p => if p.unload.isSome then 2 else 1
  | none => if s.loadQ.any fun l => l.slot = slot then 3 else 0

/-- The Mash status words of quadrant q: what plans leave free, and each plan slot. -/
def State.mashWord (s : State) (r : Reg) (q slot : Nat) : Nat :=
  let imgs := s.plans.map fun (x : Nat × Plan) => x.2.img
  let free (total : Nat) (f : Image → Nat) : Nat := total - heldBy imgs f
  match r with
  | .mashStat => s.plans.length + s.loadQ.length * 2 ^ 13
  | .mashCtx =>
    free 16384 (fun i => if i.entryQ = q then i.ctxDepth else 0) + 2 ^ 15 *
      (s.plans.map fun (x : Nat × Plan) => if x.2.img.entryQ = q then (x.2.insts.filter isOpen).length else 0).sum
  | .mashElem => free 5592405 fun i => nthD i.elems q 0
  | .mashSlice => free 1024 fun i => nthD i.slices q 0
  | .mashStore => (2 ^ 24 - heldBy imgs fun i => r64 i.bytes) / 64
  | .mashStage => free (s.stageMib q) fun i => nthD i.stageMib q 0
  | .mashPlan =>
    s.planCode slot + (match s.plan slot with | some p => p.base * 4 + (p.insts.filter isOpen).length * 2 ^ 22 | none => 0)
  | _ => 0

/-- STATE of KLN_ARR. -/
def ArrState.code : ArrState → Nat
  | .free => 0 | .reserved => 1 | .underTest => 2 | .retired => 3

/-- How many arrays of quadrant q satisfy `p`. -/
def State.arraysWith (s : State) (q : Nat) (p : ArraySt → Bool) : Nat :=
  ((List.range 256).filter fun a => p (s.array (256 * q + a))).length

/-- The Kiln status words of quadrant q. (DEDUCED, log 29, unsafe) -/
def State.klnWord (s : State) (r : Reg) (q i : Nat) : Nat :=
  match r with
  | .klnCount =>
    s.arraysWith q (·.passed) + s.arraysWith q (fun x => x.spareUsed && x.state ≠ .retired && x.state ≠ .underTest) * 2 ^ 9 +
      s.arraysWith q (·.state = .retired) * 2 ^ 18 + b2n (s.arraysWith q (·.state = .underTest) = 0) * 2 ^ 27
  | .klnFree => s.freeArrays q + (64 - (s.kstreams.filter fun (x : Nat × KStream) => x.1 / 64 = q).length) * 2 ^ 9
  | .klnArr =>
    let x := s.array (256 * q + i)
    let age := if x.passAt = 0 then 0 else satTo 65535 ((s.time.core - x.passAt) / 2000000)
    x.state.code + b2n x.spareUsed * 4 + x.spareRow.toNat * 8 + x.skew.toNat * 2 ^ 7 + b2n x.fused * 2 ^ 9 +
      (if x.state = .reserved then x.stream else 0) * 2 ^ 10 + age * 2 ^ 16
  | .klnStrm =>
    match s.kstream (kstreamKey q i) with
    | none => 0
    | some k => k.slot + b2n k.recv * 2 ^ 12 + 2 ^ 13 + k.arrays.length * 2 ^ 14
  | _ => 0

/-- Ring states as OE_RING codes them. -/
def RingLock.code : RingLock → Nat
  | .dark | .sweep => 0 | .identify | .step => 1 | .locked => 2 | .retired => 3

/-- A ring of fibre f. -/
def State.ringOf (s : State) (f : Nat) (rx : Bool) (n : Nat) : MicroRing := s.microRing ⟨BitVec.ofNat 8 f, rx, BitVec.ofNat 3 n⟩

/-- The module's non-volatile optical record has been applied: step 10 of a system or power-on release has run. -/
def State.nvApplied (s : State) : Bool := !s.sysHeld || 10 < s.rst.step

/-- The status words of optical engine o. -/
def State.oeWord (s : State) (r : Reg) (o i : Nat) : Nat :=
  let e := s.engine o
  let f := 16 * o + i
  match r with
  | .oeCtrl => b2n e.txOn
  | .oeStat =>
    b2n s.pins.laserEn + 2 * b2n e.trip + 4 * ([8, 9].filter fun n => (s.laser o n).state = .spareIdle).length +
      16 * b2n e.handover.isSome + 32 * bitsOf ((List.range 4).map fun m => (s.mesh (4 * o + m)).recal.isSome) +
      512 * bitsOf ((List.range 4).map fun m => (s.mesh (4 * o + m)).due ≠ 0)
  | .oeLsr =>
    let l := s.laser o i
    l.state.code + 8 * l.channel.toNat + 128 * b2n l.commissioned + 256 * l.level.toNat
  | .oeFib =>
    let lanes (rx : Bool) : Nat :=
      if s.nvApplied then bitsOf ((List.range 8).map fun n => !s.channelRetired o n && (s.ringOf f rx n).state ≠ .retired) else 0
    let ports (p : PortSt → Bool) : Nat := bitsOf ((List.range 4).map fun k => p (s.port (4 * f + k)))
    lanes false * 8 + lanes true * 2 ^ 11 + ports (·.up) * 2 ^ 20 + ports (·.retryOn) * 2 ^ 24 + ports (·.suppressed) * 2 ^ 28
  | .oeRing =>
    let codes (rx : Bool) : Nat := ((List.range 8).map fun n => (s.ringOf f rx n).state.code * 4 ^ n).sum
    codes false + codes true * 2 ^ 16
  | .oeMesh =>
    let g := s.mesh (4 * o + i)
    g.map.toNat + b2n g.settled * 2 ^ 24 + b2n g.planBound * 2 ^ 25
  | _ => 0

/-- A bundle direction has trained or been retired. -/
def BundleSt.trained (b : BundleSt) : Bool := b.width ≠ 3 && !b.inReset

/-- The die-to-die words of quadrant q about its peer y: the receiving direction y to q, and both for TRAINED. -/
def State.d2dWord (s : State) (r : Reg) (q y b half : Nat) : Nat :=
  if y = q then 0
  else
    let x := s.bundle y q b
    match r with
    | .d2dLink =>
      s.halves y q + s.halves q y * 2 ^ 8 +
        b2n ((List.range 64).all fun k => (s.bundle y q k).trained && (s.bundle q y k).trained) * 2 ^ 16
    | .d2dBnd =>
      shownWidth x + workCount x.work * 4 + b2n x.checked * 2 ^ 8 + b2n x.fused * 2 ^ 9 + x.tries.toNat * 2 ^ 10 +
        b2n x.idle * 2 ^ 12
    | .d2dWire => halfOf x.work.toNat half
    | .d2dCnt => satTo 65535 x.replays + satTo 65535 x.quiets * 2 ^ 16
    | _ => 0

/-- A 32-bit two's complement word. -/
def word32 (x : Int) : Nat := (x % (2 ^ 32 : Nat)).toNat

/-- A TIME_FRAC register: what the last low-half read of its 64-bit register latched, else `v` (R312). -/
def State.fracWord (s : State) (a v : Nat) : Nat := match SMap.find s.fracLatch a with | some x => x.toNat | none => v

/-- The words of the time unit; `i` is a domain or port, `half` the half of a 64-bit register. -/
def State.timeWord (s : State) (r : Reg) (i half : Nat) : Nat :=
  let t := s.time
  let d := if i = 0 then t.domA else t.domB
  match r with
  | .timeStat =>
    b2n t.stepOk + 2 * t.domA.state.code + 8 * t.domB.state.code + 32 * b2n t.switching + 64 * b2n t.holdover +
      128 * t.activeNow.toNat + 256 * b2n t.clamped + 512 * b2n t.ppsSkip
  | .timeNow => halfOf t.ns.toNat half
  | .timeIncr => halfOf t.incr.toNat half
  | .timeFree => halfOf t.free.toNat half
  | .timeSnapNs => halfOf t.snapNs.toNat half
  | .timeSnapFree => halfOf t.snapFree.toNat half
  | .timeNowfrac => s.fracWord (r.addr []) 0
  | .timeSnapFrec => s.fracWord (r.addr []) t.snapFrac.toNat
  | .timeDomCapNs => halfOf d.capNs.toNat half
  | .timeDomCapFrac => s.fracWord (r.addr [i]) d.capFrac.toNat
  | .timeDomOffsetNs => word32 (signedQuot d.offset (2 ^ 32))
  | .timeDomFreqPpb => word32 d.freqPpb
  | .timeDomCnt => d.accepted.toNat + satTo 65535 d.rejected * 2 ^ 16
  | .timeLat => (s.port i).rxLat.toNat + (s.port i).txLat.toNat * 2 ^ 16
  | _ => 0

/-- The words of the host interface. -/
def State.hifWord (s : State) (r : Reg) (k : Nat) : Nat :=
  let x := s.ring k
  match r with
  | .hifStat => b2n s.hif.fwReady + s.hif.dbBad * 2 ^ 16
  | .hifRingCfg => b2n x.enabled * 2 ^ 31
  | .hifRingProd => x.prod.toNat
  | .hifRingCons => x.cons.toNat
  | .hifRingStat =>
    b2n (x.enabled || !x.cmds.isEmpty) + 2 * b2n x.stalled + 4 * b2n x.armed + 8 * x.cmds.length
  | _ => 0

/-- The words of the reset, clock and error blocks. -/
def State.rstWord (s : State) (r : Reg) (i : Nat) : Nat :=
  match r with
  | .rstCause => s.rst.cause.toNat + s.rst.last.toNat * 2 ^ 12 + b2n s.rst.heldSys * 2 ^ 16
  | .rstErrsrc => s.errSrc
  | .rstStat => bitsOf ((List.range 4).map s.quadIdle) + s.rst.quadInReset.toNat * 16 + s.rst.step * 2 ^ 8
  | .rstPidle => bitsOf ((List.range 32).map fun k => s.portIdle (32 * i + k))
  | .rstMidle => bitsOf ((List.range 32).map fun j => s.groupIdle (32 * i + j))
  | .clkStat =>
    b2n s.clk.pllLock + 2 * b2n s.clk.refOk + 4 * b2n s.clk.holdover + 8 * b2n s.clk.refLost + s.clk.refOffset.toNat * 2 ^ 16
  | .errStat =>
    s.err.queue.length + b2n s.err.overflow * 2 ^ 9 + b2n s.err.lockedWrite * 2 ^ 10 + b2n s.err.fwHeld * 2 ^ 11 +
      s.err.lost * 2 ^ 16
  | .errSwcnt => s.err.ignored + s.err.badAccess * 2 ^ 16
  | .errHead =>
    if i = 0 then (match s.err.queue.head? with | some x => (nthD (recWords x) 0 0).toNat | none => 0)
    else (nthD s.err.head i 0).toNat
  | _ => 0

/-- The words of the SEC block. BOOT_BANK is the bank booted, and from FW_ACTIVATE on the trial bank; the trial flag is the boot's
(TRIAL resets with the system, BOOT_BANK with power). -/
def State.secWord (s : State) (r : Reg) (half : Nat) : Nat :=
  let c := s.sec
  match r with
  | .secStat =>
    c.lcState.toNat + (if c.trial && !(s.rst.reach = some .powerOn && s.rst.step ≤ 4) then c.bootBank else c.runBank).toNat * 8 + b2n c.fallback * 16 + b2n c.bootFail * 32 + b2n c.stagedValid * 64 +
      c.fuseSvnShown * 2 ^ 7 + c.running.svn * 2 ^ 14 + c.running.slot.toNat * 2 ^ 21 + c.revokedShown.toNat * 2 ^ 22 +
      b2n (c.trial && !(s.sysHeld && s.rst.step ≤ 4)) * 2 ^ 24 + b2n c.ownerShown * 2 ^ 25
  | .secFwver => c.running.version.toNat
  | .secNonce => halfOf c.nonce.toNat half
  | .secRecovRecovErr => c.recovErr.toNat
  | _ => 0

/-- The sensor's domain is powered: the cellar's sensor 24 alone in P3, and no sensor before its first sample. -/
def State.tempValid (s : State) (i : Nat) : Bool :=
  (SMap.get s.pwr.temps i 0).getLsbD 12 && (i = 24 || s.pwr.state ≠ 3)

/-- The words of the PWR block. -/
def State.pwrWord (s : State) (r : Reg) (i : Nat) : Nat :=
  let x := s.pwr
  match r with
  | .pwrStat =>
    x.state.toNat + 4 * b2n x.transition.isSome + 8 * b2n x.trip + 16 * b2n x.warn + 32 * b2n x.inputFault + 64 * b2n x.imbal +
      256 * x.tripSensor.toNat
  | .pwrVin => x.vinA.toNat + x.vinB.toNat * 2 ^ 16
  | .pwrIin => x.iinA.toNat + x.iinB.toNat * 2 ^ 16
  | .pwrPin => x.pinW.toNat + x.peakW.toNat * 2 ^ 16
  | .pwrTemp => (s.temp i).toNat + b2n (s.tempValid i) * 2 ^ 12
  | _ => 0

/-- IDENT: the serial number is loaded with the stepping, at step 2 of a power-on release. -/
def State.identWord (s : State) (r : Reg) (half : Nat) : Nat :=
  match r with
  | .identIdcode => s.idcode.toNat
  | .identSerial => if s.rst.reach = some .powerOn && s.rst.step ≤ 2 then 0 else halfOf Config.serial.toNat half
  | _ => 0

/-- The Pitch image words of quadrant q, slot k, and the tap words. -/
def State.pitchWord (s : State) (r : Reg) (q k : Nat) : Nat :=
  let x := s.pitchImg k
  match r with
  | .pitchImgImageId => x.id.toNat
  | .pitchImgState => x.state.code + 4 * b2n x.store
  | .pitchImgPresentHere => if x.store then presentIn x q else 0
  | .pitchImgGetsServed => (nthD x.gets q 0).toNat
  | .tapCtrl => s.tap.mode.toNat + 4 * b2n s.tap.running + 8 * b2n s.tap.caskStop
  | .tapSample => b2n s.tap.sampleEn * 2 ^ 28
  | .tapCask => halfOf (nthD s.tap.writeIdx q 0).toNat k
  | _ => 0

/-- HLTH_PORT of port p beside PIN; SILENT while 256 us have passed without sign of life. -/
def State.healthWord (s : State) (p : Nat) : Nat :=
  let x := s.port p
  let code := match x.hstate with | .healthy => 0 | .suspect => 1 | .degraded => 2 | .expelled => 3
  s.score p + code * 2 ^ 8 + b2n (x.armed && x.aliveAt + 512000 ≤ s.time.core) * 2 ^ 11

/-! ### The whole map -/

/-- The bits of a register's stored word that the stored word does not decide: they have a home of their own. -/
def elsewhere (r : Reg) : Nat :=
  match r with
  | .timeIncr => 0xFFFFFFFF
  | .hifRingCfg => 0x80000000
  | .tapCtrl => 0x3
  | .tapSample => 0x10000000
  | .oeCtrl => 0x1
  | _ => 0

/-- The part of a register word that the state keeps outside the register file. -/
def State.liveWord (s : State) (r : Reg) (ix : List Nat) : Nat :=
  let i0 := nthD ix 0 0
  let i1 := nthD ix 1 0
  match r with
  | .tblStatus | .tblOcc | .tblSb => s.tblWord r i0
  | .flrPool | .flrWeight => s.flrWord r i0
  | .mashStat | .mashCtx | .mashElem | .mashSlice | .mashStore | .mashStage | .mashPlan => s.mashWord r i0 i1
  | .klnCount | .klnFree | .klnArr | .klnStrm => s.klnWord r i0 i1
  | .oeCtrl | .oeStat | .oeLsr | .oeFib | .oeRing | .oeMesh => s.oeWord r i0 i1
  | .d2dLink | .d2dBnd | .d2dWire | .d2dCnt => s.d2dWord r i0 i1 (nthD ix 2 0) (nthD ix 3 0)
  | .timeStat | .timeNowfrac | .timeSnapFrec | .timeLat | .timeDomCapFrac | .timeDomOffsetNs | .timeDomFreqPpb | .timeDomCnt =>
    s.timeWord r i0 0
  | .timeNow | .timeIncr | .timeFree | .timeSnapNs | .timeSnapFree => s.timeWord r 0 i0
  | .timeDomCapNs => s.timeWord r i0 i1
  | .hifStat | .hifRingCfg | .hifRingProd | .hifRingCons | .hifRingStat => s.hifWord r i0
  | .rstCause | .rstErrsrc | .rstStat | .rstPidle | .rstMidle | .clkStat | .errStat | .errSwcnt | .errHead => s.rstWord r i0
  | .secStat | .secFwver | .secNonce | .secRecovRecovErr => s.secWord r i0
  | .pwrStat | .pwrVin | .pwrIin | .pwrPin | .pwrTemp => s.pwrWord r i0
  | .identIdcode | .identSerial => s.identWord r i0
  | .pitchImgImageId | .pitchImgState | .pitchImgPresentHere | .pitchImgGetsServed | .tapCtrl | .tapSample | .tapCask =>
    s.pitchWord r i0 i1
  | .hlthPort => s.healthWord (256 * i0 + i1)
  | .hlthBudget => min 255 s.inWindow * 2 ^ 24
  | .jobWatchInFlight =>
    if s.rb .jobWatchSel [0, i1] 16 then min 0xFFFFFFF (s.jobInFlight i0 (s.rf .jobWatchSel [0, i1] 0 16)) else 0
  | .caskRegion | .portEtype | .portTcmap | .portSvc | .portFence | .portClass | .portLink | .portCredit | .tblSeeds | .tblCache
  | .tblBucket | .tblLearn | .tblSweep | .tblFence | .flrCtrl | .flrAge | .flrThresh | .flrIng | .tmCtrl | .tmSample | .tmPcfg
  | .tmVcw0 | .tmVcw1 | .tmGenw | .tmQecn | .tmQsamp | .tmShpA | .tmShpB | .tmPolA | .tmPolB | .tmPolC | .klnCtrl | .klnRamp
  | .klnKat | .oeFade | .oeDamp | .d2dCtrl | .timeCtrl | .timeStep | .timeSlew | .timePpsout | .timePpsw | .hifRingBase
  | .hifRingWb | .hifRingMod | .rstCtrl | .rstCfg | .errAck | .errCfg | .hlthCfg | .jobWatchSel | .cntClear | .cntBw | .cntPage
  | .secRecovAddr | .secRecovLen | .pwrWarn => 0

/-- A register word as the host reads it, whatever holds its block. -/
def State.regWord (s : State) (r : Reg) (ix : List Nat) : Nat :=
  let v := s.reg r (canonIx r ix)
  (v - (v &&& elsewhere r)) + s.liveWord r ix

/-- The word at a BAR2 address (R317): the MSI-X table's entries of 16 bytes (address, data, vector control with the mask in bit
0), the PBA, and 0 at every other address as in a reserved field. (PRESUMED, log 10, unsafe) -/
def State.bar2Word (s : State) (a : Nat) : W32 :=
  if 0x30000 ≤ a && a < 0x30400 then
    let v := (a - 0x30000) / 16
    let e := SMap.get s.hif.msix v (0, 0)
    match a / 4 % 4 with
    | 0 => e.1.setWidth 32
    | 1 => (e.1 >>> 32).setWidth 32
    | 2 => e.2
    | _ => BitVec.ofNat 32 (b2n (s.hif.mask.getLsbD v))
  else if 0x38000 ≤ a && a < 0x38008 then BitVec.ofNat 32 (s.hif.pba.toNat / 2 ^ (8 * (a - 0x38000)))
  else 0

/-- The class code that the function's configuration space answers while the link is up (R313). -/
def State.classCode (s : State) : Option (BitVec 24) := if s.hif.linkUp then some Config.classCode else none

/-- The word at a BAR0 address (R10, R316, R338, R349). (DEDUCED, log 9, safe) -/
def State.readReg (s : State) (a : Nat) : W32 :=
  if s.regHeld a then 0
  else
    match regAt a with
    | none => 0
    | some (r, ix) => BitVec.ofNat 32 (s.regWord r ix)

end Sys2Proof.Machine
end

