-- ==== Sys2Proof/Machine/Registers.lean ====
section
/-! DEFINITION. Host accesses to BAR0 registers that have no command of their own (R7 to R10, R145, R312, R321, R338, R345,
R349, R416): 32-bit writes by field, 64-bit halves with shadow and staging, and accesses that are not allowed. -/
namespace Sys2Proof.Machine

/-! ### 32-bit writes (R9, R10) -/

/-- Bits of a register that a command of their own writes: ACTIVE, TX_ON, MODE, EN of the sampler, ENABLE, TIME_INCR.
(DEDUCED, log 4, safe) -/
def ownRow (r : Reg) (lo : Nat) : Bool :=
  match r with
  | .timeCtrl | .oeCtrl | .tapCtrl => lo = 0
  | .tapSample => lo = 28
  | .hifRingCfg => lo = 31
  | .timeIncr => true
  | _ => false

/-- A write reaches one field: RW sets it; a locked RWL field keeps its value, and a new value sets LOCKED_WRITE (R9). -/
def State.writeField (s : State) (r : Reg) (ix : List Nat) (v : Nat) (f : RegFld) : State :=
  let x := fld v f.lo f.width
  if ownRow r f.lo then s
  else if s.locked f.lock ix then
    (if x = s.rf r ix f.lo f.width then s else { s with err := { s.err with lockedWrite := true } })
  else s.setRf r ix f.lo f.width x

/-- A write reaches every field of a register. -/
def State.writeFields (s : State) (r : Reg) (ix : List Nat) (v : Nat) : State :=
  (r.fields (ix.getLastD 0)).foldl (fun (s : State) f => s.writeField r ix v f) s

/-- The W1C bits that no command of their own clears. -/
def State.writeOnes (s : State) (r : Reg) (ix : List Nat) (v : Nat) : State :=
  match r with
  | .rstCause => { s with rst := { s.rst with cause := s.rst.cause &&& ~~~(BitVec.ofNat 9 v) } }
  | .errStat => if bit v 10 then { s with err := { s.err with lockedWrite := false } } else s
  | .clkStat => if bit v 3 then { s with clk := { s.clk with refLost := false } } else s
  | .timeStat =>
    { s with time := { s.time with clamped := s.time.clamped && !bit v 8, ppsSkip := s.time.ppsSkip && !bit v 9 } }
  | .oeStat => if bit v 1 then s.updEngine (nthD ix 0 0) fun e => { e with trip := false } else s
  | .secStat => if bit v 4 then { s with sec := { s.sec with fallback := false } } else s
  | _ => s

/-- LOG2_SIZE, PAIR and VECTOR of an enabled ring: a write is ignored and counted, but for one that clears ENABLE, in the same
word, and carries their present values (R9, R321). (DEDUCED, log 17, safe) -/
def State.writeRingCfg (s : State) (ix : List Nat) (v : Nat) : State :=
  let r := nthD ix 0 0
  if !(s.ring r).enabled then s.writeFields .hifRingCfg ix v
  else if !bit v 31 && [(0, 5), (8, 4), (12, 6)].all (fun f => fld v f.1 f.2 = s.rf .hifRingCfg ix f.1 f.2) then s
  else s.ignoredWrite

/-- PPS_OUT ends with PPS_OUT_EN, and the sampler with EN (R304, R411). SHAPE_EN and POL_EN wait for a refill boundary (R147).
One write that sets both STEP_GO and STEP_REARM is judged here: STEP_GO first, against STEP_OK as it stood, then STEP_REARM
(R296). Moderation is judged by its new fields at once (R335). -/
def State.afterWrite (s : State) (r : Reg) (ix : List Nat) (v : Nat) : State :=
  match r with
  | .timeCtrl =>
    let s := if bit v 3 then s else { s with time := { s.time with ppsHigh := false } }
    if bit v 5 && bit v 6 then s.goStep.rearmStep else s
  | .tmCtrl =>
    let q := nthD ix 0 0
    { s with tmPend := SMap.modify s.tmPend q [] fun l => governs (·.2.2) l s.time.free.toNat ++ [(bit v 0, bit v 1, s.time.free.toNat)] }
  | .hifRingMod => if 16 ≤ nthD ix 0 0 then s.judgeIrq (nthD ix 0 0) false else s
  | .tapSample => if bit v 28 then s else { s with tap := { s.tap with sampleEn := false } }
  | _ => s

/-- A 32-bit write to a register that is not held. (DEDUCED, log 4, safe) -/
def State.writeReg (s : State) (r : Reg) (ix : List Nat) (v : Nat) : State :=
  match r with
  | .tmShpA => { s with stageTm := SMap.put s.stageTm (r.addr ix) (BitVec.ofNat 32 (fld v 0 21)) }
  | .tmPolA => { s with stageTm := SMap.put s.stageTm (r.addr ix) (BitVec.ofNat 32 (fld v 0 24)) }
  | .tmPolB => { s with stageTm := SMap.put s.stageTm (r.addr ix) (BitVec.ofNat 32 (fld v 0 21)) }
  | .tmShpB | .tmPolC => s
  | .tblLearn => (s.settleLearn (nthD ix 0 0)).writeFields r ix v
  | .rstCtrl => if fld v 16 16 = 0xC0DE then s else s.ignoredWrite
  | .secRecovLen =>
    -- a write with GO is counted once, by the row of its GO
    if s.sec.bootFail then s.writeFields r ix v else if bit v 31 then s else s.ignoredWrite
  | .secRecovRecovErr => if s.sec.bootFail then s.writeFields r ix v else s.ignoredWrite
  | .hifRingCfg => s.writeRingCfg ix v
  | _ => if r.is64 then s else ((s.writeFields r (canonIx r ix) v).writeOnes r ix v).afterWrite r ix v

/-- An access that is not a naturally aligned 32-bit access (R7). -/
def State.badAccess (s : State) : State :=
  { s with err := { s.err with badAccess := satTo 65535 (s.err.badAccess + 1) } }.reply .unsupported

/-- REGISTER_WRITE (R9, R10, R338, R349): unoccupied addresses and reserved fields ignore it. (DEDUCED, log 4, safe) -/
def execRegisterWrite (addr : BitVec 24) (v : W32) (s : State) : Res :=
  done (s.host fun s =>
    let a := addr.toNat
    if a % 4 ≠ 0 then s.badAccess
    else if s.regHeld a then s.ignoredWrite
    else
      match regAt a with
      | none => s
      | some (r, ix) => s.writeReg r ix v.toNat)

/-- BAR0_BAD_ACCESS (R7). -/
def execBar0BadAccess (_addr : BitVec 24) (s : State) : Res := done (s.host fun s => s.badAccess)

/-! ### 64-bit registers (R8, R312) -/

/-- The 64-bit register with this half at an address. (DEDUCED, log 17, safe) -/
def reg64At (a half : Nat) : Option (Reg × List Nat) :=
  match regAt a with
  | some (r, ix) => if r.is64 && ix.getLastD 0 = half then some (r, ix.dropLast) else none
  | none => none

/-- The TIME_FRAC register that matches a 64-bit time register, and its present value. (DEDUCED, log 18, safe) -/
def State.matchingFrac (s : State) (r : Reg) (ix : List Nat) : Option (Nat × W32) :=
  match r with
  | .timeNow => some (Reg.timeNowfrac.addr [], s.time.frac)
  | .timeSnapNs => some (Reg.timeSnapFrec.addr [], s.time.snapFrac)
  | .timeDomCapNs => some (Reg.timeDomCapFrac.addr ix, if nthD ix 0 0 = 0 then s.time.domA.capFrac else s.time.domB.capFrac)
  | _ => none

/-- REG64_LOW_READ: answers the low half; the high half goes to the register's shadow, and a matching TIME_FRAC register
latches. (DEDUCED, log 18, safe) -/
def execReg64LowRead (addr : BitVec 24) (s : State) : Res :=
  done (s.host fun s =>
    let a := addr.toNat
    match reg64At a 0 with
    | none => s
    | some (r, ix) =>
      if s.regHeld a then s.reply (.data 0)
      else
        let lo := s.readReg a
        let s := { s with shadow := SMap.put s.shadow a (s.readReg (a + 4))
                          fracLatch := match s.matchingFrac r ix with
                            | some x => SMap.put s.fracLatch x.1 x.2 | none => s.fracLatch }
        s.reply (.data (lo.setWidth 64)))

/-- REG64_HIGH_READ: answers and consumes the shadow, or answers the live high half. -/
def execReg64HighRead (addr : BitVec 24) (s : State) : Res :=
  done (s.host fun s =>
    let a := addr.toNat
    match reg64At a 1 with
    | none => s
    | some _ =>
      if s.regHeld a then s.reply (.data 0)
      else
        match SMap.find s.shadow (a - 4) with
        | some h => { s with shadow := SMap.erase s.shadow (a - 4) }.reply (.data (h.setWidth 64))
        | none => s.reply (.data ((s.readReg a).setWidth 64)))

/-- Writes to the register are ignored and counted: BASE and WB of an enabled ring (R321), and SEC_RECOV outside recovery (R416).
(DEDUCED, log 17, safe) -/
def State.ignores64 (s : State) (r : Reg) (ix : List Nat) : Bool :=
  match r with
  | .hifRingBase | .hifRingWb => (s.ring (nthD ix 0 0)).enabled
  | .secRecovAddr => !s.sec.bootFail
  | _ => false

/-- The register has RW halves. (DEDUCED, log 17, safe) -/
def writable64 (r : Reg) : Bool :=
  match r with
  | .timeIncr | .timeStep | .hifRingBase | .hifRingWb | .secRecovAddr => true
  | _ => false

/-- REG64_LOW_WRITE: the value is held in staging. (DEDUCED, log 17, safe) -/
def execReg64LowWrite (addr : BitVec 24) (v : W32) (s : State) : Res :=
  done (s.host fun s =>
    let a := addr.toNat
    match reg64At a 0 with
    | none => s
    | some (r, ix) =>
      if s.regHeld a then s.ignoredWrite
      else if !writable64 r then s
      else if s.ignores64 r ix then s.ignoredWrite
      else { s with stage64 := SMap.put s.stage64 a v })

/-- REG64_HIGH_WRITE: both halves are committed in one step; with no staged low half, the present low half stays.
(DEDUCED, log 17, safe) -/
def execReg64HighWrite (addr : BitVec 24) (v : W32) (s : State) : Res :=
  done (s.host fun s =>
    let a := addr.toNat
    match reg64At a 1 with
    | none => s
    | some (r, ix) =>
      if s.regHeld a then s.ignoredWrite
      else if !writable64 r then s
      else
        let low := match SMap.find s.stage64 (a - 4) with | some x => x | none => s.readReg (a - 4)
        let s := { s with stage64 := SMap.erase s.stage64 (a - 4) }
        if s.ignores64 r ix then s.ignoredWrite
        else
          match r with
          | .timeIncr => s.writeIncr (low.toNat + v.toNat * 2 ^ 32)
          | _ => (s.setReg r (ix ++ [0]) low.toNat).setReg r (ix ++ [1]) v.toNat)

end Sys2Proof.Machine
end

