-- ==== Sys2Proof/Machine/Dispatch.lean ====
section
/-! DEFINITION. The effect of each command: one arm per row of the table, each a direct call of its meaning. -/
namespace Sys2Proof.Machine
open Sys2Proof

/-- The effect of a command on everything but the queue. -/
def exec (i : Instr) (s : State) : Host.Outcome State Fault Refusal :=
  match i with
  | .registerWrite addr v => Sys2Proof.Machine.execRegisterWrite addr v s
  | .bar0BadAccess addr => Sys2Proof.Machine.execBar0BadAccess addr s
  | .reg64LowRead addr => Sys2Proof.Machine.execReg64LowRead addr s
  | .reg64HighRead addr => Sys2Proof.Machine.execReg64HighRead addr s
  | .reg64LowWrite addr v => Sys2Proof.Machine.execReg64LowWrite addr v s
  | .reg64HighWrite addr v => Sys2Proof.Machine.execReg64HighWrite addr v s
  | .frameReceive p rx => Sys2Proof.Machine.execFrameReceive p rx s
  | .remoteCacheReply h q => Sys2Proof.Machine.execRemoteCacheReply h q s
  | .invalidate h q => Sys2Proof.Machine.execInvalidate h q s
  | .learnRequestApply h => Sys2Proof.Machine.execLearnRequestApply h s
  | .moveRequestApply h => Sys2Proof.Machine.execMoveRequestApply h s
  | .refreshMessage h => Sys2Proof.Machine.execRefreshMessage h s
  | .hostRecordApply h => Sys2Proof.Machine.execHostRecordApply h s
  | .sweeperVisit q => Sys2Proof.Machine.execSweeperVisit q s
  | .rehashBucketVisit q => Sys2Proof.Machine.execRehashBucketVisit q s
  | .rehashWalkEnd q => Sys2Proof.Machine.execRehashWalkEnd q s
  | .birthDeadline q d => Sys2Proof.Machine.execBirthDeadline q d s
  | .domainIdleRelease q d => Sys2Proof.Machine.execDomainIdleRelease q d s
  | .fenceHoldTimeout q d seq => Sys2Proof.Machine.execFenceHoldTimeout q d seq s
  | .packWaitExpiry st => Sys2Proof.Machine.execPackWaitExpiry st s
  | .stage1Slot q g => Sys2Proof.Machine.execStage1Slot q g s
  | .stage2LaneStart x y => Sys2Proof.Machine.execStage2LaneStart x y s
  | .crossbarJoin q lane => Sys2Proof.Machine.execCrossbarJoin q lane s
  | .cellResequence st => Sys2Proof.Machine.execCellResequence st s
  | .cellLossTimeout st => Sys2Proof.Machine.execCellLossTimeout st s
  | .frameAdmit src vc => Sys2Proof.Machine.execFrameAdmit src vc s
  | .groupCopyAdmit q => Sys2Proof.Machine.execGroupCopyAdmit q s
  | .frameBoundary p late => Sys2Proof.Machine.execFrameBoundary p late s
  | .shaperCalendarSlot p n => Sys2Proof.Machine.execShaperCalendarSlot p n s
  | .refillBoundary => Sys2Proof.Machine.execRefillBoundary s
  | .shaperCommit p n v => Sys2Proof.Machine.execShaperCommit p n v s
  | .policerCommit p t v => Sys2Proof.Machine.execPolicerCommit p t v s
  | .mashFrame q => Sys2Proof.Machine.execMashFrame q s
  | .tunService q tun => Sys2Proof.Machine.execTunService q tun s
  | .chunkSelfOpen slot n => Sys2Proof.Machine.execChunkSelfOpen slot n s
  | .contextTimerExpiry slot n => Sys2Proof.Machine.execContextTimerExpiry slot n s
  | .waitTimerExpiry slot n => Sys2Proof.Machine.execWaitTimerExpiry slot n s
  | .resultRetryTimeout slot n c r => Sys2Proof.Machine.execResultRetryTimeout slot n c r s
  | .resultAck q => Sys2Proof.Machine.execResultAck q s
  | .resultNack q => Sys2Proof.Machine.execResultNack q s
  | .queuedPlanLoad => Sys2Proof.Machine.execQueuedPlanLoad s
  | .planUnloadComplete slot => Sys2Proof.Machine.execPlanUnloadComplete slot s
  | .kilnPartialHandover slot n c => Sys2Proof.Machine.execKilnPartialHandover slot n c s
  | .kilnTileIssue q a => Sys2Proof.Machine.execKilnTileIssue q a s
  | .kilnTileOutput q a => Sys2Proof.Machine.execKilnTileOutput q a s
  | .dutyStep q a => Sys2Proof.Machine.execDutyStep q a s
  | .currentHoldExpiry q a => Sys2Proof.Machine.execCurrentHoldExpiry q a s
  | .inServiceTest q a => Sys2Proof.Machine.execInServiceTest q a s
  | .forcedTest q a => Sys2Proof.Machine.execForcedTest q a s
  | .inServiceTestResult q a r => Sys2Proof.Machine.execInServiceTestResult q a r s
  | .trainFrameReceive p t => Sys2Proof.Machine.execTrainFrameReceive p t s
  | .trainingStepComplete p o => Sys2Proof.Machine.execTrainingStepComplete p o s
  | .trainingTimeout p => Sys2Proof.Machine.execTrainingTimeout p s
  | .portDown p c => Sys2Proof.Machine.execPortDown p c s
  | .widthReceive p mask lsn => Sys2Proof.Machine.execWidthReceive p mask lsn s
  | .widthAckReceive p mask lsn => Sys2Proof.Machine.execWidthAckReceive p mask lsn s
  | .widthAckTimeout p => Sys2Proof.Machine.execWidthAckTimeout p s
  | .creditFrameReceive p limits => Sys2Proof.Machine.execCreditFrameReceive p limits s
  | .creditFrameTimer p => Sys2Proof.Machine.execCreditFrameTimer p s
  | .retryReqReceive p lsn => Sys2Proof.Machine.execRetryReqReceive p lsn s
  | .linkAckReceive p lsn => Sys2Proof.Machine.execLinkAckReceive p lsn s
  | .linkAckTimer p => Sys2Proof.Machine.execLinkAckTimer p s
  | .flapEvaluation => Sys2Proof.Machine.execFlapEvaluation s
  | .ringLightPresent r => Sys2Proof.Machine.execRingLightPresent r s
  | .ringResonance r => Sys2Proof.Machine.execRingResonance r s
  | .ringSweepEnd r => Sys2Proof.Machine.execRingSweepEnd r s
  | .ringToneResult r o => Sys2Proof.Machine.execRingToneResult r o s
  | .ringStep r => Sys2Proof.Machine.execRingStep r s
  | .ringToneLost r => Sys2Proof.Machine.execRingToneLost r s
  | .ringLightLost r => Sys2Proof.Machine.execRingLightLost r s
  | .levelMeasurement o obs => Sys2Proof.Machine.execLevelMeasurement o obs s
  | .handoverStep o onlyTone => Sys2Proof.Machine.execHandoverStep o onlyTone s
  | .crossFadeStep o => Sys2Proof.Machine.execCrossFadeStep o s
  | .handoverStepTimeout o => Sys2Proof.Machine.execHandoverStepTimeout o s
  | .laserFailure o n => Sys2Proof.Machine.execLaserFailure o n s
  | .recalComplete o m => Sys2Proof.Machine.execRecalComplete o m s
  | .meshSettleCheck o m bad => Sys2Proof.Machine.execMeshSettleCheck o m bad s
  | .laserEnLow => Sys2Proof.Machine.execLaserEnLow s
  | .laserEnHigh => Sys2Proof.Machine.execLaserEnHigh s
  | .txOnWrite o on => Sys2Proof.Machine.execTxOnWrite o on s
  | .flitReceive x y b w => Sys2Proof.Machine.execFlitReceive x y b w s
  | .d2dRetryRequest x y b slot => Sys2Proof.Machine.execD2dRetryRequest x y b slot s
  | .d2dRetryRepeat x y b => Sys2Proof.Machine.execD2dRetryRepeat x y b s
  | .d2dReplayWindowExpiry x y b => Sys2Proof.Machine.execD2dReplayWindowExpiry x y b s
  | .mseqGapTimeout x y => Sys2Proof.Machine.execMseqGapTimeout x y s
  | .marginSample x y b widths => Sys2Proof.Machine.execMarginSample x y b widths s
  | .flitErrorWindow x y b => Sys2Proof.Machine.execFlitErrorWindow x y b s
  | .quietPointEnd x y b o => Sys2Proof.Machine.execQuietPointEnd x y b o s
  | .bundleTrainingComplete x y b o => Sys2Proof.Machine.execBundleTrainingComplete x y b o s
  | .testAccessInstruction code => Sys2Proof.Machine.execTestAccessInstruction code s
  | .ppsEdge d => Sys2Proof.Machine.execPpsEdge d s
  | .domainEdgeTimeout d => Sys2Proof.Machine.execDomainEdgeTimeout d s
  | .servoApply => Sys2Proof.Machine.execServoApply s
  | .ppsOutCrossing => Sys2Proof.Machine.execPpsOutCrossing s
  | .ppsOutPulseEnd => Sys2Proof.Machine.execPpsOutPulseEnd s
  | .stepGo => Sys2Proof.Machine.execStepGo s
  | .stepRearm => Sys2Proof.Machine.execStepRearm s
  | .snap => Sys2Proof.Machine.execSnap s
  | .timeIncrWrite v => Sys2Proof.Machine.execTimeIncrWrite v s
  | .activeWrite d => Sys2Proof.Machine.execActiveWrite d s
  | .launchTime p => Sys2Proof.Machine.execLaunchTime p s
  | .doorbell r v aligned => Sys2Proof.Machine.execDoorbell r v aligned s
  | .descriptorFetch c d => Sys2Proof.Machine.execDescriptorFetch c d s
  | .writeBackTimer r => Sys2Proof.Machine.execWriteBackTimer r s
  | .interruptTimer r => Sys2Proof.Machine.execInterruptTimer r s
  | .ringEnable r => Sys2Proof.Machine.execRingEnable r s
  | .ringDisable r => Sys2Proof.Machine.execRingDisable r s
  | .busMasterEnable => Sys2Proof.Machine.execBusMasterEnable s
  | .msixUnmask e => Sys2Proof.Machine.execMsixUnmask e s
  | .nop c => Sys2Proof.Machine.execNop c s
  | .portArm c => Sys2Proof.Machine.execPortArm c s
  | .portDisarm c => Sys2Proof.Machine.execPortDisarm c s
  | .sheafSet c rec => Sys2Proof.Machine.execSheafSet c rec s
  | .groupSet c rec => Sys2Proof.Machine.execGroupSet c rec s
  | .tableLoad c buf => Sys2Proof.Machine.execTableLoad c buf s
  | .tableDump c => Sys2Proof.Machine.execTableDump c s
  | .tableRehash c => Sys2Proof.Machine.execTableRehash c s
  | .endpointFence c => Sys2Proof.Machine.execEndpointFence c s
  | .caskLayout c => Sys2Proof.Machine.execCaskLayout c s
  | .planLoad c img => Sys2Proof.Machine.execPlanLoad c img s
  | .planUnload c => Sys2Proof.Machine.execPlanUnload c s
  | .instanceAbort c => Sys2Proof.Machine.execInstanceAbort c s
  | .identityMove c => Sys2Proof.Machine.execIdentityMove c s
  | .laserCommission c => Sys2Proof.Machine.execLaserCommission c s
  | .groupRecal c => Sys2Proof.Machine.execGroupRecal c s
  | .meshSet c => Sys2Proof.Machine.execMeshSet c s
  | .bundleQuiesce c => Sys2Proof.Machine.execBundleQuiesce c s
  | .bundleRelease c => Sys2Proof.Machine.execBundleRelease c s
  | .blockReset c => Sys2Proof.Machine.execBlockReset c s
  | .blockResetComplete ty ix arrays => Sys2Proof.Machine.execBlockResetComplete ty ix arrays s
  | .powerState c => Sys2Proof.Machine.execPowerState c s
  | .powerStateComplete => Sys2Proof.Machine.execPowerStateComplete s
  | .schedLaunch c frame => Sys2Proof.Machine.execSchedLaunch c frame s
  | .pitchOpen c rec => Sys2Proof.Machine.execPitchOpen c rec s
  | .pitchSeal c rec => Sys2Proof.Machine.execPitchSeal c rec s
  | .pitchDrop c rec => Sys2Proof.Machine.execPitchDrop c rec s
  | .pitchStatus c rec => Sys2Proof.Machine.execPitchStatus c rec s
  | .pitchPut q => Sys2Proof.Machine.execPitchPut q s
  | .pitchGet q poisoned => Sys2Proof.Machine.execPitchGet q poisoned s
  | .tapSetRule c rec => Sys2Proof.Machine.execTapSetRule c rec s
  | .tapSetFilter c rec => Sys2Proof.Machine.execTapSetFilter c rec s
  | .tapStart c rec => Sys2Proof.Machine.execTapStart c rec s
  | .tapStop c rec => Sys2Proof.Machine.execTapStop c rec s
  | .tapRead c rec => Sys2Proof.Machine.execTapRead c rec s
  | .tapRecordDrain q => Sys2Proof.Machine.execTapRecordDrain q s
  | .fwStage c img => Sys2Proof.Machine.execFwStage c img s
  | .fwActivateTrial c rec => Sys2Proof.Machine.execFwActivateTrial c rec s
  | .fwActivateNextBoot c rec => Sys2Proof.Machine.execFwActivateNextBoot c rec s
  | .fwSvnCommit c rec => Sys2Proof.Machine.execFwSvnCommit c rec s
  | .keySlotRevoke c rec => Sys2Proof.Machine.execKeySlotRevoke c rec s
  | .attestReport c req => Sys2Proof.Machine.execAttestReport c req s
  | .attestCertificate c req => Sys2Proof.Machine.execAttestCertificate c req s
  | .lifecycle c o => Sys2Proof.Machine.execLifecycle c o s
  | .recoveryGo img => Sys2Proof.Machine.execRecoveryGo img s
  | .porNAssert => Sys2Proof.Machine.execPorNAssert s
  | .porNRelease => Sys2Proof.Machine.execPorNRelease s
  | .porSupplyLow => Sys2Proof.Machine.execPorSupplyLow s
  | .porSupplyRelease => Sys2Proof.Machine.execPorSupplyRelease s
  | .sysRstNAssert => Sys2Proof.Machine.execSysRstNAssert s
  | .sysRstNRelease => Sys2Proof.Machine.execSysRstNRelease s
  | .perstNAssert => Sys2Proof.Machine.execPerstNAssert s
  | .perstNRelease => Sys2Proof.Machine.execPerstNRelease s
  | .coreReset v => Sys2Proof.Machine.execCoreReset v s
  | .sysReset v => Sys2Proof.Machine.execSysReset v s
  | .releaseStepComplete n o => Sys2Proof.Machine.execReleaseStepComplete n o s
  | .criticalError u q => Sys2Proof.Machine.execCriticalError u q s
  | .refOkLoss offset => Sys2Proof.Machine.execRefOkLoss offset s
  | .refOkRestored => Sys2Proof.Machine.execRefOkRestored s
  | .sclStuckLow => Sys2Proof.Machine.execSclStuckLow s
  | .errAck seq => Sys2Proof.Machine.execErrAck seq s
  | .errHeadRead => Sys2Proof.Machine.execErrHeadRead s
  | .overflowClear => Sys2Proof.Machine.execOverflowClear s
  | .watchdogExpiry => Sys2Proof.Machine.execWatchdogExpiry s
  | .firmwareRestartComplete => Sys2Proof.Machine.execFirmwareRestartComplete s
  | .healthTick obs => Sys2Proof.Machine.execHealthTick obs s
  | .expelHoldExpiry p => Sys2Proof.Machine.execExpelHoldExpiry p s
  | .readmitHoldExpiry p => Sys2Proof.Machine.execReadmitHoldExpiry p s
  | .cntClear v => Sys2Proof.Machine.execCntClear v s
  | .bar4Read off size => Sys2Proof.Machine.execBar4Read off size s
  | .bar4Write off => Sys2Proof.Machine.execBar4Write off s
  | .modeWrite m => Sys2Proof.Machine.execModeWrite m s
  | .recoveryExit => Sys2Proof.Machine.execRecoveryExit s
  | .samplerEnWrite => Sys2Proof.Machine.execSamplerEnWrite s
  | .inputFaultSet o => Sys2Proof.Machine.execInputFaultSet o s
  | .inputFaultClear o => Sys2Proof.Machine.execInputFaultClear o s
  | .sensorSample k t => Sys2Proof.Machine.execSensorSample k t s
  | .warnClear => Sys2Proof.Machine.execWarnClear s
  | .thermalTrip k => Sys2Proof.Machine.execThermalTrip k s
  | .cellarThermalTrip => Sys2Proof.Machine.execCellarThermalTrip s
  | .tripClear => Sys2Proof.Machine.execTripClear s
  | .clearFaults => Sys2Proof.Machine.execClearFaults s
  | .capability => Sys2Proof.Machine.execCapability s
  | .statusWord => Sys2Proof.Machine.execStatusWord s
  | .statusInput => Sys2Proof.Machine.execStatusInput s
  | .statusTemperature => Sys2Proof.Machine.execStatusTemperature s
  | .readVin => Sys2Proof.Machine.execReadVin s
  | .readIin => Sys2Proof.Machine.execReadIin s
  | .readTemperature1 => Sys2Proof.Machine.execReadTemperature1 s
  | .readTemperature2 => Sys2Proof.Machine.execReadTemperature2 s
  | .readPin => Sys2Proof.Machine.execReadPin s
  | .pmbusRevision => Sys2Proof.Machine.execPmbusRevision s
  | .pmbusReject why => Sys2Proof.Machine.execPmbusReject why s
  | .fwStageComplete ok => Sys2Proof.Machine.execFwStageComplete ok s
  | .ageDiscardWaiting src vc => Sys2Proof.Machine.execAgeDiscardWaiting src vc s
  | .aerUncorrectable => Sys2Proof.Machine.execAerUncorrectable s
  | .peakWRead => Sys2Proof.Machine.execPeakWRead s

end Sys2Proof.Machine
end

