-- ==== Sys2Proof/Machine/Strikes.lean ====
section
/-! DEFINITION. Bit errors of the memories and what the device does about them (R362 to R367). -/
namespace Sys2Proof.Machine

/-! ### Records (R363, R369) -/

/-- CLASS and DETAIL of an error record for a memory word. (DESIGN CHOICE, log 30, unsafe) -/
def MemWord.detail (m : MemWord) : Byte × List (Nat × List Byte) :=
  match m with
  | .packet w => (0x01, [(32, [0]), (36, leBytes 4 w.toNat)])
  | .tapStaging w => (0x01, [(32, [1]), (36, leBytes 4 w.toNat)])
  | .mash kind slot n c => (0x05, [(32, leBytes 1 kind), (34, leBytes 2 slot), (36, leBytes 4 n), (40, leBytes 8 c)])
  -- R366 has the record of a tile name its plan slot, instance and chunk, and R369 gives them no bytes: the model takes 48 to 63
  | .kiln kind a st slot n c ns =>
    (0x06, [(32, leBytes 1 kind), (34, leBytes 2 a), (36, leBytes 1 st), (40, leBytes 8 ns.toNat), (48, leBytes 2 slot), (52, leBytes 4 n),
            (56, leBytes 8 c)])
  | .cask ch region a => (0x07, [(32, leBytes 1 ch.toNat), (33, leBytes 1 region), (40, leBytes 8 a.toNat)])

/-- Writes the record of an error in a memory word of quadrant q. -/
def State.memRecord (s : State) (q : Nat) (sev : Byte) (m : MemWord) : State :=
  s.errorAt m.detail.1 sev (BitVec.ofNat 8 q) m.detail.2

/-- CE_THRESH. -/
def State.ceThresh (s : State) : Nat := s.rf .errCfg [] 0 16

/-- An error of memory instance k of quadrant q is corrected: it is counted, and the one that passes CE_THRESH within a second
writes a record (R363). (DESIGN CHOICE, log 30, unsafe) -/
def State.correct (s : State) (q k : Nat) (m : MemWord) : State :=
  let s := s.countQuad q (64 + k)
  let sec := s.time.free.toNat / 10 ^ 9
  let old := SMap.get s.err.corrected (64 * q + k) (0, 0, false)
  let w := if old.1 = sec then old else (sec, 0, false)
  let passes : Bool := s.ceThresh < w.2.1 + 1 && !w.2.2
  let s := { s with err := { s.err with corrected := SMap.put s.err.corrected (64 * q + k) (sec, w.2.1 + 1, w.2.2 || passes) } }
  if passes then s.memRecord q sevCorrected m else s

/-! ### Frames and cells (R364) -/

/-- A frame of an output queue is poisoned: it is dropped and counted at its output, or, where its transmission has begun, ends
with an inverted FCS. (DESIGN CHOICE, log 30, unsafe) -/
def State.poisonEntry (s : State) (p n fid : Nat) : State :=
  match (s.queue p n).entries.find? (·.fid = fid) with
  | none => s
  | some e =>
    if e.cut then s.updQueue p n fun q => { q with entries := updWhere q.entries (·.fid = fid) fun e => { e with faulty := true } }
    else (((s.poisonCount p n e.bytes e.src).leaveQueue p n e).departEntry (p / 256) e).placeQueue p n

/-- A poisoned frame of an output queue. The copies of a group frame in one quadrant share its cells there, and so every one of them
is poisoned, and the copies still to be made. (DESIGN CHOICE, log 30, unsafe) -/
def State.poisonQueued (s : State) (p n fid : Nat) : State :=
  match (s.queue p n).entries.find? (·.fid = fid) with
  | none => s
  | some e =>
    if !e.group then s.poisonEntry p n fid
    else
      let s := s.updFloor (p / 256) fun f =>
        { f with repl := updWhere f.repl (·.ctx.fid = fid) fun r => { r with ctx := { r.ctx with poison := some 1 } } }
      let places := s.queues.filter fun x => x.1 / 2048 = p / 256 && x.2.entries.any (·.fid = fid)
      places.foldl (fun (s : State) x => s.poisonEntry (x.1 / 8) (x.1 % 8) fid) s

/-- A poisoned frame that waits: what it becomes in the floor, a fence slot or a replicator's list is poisoned with it; one that a
service of quadrant q has still to read is dropped there. (DESIGN CHOICE, log 30, unsafe) -/
def State.poisonFrame (s : State) (q fid back : Nat) : State :=
  let ctx (c : FrameCtx) : FrameCtx := if c.fid = fid then { c with poison := some (1 + back % frameLen c.bytes) } else c
  let wait (w : Waiting) : Waiting := { w with ctx := ctx w.ctx }
  let s : State := { s with waiting := s.waiting.map fun (x : Nat × List Waiting) => (x.1, x.2.map wait)
                            held := s.held.map fun (h : Held) => { h with wait := wait h.wait } }
  let s := s.updFloor q fun f => { f with repl := f.repl.map fun (r : ReplItem) => { r with ctx := ctx r.ctx } }
  let gone := (SMap.get s.mashIn q [] ++ SMap.get s.respIn q [] ++ SMap.get s.pitchIn q []).filter fun (c : FrameCtx) => c.fid = fid
  let rest (m : SMap (List FrameCtx)) : SMap (List FrameCtx) := SMap.set m q ((SMap.get m q []).filter (·.fid ≠ fid)) []
  let s := { s with mashIn := rest s.mashIn, respIn := rest s.respIn, pitchIn := rest s.pitchIn }
  gone.foldl (fun (s : State) c => (s.freeIngress c).depart q c.bytes) s

/-- Marks every copy of a cell on the floor; one that its stream's end holds, and whose tag is then in error, is discarded there. -/
def State.markCell (s : State) (st : StreamId) (cseq : BitVec 14) (f : Cell → Cell) : State :=
  let is (c : Cell) : Bool := decide (c.st = st) && c.cseq = cseq
  let mark (c : Cell) : Cell := if is c then f c else c
  let all (m : SMap (List Cell)) : SMap (List Cell) := m.map fun x => (x.1, x.2.map mark)
  let s := { s with s1 := all s.s1, s2 := all s.s2, lanesIn := all s.lanesIn
                    arriving := s.arriving.map fun x => (x.1, x.2.1, mark x.2.2)
                    streams := s.streams.map fun x => (x.1, { x.2 with held := x.2.held.map mark }) }
  match (s.reseqOf st).cells.find? is with
  | none => s
  | some c =>
    let s := s.updReseq st fun r => { r with cells := r.cells.map mark }
    if tagOk (f c) then s
    else (s.updReseq st fun r => { r with cells := r.cells.filter fun c => !is c, missingAt := r.missingAt.or (some s.time.core) }).noteLost c

/-! ### Mash and Kiln (R366, R367) -/

/-- An instance whose data is poisoned ends ABORTED at once, whatever POLICY is, with HOST_ABORT clear, and a record names it. -/
def State.poisonInst (s : State) (slot n : Nat) (q : Nat) (m : MemWord) : State :=
  match s.inst slot n with
  | none => s
  | some i => if isOpen i then (s.endInst slot n .aborted).memRecord q sevContained m else s

/-- The plan-store copies in some quadrants are bad: another quadrant's copy replaces them; with none good the plan is unloaded
as by abort mode, and a PLAN_UNLOAD of it that waits completes (R366, R183). -/
def State.poisonStore (s : State) (slot : Nat) (bad : BitVec 4) : State :=
  if (s.plan slot).isNone || bad = 0 then s
  else
    let q := ((List.range 4).find? bad.getLsbD).getD 0
    let s := s.memRecord q sevContained (.mash 3 slot 0 0)
    if (List.range 4).any fun y => !bad.getLsbD y && !bit s.rst.quadInReset.toNat y then s
    else
      let s := s.abortAll slot
      match s.plan slot with
      | none => s
      | some p =>
        let s := s.releasePlan slot
        match p.unload with
        | some (_, ref) => s.complete ref .success (leBytes 4 p.aborted)
        | none => s

/-! ### The Cask (R365) -/

/-- A word of the bitmap of an image is bad: its chunks count as missing in this device's copy, and the PITCH event tells of it
(R365, R384, R386). (DESIGN CHOICE, log 30, unsafe) -/
def State.loseChunks (s : State) (q k w : Nat) : State :=
  let x := s.pitchImg k
  let mine (c : Nat) : Bool := c % 4 = q && c / 256 = w
  if x.state = .free || !x.store || !x.present.any mine then s
  else
    let left := x.present.filter fun c => !mine c
    (s.updPitch k fun x => { x with present := left }).pitchEvent k x.id.toNat 3 left.length

/-! ### One error -/

/-- The quadrant of a chunk's slot, else the plan's ENTRY_Q. -/
def State.chunkQuad (s : State) (slot n c : Nat) : Nat :=
  match (s.inst slot n).bind (findChunk · c) with
  | some ch => ch.quad
  | none => ((s.plan slot).map (·.img.entryQ)).getD 0

/-- The device meets a bit error in one of its memories. (DESIGN CHOICE, log 30, unsafe) -/
def State.strike (s : State) (x : Strike) : State :=
  match x with
  | .corrected q k m => s.correct q.toNat k.toNat m
  | .queued p n fid w => (s.poisonQueued p.toNat n.toNat fid).memRecord (p.toNat / 256) sevContained (.packet w)
  | .frame q fid back w => (s.poisonFrame q.toNat fid back).memRecord q.toNat sevContained (.packet w)
  | .cell q st cseq w => (s.markCell st cseq fun c => { c with poisoned := true }).memRecord q.toNat sevContained (.packet w)
  | .tag st cseq flip => s.markCell st cseq fun c => { c with tagFlip := c.tagFlip ^^^ flip }
  | .record q d w =>
    let s := { s with doms := s.doms.filter fun r => !domIs q.toNat d r }
    let s := (s.held.filter fun h => h.quad = q && decide (h.dom = d)).foldl (fun (s : State) h =>
      s.dropHeld h rFenceTimeout ((oPrecnt h.wait.ctx.bytes).toNat * 2 ^ 32)) s
    s.memRecord q.toNat sevContained (.tapStaging w)
  | .launch p t w =>
    let s := (s.launches.filter fun l => l.port = p.toNat && l.t = t).foldl (fun (s : State) l => s.launchMissed l 1) s
    s.memRecord (p.toNat / 256) sevContained (.tapStaging w)
  | .replay p w =>
    let k := p.toNat
    let s := if (s.port k).up then ((s.goDown k !s.smallClass).damp k).trainEval k else s
    s.memRecord (k / 256) sevContained (.tapStaging w)
  | .tapRecord q w =>
    let s := if s.tap.staged.any fun y => y.1 = q then
        ({ s with tap := { s.tap with staged := s.tap.staged.eraseP fun y => y.1 = q } }.countQuad q.toNat 51).stopEnds else s
    s.memRecord q.toNat sevContained (.tapStaging w)
  | .tapCask q k ch a =>
    { s with tap := { s.tap with badCask := s.tap.badCask ++ [(q.toNat, k)] } }.memRecord q.toNat sevContained (.cask ch 2 a)
  | .repair q k w ch =>
    let a := caskBase (s.layout q.toNat) 1 + nthD (s.pitchImg k.val).bitmap q.toNat 0 + 8 * w
    (s.loseChunks q.toNat k.val w).memRecord q.toNat sevContained (.cask ch 1 (BitVec.ofNat 64 a))
  | .home key b => { s with home := SMap.modify s.home key 0 (· ^^^ BitVec.ofNat 128 (2 ^ b.toNat)) }
  | .cached key b =>
    match SMap.find s.cache key with
    | none => s
    | some l => { s with cache := SMap.put s.cache key { l with entry := l.entry ^^^ BitVec.ofNat 128 (2 ^ b.toNat) } }
  | .element slot n c => s.poisonInst slot n (s.chunkQuad slot n c) (.mash 1 slot n c)
  | .context slot n => (s.updInst slot n fun i => { i with poisoned := true }).poisonInst slot n (s.chunkQuad slot n (2 ^ 43)) (.mash 2 slot n 0)
  | .staged slot n c => s.poisonInst slot n (s.chunkQuad slot n c) (.mash 4 slot n c)
  | .planStore slot bad => s.poisonStore slot bad
  | .heldBank q a r => s.katFail (arrKey q a) 2 0 r
  | .kilnBuffer q a slot n c =>
    let x := s.array (arrKey q a)
    s.poisonInst slot n q.toNat (.kiln 4 (arrKey q a) x.stream slot n c x.passNs)
  | .trst high => { s with pins := { s.pins with trstN := high }
                           out := { s.out with testOut := if high then s.out.testOut else some s.idcode } }

/-- What happens in a CLK_CORE cycle in which no command is taken: the bit error that comes next, if any, the cycle itself, and
the message flits that directions have to send (R2, R278). (DESIGN CHOICE, log 2, safe; DESIGN CHOICE, log 30, unsafe) -/
def State.idle (s : State) : State :=
  match s.strikes with
  | [] => s.tick.startAllMsgs
  | x :: r => ({ s with strikes := r }.strike x).tick.startAllMsgs

end Sys2Proof.Machine
end

