-- ==== Sys2Proof/Safety.lean ====
section
/-! DEFINITION. What claims about the block speak of: a step that goes on, the invariants that hold of every reachable state,
and what of the state only named commands may change. -/
namespace Sys2Proof.Machine

/-- The machine goes on: its step answers a next state. -/
def State.goesOn (s : State) : Prop := ∃ t, step s = .next t

/-- INCR lies inside its range of R294: 1 ns ± 2^-10 ns in units of 2^-32 ns. -/
def State.incrBounded (s : State) : Prop := 0xFFC00000 ≤ s.time.incr.toNat ∧ s.time.incr.toNat ≤ 0x100400000

/-- The Cask store is in its canonical form: addresses strictly rising, no listed byte equal to what an unlisted byte reads. -/
def State.caskCanonical (s : State) : Prop := SMap.wf 0 s.cask = true

/-- What a blown fuse cannot lose: the anti-rollback count, the revoked slots, the life-cycle bits, the secret, the closures of
the test chain and what assembly test wrote: the bad wires and the row maps (R236, R282, R292, R420, R423, R425). -/
def fusesGrow (a b : Fuses) : Prop :=
  a.svn ≤ b.svn ∧ a.revoked &&& b.revoked = a.revoked ∧ a.lc &&& b.lc = a.lc ∧
    (a.secretBlown = true → b.secretBlown = true) ∧ (a.chainClosed = true → b.chainClosed = true) ∧
    a.pathClosed &&& b.pathClosed = a.pathClosed ∧
    (a.wiresWritten = true → b.wiresWritten = true ∧ b.badWires = a.badWires) ∧
    (a.arraysWritten = true → b.arraysWritten = true ∧ b.arrays = a.arrays)

/-- The parts of the state that few commands may change: the queue of commands, the time unit, the fuses and the Cask. -/
def State.fixed (s : State) : List Instr × TimeSt × Fuses × List Host.Cell := (s.pending, s.time, s.sec.fuses, s.cask)

/-! ### What claims about registers speak of -/

/-- A register that a host write reaches field by field and in no other way: no 64-bit half, no field with a command of its own,
no W1C bit, no staging, nothing that is judged anew. -/
def Reg.plain (r : Reg) : Bool :=
  match r with
  | .timeCtrl | .oeCtrl | .tapCtrl | .tapSample | .hifRingCfg | .rstCause | .errStat | .clkStat | .timeStat | .oeStat | .secStat
  | .tmShpA | .tmShpB | .tmPolA | .tmPolB | .tmPolC | .rstCtrl | .secRecovLen | .secRecovRecovErr
  | .tmCtrl | .tblLearn | .hifRingMod => false
  | _ => !r.is64

/-! ### What claims about host commands speak of -/

/-- The state without what faces the host: rings, interface, output, counters and error records. Two states with the same
`inner` part differ only there. -/
def State.inner (s : State) : State := { s with rings := [], hif := {}, out := {}, ctrs := [], err := {} }

/-- The command that ring c starts next is `f`, of opcode `op`, and the firmware takes commands (R24, R315, R328). -/
def State.offers (s : State) (c : CmdRing) (f : Fetched) (op : Nat) : Prop :=
  s.startable c.toNat = some f ∧ f.opcode.toNat = op ∧ s.hif.fwReady = true ∧ s.hif.busMaster = true

/-- The state once that command has started. -/
def State.started (s : State) (c : CmdRing) (f : Fetched) : State :=
  s.updRing c.toNat fun x =>
    { x with cmds := updWhere x.cmds (·.named f.index f.era) fun g => { g with started := true } }

/-- The name of that command. -/
def cmdName (c : CmdRing) (f : Fetched) : CmdRef := f.ref c

/-! ### Invariants -/

/-- What every command keeps: the queue is not touched, INCR stays in its range, no fuse is unblown, and the Cask store stays
canonical. -/
def State.keeps (s t : State) : Prop :=
  t.pending = s.pending ∧ (s.incrBounded → t.incrBounded) ∧ fusesGrow s.sec.fuses t.sec.fuses ∧
    (s.caskCanonical → t.caskCanonical)

end Sys2Proof.Machine
end

