-- ==== Sys2Proof/Certificates/Slice0/Obligations.lean ====
section
/-! DEFINITION. What is claimed of the block, for the provers: its queue and invariants first, and then its commands, family by
family. -/
open Sys2Proof Sys2Proof.Machine

/-- For every command c, queue rest and state s: with c at the front of its queue, step of s is exec of c on s with the
queue's rest. With an empty queue, step of s answers s after one CLK_CORE cycle without a command (the model's choice, log 2):
the bit error or line event that comes next, if any (log 30), the cycle, and the messages that directions have to send.
(spec/95_what_each_step_holds.md, spec/opcode_table.json) -/
def Obligations.StepRunsFront : Prop :=
  (∀ (c : Instr) (rest : List Instr) (s : State), s.pending = c :: rest → step s = exec c { s with pending := rest }) ∧
  ∀ s : State, s.pending = [] → step s = .next s.idle

/-- For every command c and state s, exec of c on s answers a next state, and step of s does as well. So no command is refused
and no data ends a run. What each command does is stated family by family below. (spec/95_what_each_step_holds.md) -/
def Obligations.EveryCommandCompletes : Prop :=
  (∀ (c : Instr) (s : State), ∃ t, exec c s = .next t) ∧ ∀ s : State, s.goesOn

/-- For all states s and t: if step of s answers next t, then the queue of t is the queue of s without its front command. No
command puts another into the queue, drops one or changes their order (the queue is the model's own state).
(spec/95_what_each_step_holds.md) -/
def Obligations.QueueIsFirstInFirstOut : Prop :=
  ∀ s t : State, step s = .next t → t.pending = s.pending.tail

/-- For all states s and t: if INCR of s lies in 0xFFC00000 to 0x100400000 and step of s answers next t, then INCR of t lies
there too, whatever the command: a host write, the servo, a loss of the active domain or a reset. (R294, R298, R302) -/
def Obligations.IncrStaysInItsRange : Prop :=
  ∀ s t : State, s.incrBounded → step s = .next t → t.incrBounded

/-- For all states s and t: if step of s answers next t, then the anti-rollback count of t is at least that of s, every
revoked key slot and every blown life-cycle bit of s is blown in t, a blown secret and a closed chain or path of it stay so,
and the bad wires and the row maps that assembly test has written stay as written, through every command and every reset.
(R236, R282, R292, R420, R423, R425) -/
def Obligations.FusesAreNeverUnblown : Prop :=
  ∀ s t : State, step s = .next t → fusesGrow s.sec.fuses t.sec.fuses

/-- For all states s and t: if the Cask store of s lists rising addresses and no byte equal to what a wiped byte reads (0),
and step of s answers next t, then so does that of t. Equal Casks are then equal data (the form is the model's own; that a
wiped byte reads 0 is R359). (R19, R359) -/
def Obligations.CaskStaysCanonical : Prop :=
  ∀ s t : State, s.caskCanonical → step s = .next t → t.caskCanonical

/-- At reset the queue is empty (the model's choice, log 2), INCR lies in its range and is 2^32, device time and FREE are 0,
the Cask is canonical and empty (the model's choice, logs 6 and 8), every ring is disabled, every port is disarmed, the
power-on reach is asserted through POR_SUPPLY, the operating mode is START_UP, and the first ERR record to come has SEQ 1.
(R293, R294, R344, R348, R369, R410) -/
def Obligations.ResetMeetsTheInvariants : Prop :=
  State.reset.pending = [] ∧ State.reset.incrBounded ∧ State.reset.time.incr = 0x100000000 ∧ State.reset.time.ns = 0 ∧
  State.reset.time.frac = 0 ∧ State.reset.time.free = 0 ∧ State.reset.caskCanonical ∧ (∀ a, byteAt State.reset.cask a = 0) ∧
  (∀ r, (State.reset.ring r).enabled = false) ∧ (∀ p, (State.reset.port p).armed = false) ∧
  State.reset.rst.reach = some .powerOn ∧ State.reset.rst.held = [.porSupply] ∧ State.reset.rst.cause = 0x002 ∧
  State.reset.tap.mode = 1 ∧ State.reset.err.nextSeq = 1

/-- For every state with an empty queue: a step answers a next state with an empty queue whose time unit is the one after one
cycle, whatever bit error befalls a memory meanwhile. Where the time unit runs, no bit error comes, no error waits to be taken
and no direction of a bundle has a message to send, two steps answer next states, after which the 96-bit device time is the
old one plus INCR modulo 2^96, FREE is one more, the core count two more, and every other part of the state is as before, but
for the note of a PPS_OUT crossing passed. That an idle step is one CLK_CORE cycle is the model's choice (log 2). (R293, R295,
spec/13_clocks_and_reset.md) -/
def Obligations.IdleCyclesAdvanceDeviceTime : Prop :=
  ∀ s : State, s.pending = [] →
    (∃ t, step s = .next t ∧ t.pending = [] ∧ t.time.core = s.time.core + 1 ∧ t.time.incr = s.time.incr ∧
      (s.time.core % 2 = 0 → t.time96 = s.time96 ∧ t.time.free = s.time.free)) ∧
    (s.timeRuns = true → s.strikes = [] → s.err.found = [] → (∀ x ∈ s.dirs, x.2.outMsgs = [] ∧ x.2.outRetry = []) →
      ∃ t u, step s = .next t ∧ step t = .next u ∧
        u.time96 = (s.time96 + s.time.incr.toNat) % 2 ^ 96 ∧ u.time.free = s.time.free + 1 ∧ u.time.core = s.time.core + 2 ∧
        u = { s with time := { s.time with core := u.time.core, ns := u.time.ns, frac := u.time.frac, free := u.time.free,
                                           ppsDue := u.time.ppsDue } })

/-- For every address, value and state: without a PCIe link REGISTER_WRITE and BAR0_BAD_ACCESS have no effect and no answer.
With one, a misaligned REGISTER_WRITE and every BAR0_BAD_ACCESS is counted in the ERR block (saturating) and answered
Unsupported Request and nothing else changes; a write to a held register is ignored and counted; a write to an address that no
register occupies changes nothing. (R7, R10, R338, R345, R349) -/
def Obligations.HostAccessesReachTheirRegisters : Prop :=
  ∀ (a : BitVec 24) (v : W32) (s : State),
    (s.hif.linkUp = false → exec (.registerWrite a v) s = .next (s.reply .noResponse) ∧
      exec (.bar0BadAccess a) s = .next (s.reply .noResponse)) ∧
    (s.hif.linkUp = true →
      let refused := { s with err := { s.err with badAccess := min 65535 (s.err.badAccess + 1) }, out := { s.out with reply := .unsupported } }
      exec (.bar0BadAccess a) s = .next refused ∧
      (a.toNat % 4 ≠ 0 → exec (.registerWrite a v) s = .next refused) ∧
      (a.toNat % 4 = 0 → s.regHeld a.toNat = true →
        exec (.registerWrite a v) s = .next { s with err := { s.err with ignored := min 65535 (s.err.ignored + 1) } }) ∧
      (a.toNat % 4 = 0 → s.regHeld a.toNat = false → regAt a.toNat = none → exec (.registerWrite a v) s = .next s))

/-- For every aligned address of a plain 32-bit register, or of TM_CTRL, TBL_LEARN or a ring's MOD word, that is not held,
every value and every state with a PCIe link: REGISTER_WRITE answers a next state in which each writable field of the register
holds the value's bits if its lock is open and its old value if not, LOCKED_WRITE is set exactly if it was or a locked field
would have changed, and nothing else changes, but that TM_CTRL notes its two enables for the next refill boundary, TBL_LEARN
settles what its ports may learn at the old rate, and a ring's moderation is judged anew, which changes nothing inside the
block. Plain: no bits of a command of their own (their rows are stated elsewhere), no W1C bit, no staging, no 64-bit half.
(R9, R10, R82, R147, R335) -/
def Obligations.WritesSetUnlockedFields : Prop :=
  ∀ (a : BitVec 24) (v : W32) (s : State) (r : Reg) (ix : List Nat),
    s.hif.linkUp = true → a.toNat % 4 = 0 → s.regHeld a.toNat = false → regAt a.toNat = some (r, ix) →
    r.plain = true ∨ r = .tmCtrl ∨ r = .tblLearn ∨ r = .hifRingMod →
    let jx := canonIx r ix
    let fs := r.fields (jx.getLastD 0)
    ∃ t, exec (.registerWrite a v) s = .next t ∧
      (∀ f ∈ fs, t.rf r jx f.lo f.width = if s.locked f.lock jx then s.rf r jx f.lo f.width else fld v.toNat f.lo f.width) ∧
      (t.err.lockedWrite = true ↔ s.err.lockedWrite = true ∨
        ∃ f ∈ fs, s.locked f.lock jx = true ∧ fld v.toNat f.lo f.width ≠ s.rf r jx f.lo f.width) ∧
      (∀ b, b ≠ r.addr jx → SMap.find t.regs b = SMap.find s.regs b) ∧
      (r.plain = true → t = { s with regs := t.regs, err := { s.err with lockedWrite := t.err.lockedWrite } }) ∧
      (r = .tmCtrl → t = { s with regs := t.regs, tmPend := t.tmPend, err := { s.err with lockedWrite := t.err.lockedWrite } } ∧
        (SMap.get t.tmPend (nthD ix 0 0) []).getLast? = some (bit v.toNat 0, bit v.toNat 1, s.time.free.toNat)) ∧
      (r = .tblLearn → t = { s with regs := t.regs, ports := t.ports, err := { s.err with lockedWrite := t.err.lockedWrite } }) ∧
      (r = .hifRingMod → t.inner = { s.inner with regs := t.regs })

/-- For the two halves of a 64-bit register that is not held, with a PCIe link: REG64_LOW_READ answers the low half and keeps
the high half in the shadow, and in that state REG64_HIGH_READ answers the high half as it stood at the low read and leaves no
shadow. With no shadow, REG64_HIGH_READ answers the present high half. Beside the shadow, the matching TIME_FRAC latch and the
reply nothing changes. (R8, R312) -/
def Obligations.SixtyFourBitReadsAreConsistent : Prop :=
  ∀ (lo hi : BitVec 24) (r : Reg) (ix : List Nat) (s : State),
    s.hif.linkUp = true → hi.toNat = lo.toNat + 4 → reg64At lo.toNat 0 = some (r, ix) → reg64At hi.toNat 1 = some (r, ix) →
    s.regHeld lo.toNat = false → s.regHeld hi.toNat = false →
    (∃ t u, exec (.reg64LowRead lo) s = .next t ∧ t.out.reply = .data ((s.readReg lo.toNat).setWidth 64) ∧
      t = { s with shadow := t.shadow, fracLatch := t.fracLatch, out := t.out } ∧
      exec (.reg64HighRead hi) t = .next u ∧ u.out.reply = .data ((s.readReg hi.toNat).setWidth 64) ∧
      SMap.find u.shadow lo.toNat = none ∧ u = { t with shadow := u.shadow, out := u.out }) ∧
    (SMap.find s.shadow lo.toNat = none →
      exec (.reg64HighRead hi) s = .next (s.reply (.data ((s.readReg hi.toNat).setWidth 64))))

/-- For the two halves of TIME_STEP, of BASE and WB of a disabled ring, and of SEC_RECOV_ADDR while recovery is open, with a
PCIe link: REG64_LOW_WRITE puts its value into staging and changes nothing else; in that state REG64_HIGH_WRITE makes the
64-bit register hold both values and leaves its low half unstaged; every other register word and every other staged half stay
as they were, and so does all else. Where no low half is staged, REG64_HIGH_WRITE keeps the low half that the register reads.
For BASE and WB of an enabled ring and for SEC_RECOV_ADDR outside recovery, both writes are ignored and counted (a half staged
before is dropped). For TIME_INCR the high write does with both halves what a write of INCR does. At an address that is not
such a half, of a register without RW halves, or of a held one, each write answers a next state that is at most counted as
ignored. (R8, R296, R318, R321, R349, R416) -/
def Obligations.SixtyFourBitWritesCommitTogether : Prop :=
  ∀ (lo hi : BitVec 24) (v w : W32) (s : State), s.hif.linkUp = true →
    let staged : State := { s with stage64 := SMap.put s.stage64 lo.toNat v }
    let unstaged (t : State) : State := { t with stage64 := SMap.erase t.stage64 lo.toNat }
    let ignored (t : State) : State := { t with err := { t.err with ignored := min 65535 (t.err.ignored + 1) } }
    let becomes (t : State) (r : Reg) (ix : List Nat) (low : Nat) : Prop :=
      ∃ u, exec (.reg64HighWrite hi w) t = .next u ∧ u.reg64 r ix = low + w.toNat * 2 ^ 32 ∧
        SMap.find u.stage64 lo.toNat = none ∧ (∀ b, b ≠ lo.toNat → SMap.find u.stage64 b = SMap.find t.stage64 b) ∧
        (∀ b, b ≠ r.addr (ix ++ [0]) → b ≠ r.addr (ix ++ [1]) → SMap.find u.regs b = SMap.find t.regs b) ∧
        u = { t with regs := u.regs, stage64 := u.stage64 }
    let commits (r : Reg) (ix : List Nat) : Prop :=
      exec (.reg64LowWrite lo v) s = .next staged ∧ becomes staged r ix v.toNat ∧
      (SMap.find s.stage64 lo.toNat = none → becomes s r ix (s.readReg lo.toNat).toNat)
    let ignores : Prop :=
      exec (.reg64LowWrite lo v) s = .next (ignored s) ∧ exec (.reg64HighWrite hi w) s = .next (ignored (unstaged s))
    (lo = 0x060020 → hi = 0x060024 → commits .timeStep []) ∧
    (lo = 0x060018 → hi = 0x06001C → exec (.reg64LowWrite lo v) s = .next staged ∧
      exec (.reg64HighWrite hi w) staged = .next ((unstaged staged).writeIncr (v.toNat + w.toNat * 2 ^ 32))) ∧
    (lo = 0x050010 → hi = 0x050014 →
      (s.sec.bootFail = true → commits .secRecovAddr []) ∧ (s.sec.bootFail = false → ignores)) ∧
    (∀ (r : Fin 34) (wb : Bool), lo.toNat = 0x041000 + 0x40 * r.val + (if wb then 8 else 0) → hi.toNat = lo.toNat + 4 →
      let reg : Reg := if wb then .hifRingWb else .hifRingBase
      ((s.ring r).enabled = false → commits reg [r.val]) ∧ ((s.ring r).enabled = true → ignores)) ∧
    (reg64At lo.toNat 0 = none → exec (.reg64LowWrite lo v) s = .next s) ∧
    (reg64At hi.toNat 1 = none → exec (.reg64HighWrite hi w) s = .next s) ∧
    ∀ (r : Reg) (ix : List Nat),
      (reg64At lo.toNat 0 = some (r, ix) → s.regHeld lo.toNat = true → exec (.reg64LowWrite lo v) s = .next (ignored s)) ∧
      (reg64At hi.toNat 1 = some (r, ix) → s.regHeld hi.toNat = true → exec (.reg64HighWrite hi w) s = .next (ignored s)) ∧
      (reg64At lo.toNat 0 = some (r, ix) → s.regHeld lo.toNat = false → writable64 r = false →
        exec (.reg64LowWrite lo v) s = .next s) ∧
      (reg64At hi.toNat 1 = some (r, ix) → s.regHeld hi.toNat = false → writable64 r = false →
        exec (.reg64HighWrite hi w) s = .next s)

/-- For every offset o and state with a PCIe link: an 8-byte BAR4_READ at a multiple of 8 answers the counter shown there and
changes nothing else. A 4-byte BAR4_READ there answers its low word and keeps the high word for its page, and in the state
that leaves, one at o + 4 answers the high word of the same value and consumes it. With no high word kept for the page, a
4-byte read at 4 beyond a multiple of 8 answers the high word of the counter as it stands. A read of any size but 4 and 8, and
one that is not a multiple of its size, is counted and answered Unsupported Request. BAR4_WRITE counts device counter 2 and
changes nothing else. Without a link neither has an effect or an answer. (R401, R403) -/
def Obligations.Bar4ShowsCounters : Prop :=
  ∀ (o : BitVec 18) (size : Nat) (s : State),
    let word (n : Nat) : Reply := .data (BitVec.ofNat 64 n)
    (s.hif.linkUp = false → exec (.bar4Read o size) s = .next (s.reply .noResponse) ∧
      exec (.bar4Write o) s = .next (s.reply .noResponse)) ∧
    (s.hif.linkUp = true →
      (o.toNat % 8 = 0 → exec (.bar4Read o 8) s = .next (s.reply (word (s.shown o.toNat)))) ∧
      (∀ p : BitVec 18, o.toNat % 8 = 0 → p.toNat = o.toNat + 4 →
        ∃ t u, exec (.bar4Read o 4) s = .next t ∧ t.out.reply = word (s.shown o.toNat % 2 ^ 32) ∧
          t = { s with pageShadow := t.pageShadow, out := { s.out with reply := t.out.reply } } ∧
          exec (.bar4Read p 4) t = .next u ∧ u.out.reply = word (s.shown o.toNat / 2 ^ 32) ∧
          SMap.find u.pageShadow (o.toNat / 4096) = none ∧
          (∀ k, k ≠ o.toNat / 4096 → SMap.find u.pageShadow k = SMap.find s.pageShadow k) ∧
          u = { s with pageShadow := u.pageShadow, out := { s.out with reply := u.out.reply } }) ∧
      (o.toNat % 8 = 4 → SMap.find s.pageShadow (o.toNat / 4096) = none →
        exec (.bar4Read o 4) s = .next (s.reply (word (s.shown o.toNat / 2 ^ 32)))) ∧
      ((size ≠ 4 ∧ size ≠ 8) ∨ o.toNat % size ≠ 0 → exec (.bar4Read o size) s = .next
        { s with err := { s.err with badAccess := min 65535 (s.err.badAccess + 1) }, out := { s.out with reply := .unsupported } }) ∧
      exec (.bar4Write o) s = .next (s.countDev 2))

/-- For every ring, value and state with a PCIe link: a misaligned doorbell, one of a disabled ring, and one whose count R322
does not accept change nothing but DB_BAD (saturating) and device counter 1. An accepted one sets PROD of a command ring, arms
the ring and changes nothing else; on another ring it sets CONS, keeps PROD (on the event ring PROD may grow by the
EVENTS_LOST entry), and changes nothing inside the block. A value equal to the count held changes nothing of the ring but its
interrupt's arming. A ring that RING_ENABLE enables has both counts 0 (but for an EVENTS_LOST entry). (R322) -/
def Obligations.DoorbellsAreJudged : Prop :=
  ∀ (r : Fin 34) (v : W32) (al : Bool) (s : State), s.hif.linkUp = true →
    let x := s.ring r
    let ok := al = true ∧ x.enabled = true ∧
      (if r.val < 16 then (v - x.prod).toNat < 2 ^ 31 ∧ (v - x.cons).toNat ≤ s.ringSize r
       else (v - x.cons).toNat ≤ (x.prod - x.cons).toNat)
    (¬ok → exec (.doorbell r v al) s =
      .next { s.countDev 1 with hif := { s.hif with dbBad := min 65535 (s.hif.dbBad + 1) } }) ∧
    (ok → r.val < 16 → exec (.doorbell r v al) s = .next (s.updRing r fun x => { x with prod := v, armed := true, timer := none })) ∧
    (ok → 16 ≤ r.val → ∃ t, exec (.doorbell r v al) s = .next t ∧ (t.ring r).cons = v ∧
      (r.val ≠ 32 → (t.ring r).prod = x.prod) ∧ t.inner = s.inner ∧ ∀ k, k ≠ r.val → t.ring k = s.ring k) ∧
    (ok → r.val ≠ 32 ∨ s.hif.eventsLost = 0 → v = (if r.val < 16 then x.prod else x.cons) → ∀ t, exec (.doorbell r v al) s = .next t →
      t.ring r = { x with armed := (t.ring r).armed, timer := (t.ring r).timer }) ∧
    (x.enabled = false → r.val ≠ 32 ∨ s.hif.eventsLost = 0 → ∀ t, exec (.ringEnable r) s = .next t → (t.ring r).enabled = true →
      (t.ring r).prod = 0 ∧ (t.ring r).cons = 0)

/-- For every ring and state with a PCIe link: RING_ENABLE of a disabled ring with a legal LOG2_SIZE, aligned BASE and WB and,
for a command ring, an enabled PAIR ring, enables it with CONS 0 (and PROD 0, but for an EVENTS_LOST entry), touches no other
ring and nothing inside the block, and writes eight zero bytes to WB while Bus Master Enable is 1. Otherwise the write is
ignored and counted. RING_DISABLE of an enabled ring clears ENABLE, unless it is a completion ring in use: then it is ignored
and counted. A write of the value ENABLE has changes nothing. (R318, R319, R321) -/
def Obligations.RingsAreEnabledAndDisabled : Prop :=
  ∀ (r : Fin 34) (s : State), s.hif.linkUp = true →
    let l := s.rf .hifRingCfg [r.val] 0 5
    let wb := s.reg64 .hifRingWb [r.val]
    let ok := 6 ≤ l ∧ l ≤ 16 ∧ s.reg64 .hifRingBase [r.val] % 4096 = 0 ∧ wb % 8 = 0 ∧
      (16 ≤ r.val ∨ (s.ring (s.pairRing r)).enabled = true)
    let ignored := Host.Outcome.next { s with err := { s.err with ignored := min 65535 (s.err.ignored + 1) } }
    ((s.ring r).enabled = false → ok → ∃ t, exec (.ringEnable r) s = .next t ∧ (t.ring r).enabled = true ∧ (t.ring r).cons = 0 ∧
      t.inner = s.inner ∧ (∀ k, k ≠ r.val → t.ring k = s.ring k) ∧
      (r.val ≠ 32 ∨ s.hif.eventsLost = 0 → (t.ring r).prod = 0 ∧ (s.hif.busMaster = true →
        ∀ i, i < 8 → SMap.find t.out.hostMem (wb + i) = some 0))) ∧
    ((s.ring r).enabled = false → ¬ok → exec (.ringEnable r) s = ignored) ∧
    ((s.ring r).enabled = true → exec (.ringEnable r) s = .next s) ∧
    ((s.ring r).enabled = false → exec (.ringDisable r) s = .next s) ∧
    ((s.ring r).enabled = true → s.ringBound r = true → exec (.ringDisable r) s = ignored) ∧
    ((s.ring r).enabled = true → s.ringBound r = false →
      exec (.ringDisable r) s = .next (s.updRing r fun x => { x with enabled := false, stalled := false, heldDesc := none }))

/-- For every command ring whose turn it is, with the firmware ready and Bus Master Enable 1: while the paired ring lacks room
for the command's completions, the ring stalls and holds the content read, and nothing else changes but the turn. With room,
CONS advances, the room is reserved, nothing inside the block changes, and the command joins the fetched ones with the fields
of its descriptor and its paired completion ring; a descriptor that R324 ends has left its ring again. A ring whose turn it is
not fetches nothing. (R320, R324, R328) -/
def Obligations.DescriptorsAreFetchedInTurn : Prop :=
  ∀ (c : CmdRing) (raw : List Byte) (s : State),
    let x := s.ring c.toNat
    let d := x.heldDesc.getD (padTo 64 (raw.take 64))
    let n := if leAt d 0 1 = 0x10 then 2 else 1
    let f : Fetched := { index := x.cons, era := x.era, opcode := BitVec.ofNat 8 (leAt d 0 1), serial := bit (leAt d 1 1) 0,
                         irqNow := bit (leAt d 1 1) 1, tag := BitVec.ofNat 32 (leAt d 4 4), bytes := d, reserved := n,
                         pair := s.pairRing c.toNat }
    (16 ≤ f.pair ∧ f.pair < 32) ∧
    (s.fetchTurn ≠ some c.toNat → exec (.descriptorFetch c raw) s = .next s) ∧
    (s.fetchTurn = some c.toNat → s.hif.fwReady = true → s.hif.busMaster = true →
      (s.pairRoom c.toNat n = false → exec (.descriptorFetch c raw) s = .next
        (State.updRing { s with hif := { s.hif with lastFetch := c } } c.toNat fun x => { x with stalled := true, heldDesc := some d })) ∧
      (s.pairRoom c.toNat n = true → ∃ t, exec (.descriptorFetch c raw) s = .next t ∧ t.inner = s.inner ∧
        (t.ring c.toNat).cons = x.cons + 1 ∧ (t.ring c.toNat).stalled = false ∧ (t.ring c.toNat).heldDesc = none ∧
        t.hif.lastFetch = c ∧
        (descriptorOk d = true → (t.ring c.toNat).cmds = x.cmds ++ [f] ∧
          (t.ring (s.pairRing c.toNat)).reservedHere = (s.ring (s.pairRing c.toNat)).reservedHere + n) ∧
        (descriptorOk d = false → t.cmdOf ⟨c, x.cons, x.era⟩ = none)))

/-- For an outstanding command whose paired ring, named when it was fetched, is a completion ring, every status, MORE flag and
result of at most 16 bytes, with an enabled paired ring whose BASE is aligned and whose write-back lies apart from the entry,
and Bus Master Enable 1: the completion is 32 bytes at a multiple of 32, BASE + (PROD mod size) × 32; it holds RESULT with
zeros behind it, TAG, STATUS, RING, FLAGS with MORE alone, INDEX and four zero bytes. PROD advances by 1, the room is
returned, the command leaves its ring unless MORE is set, and nothing inside the block changes. A NOP that ring c offers does
exactly this, with SUCCESS and no result. (R325) -/
def Obligations.CompletionsAreWrittenAsLaidOut : Prop :=
  ∀ (ref : CmdRef) (st : Status) (more : Bool) (result : List Byte) (s : State) (f : Fetched),
    let p := f.pair
    let base := s.reg64 .hifRingBase [p]
    let a := base + (s.ring p).prod.toNat % s.ringSize p * 32
    let wb := s.reg64 .hifRingWb [p]
    let t := s.completeAs ref st more result
    let e := completionBytes ref f.tag st more result
    (s.cmdOf ref = some f → f.mute = false → 16 ≤ p → p < 32 → (s.ring p).enabled = true → s.hif.busMaster = true → result.length ≤ 16 →
      base % 4096 = 0 → (wb + 8 ≤ a ∨ a + 32 ≤ wb) →
      a % 32 = 0 ∧ e.length = 32 ∧ e.take result.length = result ∧ (∀ i, result.length ≤ i → i < 16 → e[i]? = some 0) ∧
      leAt e 16 4 = f.tag.toNat ∧ leAt e 20 2 = st.code ∧ leAt e 22 1 = ref.ring.toNat ∧ leAt e 23 1 = (if more then 1 else 0) ∧
      leAt e 24 4 = ref.index.toNat ∧ leAt e 28 4 = 0 ∧
      (∀ i, i < 32 → SMap.find t.out.hostMem (a + i) = e[i]?) ∧ (t.ring p).prod = (s.ring p).prod + 1 ∧
      (t.ring p).reservedHere = (s.ring p).reservedHere - (if more then 1 else f.reserved) ∧
      ((t.cmdOf ref).isSome = true ↔ more = true) ∧ t.inner = s.inner) ∧
    (∀ c g, s.offers c g 0x00 → exec (.nop c) s = .next ((s.started c g).completeAs (cmdName c g) .success false []))

/-- For every state: WRITE_BACK_TIMER of an enabled ring whose count has changed, with Bus Master Enable 1, writes the count
and four zero bytes to WB. INTERRUPT_TIMER of an armed ring whose timer runs disarms it and sends its vector, or sets the
vector's PBA bit while it is masked or Bus Master Enable or the MSI-X enable is 0. MSIX_UNMASK puts the address and data of
the vector's table entry in place, clears its mask bit, and sends a pending vector's message with them while both enables are
1, clearing its PBA bit (that this row writes the entry, and that BUS_MASTER_ENABLE sets the MSI-X enable too, is the model's
reading, log 10, PRESUMED). BUS_MASTER_ENABLE leaves no unmasked vector pending and no entry, write or GO waiting. None of
them changes anything inside the block, but for a GO that waited. (R315, R317, R319, R335, R450) -/
def Obligations.WriteBacksAndInterruptsFallDue : Prop :=
  ∀ s : State,
    (∀ r : Fin 34, let x := s.ring r
      let n := if r.val < 16 then x.cons else x.prod
      x.enabled = true → (n ≠ x.wbCount ∨ x.wbDue = true) → s.hif.busMaster = true →
      ∃ t, exec (.writeBackTimer r) s = .next t ∧ (t.ring r).wbCount = n ∧ (t.ring r).wbDue = false ∧ t.inner = s.inner ∧
        ∀ i, i < 8 → SMap.find t.out.hostMem (s.reg64 .hifRingWb [r.val] + i) = (leBytes 4 n.toNat ++ [0, 0, 0, 0])[i]?) ∧
    (∀ r : Fin 34, (s.ring r).armed = true → (s.ring r).timer.isSome = true → s.rf .hifRingMod [r.val] 0 16 ≠ 0 →
      let v := s.rf .hifRingCfg [r.val] 12 6
      ∃ t, exec (.interruptTimer r) s = .next t ∧ (t.ring r).armed = false ∧ (t.ring r).timer = none ∧ t.inner = s.inner ∧
        (if s.hif.busMaster = true ∧ s.hif.msixEn = true ∧ s.hif.mask.getLsbD v = false then t.out.msi = (BitVec.ofNat 6 v, SMap.get s.hif.msix v (0, 0)) :: s.out.msi ∧ t.hif = s.hif
         else t.out = s.out ∧ t.hif.pba.getLsbD v = true)) ∧
    (s.hif.linkUp = true → ∀ (v : BitVec 6) (addr : W64) (data : W32), ∃ t, exec (.msixUnmask ⟨v, addr, data⟩) s = .next t ∧
      t.hif.mask.getLsbD v.toNat = false ∧ SMap.get t.hif.msix v.toNat (0, 0) = (addr, data) ∧ t.inner = s.inner ∧
      (s.hif.pba.getLsbD v.toNat = true → s.hif.busMaster = true → s.hif.msixEn = true →
        t.out.msi = (v, addr, data) :: s.out.msi ∧ t.hif.pba.getLsbD v.toNat = false)) ∧
    (s.hif.linkUp = true → ∃ t, exec .busMasterEnable s = .next t ∧ t.hif.busMaster = true ∧ t.hif.msixEn = true ∧
      t.hif.waitEntries = [] ∧ t.hif.waitWrites = [] ∧ t.hif.waitGo = none ∧ (s.hif.waitGo = none → t.inner = s.inner) ∧
      ∀ v, v < 64 → t.hif.pba.getLsbD v = true → t.hif.mask.getLsbD v = true)

/-- For every state with a PCIe link: STEP_GO with STEP_OK 0 is ignored and counted. With STEP_OK 1 it adds TIME_STEP to
TIME_NS modulo 2^64, clears STEP_OK, sets PPS_OUT_SKIP if the whole second changed, leaves every other part of the time unit
(FREE, OFFSETs, INCR) as it was, and removes exactly the pending launches whose time it has passed. STEP_REARM sets STEP_OK
and nothing else while no port is armed, and is else ignored and counted. One write of TIME_CTRL that sets both, with STEP_OK
1 and no port armed, steps the time and leaves STEP_OK 1: STEP_GO is judged first. (R296, R297, R311) -/
def Obligations.TimeIsSteppedOnce : Prop :=
  ∀ s : State, s.hif.linkUp = true →
    let ns := s.time.ns + BitVec.ofNat 64 (s.reg64 .timeStep [])
    let ignored := Host.Outcome.next { s with err := { s.err with ignored := min 65535 (s.err.ignored + 1) } }
    (s.time.stepOk = false → exec .stepGo s = ignored) ∧
    (s.time.stepOk = true → ∃ t, exec .stepGo s = .next t ∧
      t.time = { s.time with ns := ns, stepOk := false, ppsDue := false,
                             ppsSkip := s.time.ppsSkip || decide (s.time.ns.toNat / 10 ^ 9 ≠ ns.toNat / 10 ^ 9) } ∧
      t.launches = s.launches.filter (fun l => decide (ns.toNat ≤ l.t)) ∧
      t.inner = { s.inner with time := t.time, launches := t.launches }) ∧
    (s.anyArmed = true → exec .stepRearm s = ignored) ∧
    (s.anyArmed = false → exec .stepRearm s = .next { s with time := { s.time with stepOk := true } }) ∧
    (∀ (a : BitVec 24) (v : W32), a.toNat % 4 = 0 → regAt a.toNat = some (.timeCtrl, []) → s.regHeld a.toNat = false →
      bit v.toNat 5 = true → bit v.toNat 6 = true → s.time.stepOk = true → s.anyArmed = false →
      ∃ t, exec (.registerWrite a v) s = .next t ∧ t.time.ns = ns ∧ t.time.stepOk = true)

/-- For every state: TIME_INCR_WRITE of v over a PCIe link with SERVO_EN 0 puts v (its low 33 bits) into force inside
0xFFC00000 to 0x100400000, else the nearer limit and INCR_CLAMPED, and changes nothing else. With SERVO_EN 1 the write is
ignored and counted in the ERR block and in device counter 3. SERVO_APPLY of a staged INCR with SERVO_EN 1 and the firmware
ready puts it into force in the same way and nothing stays staged; with SERVO_EN 0 or the firmware not ready the staged INCR
is gone with no effect. (R294, R298, R302) -/
def Obligations.IncrementsAreHeldInRange : Prop :=
  ∀ s : State,
    let put (v : Nat) (x : TimeSt) : TimeSt :=
      if v < 0xFFC00000 then { x with incr := 0xFFC00000, clamped := true }
      else if 0x100400000 < v then { x with incr := 0x100400000, clamped := true }
      else { x with incr := BitVec.ofNat 64 v }
    (∀ v : W64, s.hif.linkUp = true → s.rb .timeCtrl [] 2 = false →
      exec (.timeIncrWrite v) s = .next { s with time := put (v.toNat % 2 ^ 33) s.time }) ∧
    (∀ v : W64, s.hif.linkUp = true → s.rb .timeCtrl [] 2 = true →
      exec (.timeIncrWrite v) s = .next
        (State.countDev { s with err := { s.err with ignored := min 65535 (s.err.ignored + 1) } } 3)) ∧
    (∀ at_ v, s.time.staged = some (at_, v) → s.rb .timeCtrl [] 2 = true → s.hif.fwReady = true →
      exec .servoApply s = .next { s with time := { put v.toNat s.time with staged := none } }) ∧
    (s.time.staged = none ∨ s.rb .timeCtrl [] 2 = false ∨ s.hif.fwReady = false →
      exec .servoApply s = .next { s with time := { s.time with staged := none } })

/-- For either domain and every state: an edge in ABSENT or LOST starts ACQUIRING with GOOD 1 at the present FREE. In
ACQUIRING an edge outside the windows of n = 1 and n = 2 whole seconds of cycles after the last accepted one is counted as
rejected and starts GOOD at 1 again; one inside a window raises GOOD, and GOOD 4 makes the domain VALID. A rejected edge of a
VALID domain is counted and changes nothing else. After the time-out ACQUIRING becomes ABSENT and VALID becomes LOST; where
the other domain is VALID and AUTO_SW is 1, losing the active domain switches ACTIVE to it and sets SWITCHING, and else sets
HOLDOVER; what the servo had staged is gone. (R299, R300, R303) -/
def Obligations.DomainsFollowTheirEdges : Prop :=
  ∀ (d : BitVec 1) (s : State),
    let x := s.dom d
    let now := s.time.free.toNat
    let near (last : Nat) : Prop := (10 ^ 9 - 200000 ≤ now - last ∧ now - last ≤ 10 ^ 9 + 200000) ∨
      (2 * 10 ^ 9 - 400000 ≤ now - last ∧ now - last ≤ 2 * 10 ^ 9 + 400000)
    (x.state = .absent ∨ x.state = .lost → ∃ t, exec (.ppsEdge d) s = .next t ∧ (t.dom d).state = .acquiring ∧
      (t.dom d).good = 1 ∧ (t.dom d).lastFree = some now ∧ t.dom (d + 1) = s.dom (d + 1)) ∧
    (∀ last, x.lastFree = some last → x.state = .acquiring → ¬ near last → ∃ t, exec (.ppsEdge d) s = .next t ∧
      (t.dom d).state = .acquiring ∧ (t.dom d).good = 1 ∧ (t.dom d).lastFree = some now ∧
      (t.dom d).rejected = min 65535 (x.rejected + 1)) ∧
    (∀ last, x.lastFree = some last → x.state = .acquiring → near last → ∃ t, exec (.ppsEdge d) s = .next t ∧
      (t.dom d).good = x.good + 1 ∧ (t.dom d).state = (if x.good + 1 = 4 then .valid else .acquiring) ∧
      (t.dom d).lastFree = some now ∧ (t.dom d).accepted = x.accepted + 1) ∧
    (∀ last, x.lastFree = some last → x.state = .valid → ¬ near last → ∃ t, exec (.ppsEdge d) s = .next t ∧
      t.dom d = { x with rejected := min 65535 (x.rejected + 1) } ∧ t.time.staged = s.time.staged) ∧
    (x.state = .acquiring → ∃ t, exec (.domainEdgeTimeout d) s = .next t ∧ (t.dom d).state = .absent) ∧
    (x.state = .valid → ∃ t, exec (.domainEdgeTimeout d) s = .next t ∧ (t.dom d).state = .lost ∧
      (d = s.activeDom → s.rb .timeCtrl [] 1 = true → (s.dom (d + 1)).state = .valid →
        t.activeDom = d + 1 ∧ t.time.switching = true ∧ t.time.incr = s.time.incr ∧ t.time.staged = none) ∧
      (d = s.activeDom → (s.rb .timeCtrl [] 1 = false ∨ (s.dom (d + 1)).state ≠ .valid) → t.time.holdover = true ∧
        t.time.staged = none))

/-- For either VALID domain whose last edge lies one whole second of cycles back (n = 1): PPS_EDGE captures TIME_NS and the
top three bits of TIME_FRAC, and reports OFFSET, which is the captured time's distance from a whole second and lies in (-0.5
s, +0.5 s]. If the domain is active, HOLDOVER clears and ACTIVE_NOW names it; with SERVO_EN 1 and the firmware ready an INCR
inside its range is staged for FREE + 2^24 and the INCR in force stays. Otherwise nothing is staged anew. (R299, R301, R302,
R303) -/
def Obligations.ValidEdgesReportOffsetAndServe : Prop :=
  ∀ (d : BitVec 1) (s : State) (last : Nat), (s.dom d).state = .valid → (s.dom d).lastFree = some last →
    10 ^ 9 - 200000 ≤ s.time.free.toNat - last → s.time.free.toNat - last ≤ 10 ^ 9 + 200000 →
    let sec : Int := 10 ^ 9 * 2 ^ 32
    let cap : Int := s.time.ns.toNat * 2 ^ 32 + (s.time.frac.toNat / 2 ^ 29 * 2 ^ 29 : Nat)
    ∃ t, exec (.ppsEdge d) s = .next t ∧ (t.dom d).capNs = s.time.ns ∧
      (t.dom d).capFrac = BitVec.ofNat 32 (s.time.frac.toNat / 2 ^ 29 * 2 ^ 29) ∧
      (∃ k : Int, cap - (t.dom d).offset = k * sec) ∧ -sec < 2 * (t.dom d).offset ∧ 2 * (t.dom d).offset ≤ sec ∧
      (t.dom d).state = .valid ∧ t.time.incr = s.time.incr ∧
      (d = s.activeDom → t.time.holdover = false ∧ t.time.activeNow = d) ∧
      (d = s.activeDom → s.rb .timeCtrl [] 2 = true → s.hif.fwReady = true →
        ∃ v : W64, t.time.staged = some (s.time.free.toNat + 2 ^ 24, v) ∧ 0xFFC00000 ≤ v.toNat ∧ v.toNat ≤ 0x100400000) ∧
      (d ≠ s.activeDom ∨ s.rb .timeCtrl [] 2 = false → t.time.staged = s.time.staged)

/-- For every state: SNAP over a PCIe link copies TIME_NS, TIME_FRAC and FREE into the snapshot and changes nothing else.
ACTIVE_WRITE of the domain that is not active makes it ACTIVE and sets SWITCHING, drops a staged INCR, and sets HOLDOVER where
that domain is not VALID; INCR and device time stay; one of the active domain changes nothing. A CLK_TIME cycle notes a
crossing exactly where TIME_NS passes a whole second plus OUT_OFFSET_NS. With PPS_OUT_EN 1 a crossing noted drives PPS_OUT
high; with 0, or with none, nothing changes. The end of the pulse drives PPS_OUT low once WIDTH_US microseconds (1 to 999,999)
have passed, and not before. (R302, R303, R304, R308) -/
def Obligations.TimeIsCapturedAndShown : Prop :=
  ∀ s : State,
    (s.hif.linkUp = true → exec .snap s = .next
      { s with time := { s.time with snapNs := s.time.ns, snapFrac := s.time.frac, snapFree := s.time.free } }) ∧
    (∀ d : BitVec 1, s.hif.linkUp = true → d ≠ s.activeDom → ∃ t, exec (.activeWrite d) s = .next t ∧ t.activeDom = d ∧
      t.time = { s.time with switching := true, staged := none
                             holdover := s.time.holdover || decide ((s.dom d).state ≠ .valid) } ∧
      t = { s with time := t.time, regs := t.regs }) ∧
    (s.hif.linkUp = true → exec (.activeWrite s.activeDom) s = .next s) ∧
    (let offset := min 999999999 (s.rf .timePpsout [] 0 30)
     let crossings (ns : Nat) : Nat := (ns + 10 ^ 9 - offset) / 10 ^ 9
     s.timeCycle.time.ppsDue = true ↔ crossings s.time.ns.toNat < crossings s.timeCycle.time.ns.toNat) ∧
    (s.rb .timeCtrl [] 3 = true → s.time.ppsDue = true → ∃ t, exec .ppsOutCrossing s = .next t ∧ t.ppsOut = true ∧
      t.time.ppsSince = s.time.free.toNat ∧ t = { s with time := t.time }) ∧
    (s.rb .timeCtrl [] 3 = false ∨ s.time.ppsDue = false → exec .ppsOutCrossing s = .next s) ∧
    (let width := 1000 * min 999999 (max 1 (s.rf .timePpsw [] 0 20))
     (width ≤ s.time.free.toNat - s.time.ppsSince →
       exec .ppsOutPulseEnd s = .next { s with time := { s.time with ppsHigh := false } }) ∧
     (s.time.free.toNat - s.time.ppsSince < width → exec .ppsOutPulseEnd s = .next s))

/-- SCHED_LAUNCH offered on a ring for an armed port that is not held, with T from 5 µs to 1 s ahead, a legal length, a frame
without a fence, a free slot and no overlap adds one pending launch and changes nothing else. LAUNCH_TIME of the next pending
launch of a port: where the port is down or its light is not allowed, the launch is missed with cause 1; where it lacks
credits, with cause 2; else the frame is the newest on the fibre, with the port's next LSN and its VC, and the command
completes with the device time at the connector face, the present one plus TX_LAT. (R305, R309, R310, R311) -/
def Obligations.LaunchesAreSentOrMissed : Prop :=
  (∀ (c : CmdRing) (g : Fetched) (b : List Byte) (s : State), s.offers c g 0x30 →
    let d := g.bytes
    let p := leAt d 8 2
    let n := leAt d 10 2
    let t := leAt d 16 8
    let frame := padTo n (b.take n)
    let rate := 200 * (if widthLanes (s.port p).width = 0 then s.portSpeed p else widthLanes (s.port p).width)
    p < 1024 → s.portDown p = false → (s.port p).armed = true → s.time.ns.toNat + 5000 ≤ t → t ≤ s.time.ns.toNat + 10 ^ 9 →
    60 ≤ n → n ≤ 9212 → (s.isOvdu (p / 256) frame && oFence frame) = false →
    (s.launches.filter fun x => decide (x.port / 256 = p / 256)).length < 256 →
    (∀ m ∈ s.launches, m.port = p → launchMeets rate t frame m = false) →
    exec (.schedLaunch c (some b)) s = .next
      { s.started c g with launches := s.launches ++ [{ port := p, t := t, bytes := frame, cmd := cmdName c g }] }) ∧
  ∀ (p : Port) (l : Launch) (s : State), s.nextLaunch p.toNat = some l →
    let x := s.port p.toNat
    let vc := s.outVc p.toNat l.bytes
    (x.up = false ∨ s.txAllowed p.toNat = false → exec (.launchTime p) s = .next (s.launchMissed l 1)) ∧
    (x.up = true → s.txAllowed p.toNat = true → x.widthPend = [] → x.widthAt = [] → x.widthIn = [] →
      (s.creditsFor p.toNat vc (frameCells l.bytes) = false → exec (.launchTime p) s = .next (s.launchMissed l 2)) ∧
      (s.creditsFor p.toNat vc (frameCells l.bytes) = true → ∃ t fr rest, exec (.launchTime p) s = .next t ∧
        t.out.tx = fr :: rest ∧ fr.port = p.toNat ∧ fr.lsn = x.lsnNext ∧ fr.vc = vc ∧ fr.replay = false ∧ fr.fcsOk = true ∧
        fr.pre = preamble x.lsnNext false false vc (frameCells l.bytes) ∧
        (t.port p.toNat).lsnNext = x.lsnNext + 1 ∧ t.launches = s.launches.filter (fun k => decide (k ≠ l)) ∧
        ∃ u : State, u.inner = t.inner ∧
          t = u.complete l.cmd .success (leBytes 8 ((s.time96 + x.txLat.toNat * 2 ^ 28) % 2 ^ 96 / 2 ^ 32))))

/-- For a PORT_ARM or PORT_DISARM that a ring offers: a port number of 1,024 or more is refused RANGE, a held port STATE.
PORT_ARM in P1 to P3 is refused STATE; of an armed port it succeeds with no change (these two, the repeated PORT_DISARM and
the order of the causes are the model's reading, log 20, DEDUCED); in RETURNED it is refused STATE unless the fibre is looped;
else the first cause that the arming checks find refuses it, and with none the port is armed and, where its light is allowed,
starts training at step 1, while every other port keeps its state and nothing else inside the block changes. PORT_DISARM of an
unarmed port succeeds with no change; of an armed one it leaves the port unarmed, down and healthy, and misses every launch
pending on it. (R3, R9, R124, R242, R265, R311, R326, R332, R361, R394, R427) -/
def Obligations.PortsAreArmedAndDisarmed : Prop :=
  ∀ (c : CmdRing) (g : Fetched) (s : State),
    let p := leAt g.bytes 8 2
    let t := s.started c g
    let ref := cmdName c g
    (s.offers c g 0x01 →
      (1024 ≤ p → exec (.portArm c) s = .next (t.refuse ref .range p)) ∧
      (p < 1024 → s.portDown p = true ∨ s.pwr.state ≠ 0 → exec (.portArm c) s = .next (t.refuse ref .state p)) ∧
      (p < 1024 → s.portDown p = false → s.pwr.state = 0 → s.pwr.transition = none →
        ((s.port p).armed = true → exec (.portArm c) s = .next (t.succeed ref)) ∧
        ((s.port p).armed = false → s.sec.lcState = 3 → s.fibreLooped (p / 4) = false →
          exec (.portArm c) s = .next (t.refuse ref .state p)) ∧
        ((s.port p).armed = false → s.sec.lcState ≠ 3 ∨ s.fibreLooped (p / 4) = true →
          (∀ k, s.armBad p = some k → exec (.portArm c) s = .next (t.refuse ref k p)) ∧
          (s.armBad p = none → ∃ u : State, exec (.portArm c) s = .next (u.succeed ref) ∧ (u.port p).armed = true ∧
            (u.txAllowed p = true → (u.port p).up = true ∨ (u.port p).trainStep ≠ 0) ∧
            (∀ k, k ≠ p → u.port k = s.port k) ∧ u = { t with ports := u.ports })))) ∧
    (s.offers c g 0x02 →
      (1024 ≤ p → exec (.portDisarm c) s = .next (t.refuse ref .range p)) ∧
      (p < 1024 → s.portDown p = true → exec (.portDisarm c) s = .next (t.refuse ref .state p)) ∧
      (p < 1024 → s.portDown p = false → (s.port p).armed = false → exec (.portDisarm c) s = .next (t.succeed ref)) ∧
      (p < 1024 → s.portDown p = false → (s.port p).armed = true → ∃ u : State, exec (.portDisarm c) s = .next (u.succeed ref) ∧
        (u.port p).armed = false ∧ (u.port p).up = false ∧ (u.port p).hd = 0 ∧ (u.port p).hstate = .healthy ∧
        u.launches = s.launches.filter fun l => decide (l.port ≠ p)))

/-- For every port and state: in step 4 a TRAIN frame of another mode or k resets the agreement and is noted, and one that
agrees with the last raises it to at most 3. Step 1 ends when the port's rings are LOCKED or RETIRED, steps 2 and 3 when every
lane that has light is recovered (at once with none); step 4 ends only with three agreeing frames and a width of at least one
lane, which is the AND of the two masks, and all counts of R51 and the LSN then stand at 0. The end of step 5 brings the port
up and sets RETRY_ON exactly for a loop of at most 1,100 ns, and tells the other quadrants of the change of active lists.
TRAINING_TIMEOUT counts counter 15 of the port, and a mismatch of mode or k as a cause of its own, and training starts again
where the light is allowed. (R51, R91, R246, R247, R248, R278) -/
def Obligations.PortsTrainInOrder : Prop :=
  ∀ (p : Port) (s : State),
    let n := p.toNat
    let x := s.port n
    let put (f : PortSt → PortSt) : Host.Outcome State Fault Refusal := .next (s.updPort n f)
    (∀ t : TrainInfo, x.trainStep = 4 →
      ((t.mode.toNat ≠ s.fibreMode (n / 4) ∨ t.k.toNat ≠ n % 4) →
        exec (.trainFrameReceive p t) s = put fun x => { x with partnerCount := t.count, trainBad := true, trainAgree := 0 }) ∧
      (t.mode.toNat = s.fibreMode (n / 4) → t.k.toNat = n % 4 →
        exec (.trainFrameReceive p t) s = put fun x =>
          { x with partnerCount := t.count, partnerMask := t.mask, trainBad := false,
                   trainAgree := if t.mask = x.partnerMask ∧ x.trainAgree ≠ 0 then min 3 (x.trainAgree + 1) else 1 })) ∧
    (∀ t : TrainInfo, x.trainStep < 4 → exec (.trainFrameReceive p t) s = .next s) ∧
    (∀ t : TrainInfo, x.trainStep = 5 → exec (.trainFrameReceive p t) s = put fun x => { x with partnerCount := t.count }) ∧
    (∀ o : TrainObs,
      (x.trainStep = 0 → exec (.trainingStepComplete p o) s = .next s) ∧
      (x.trainStep = 1 → s.ringsReady n = true →
        exec (.trainingStepComplete p o) s = put fun x => { x with trainStep := 2, trainAgree := 0 }) ∧
      (x.trainStep = 1 → s.ringsReady n = false → exec (.trainingStepComplete p o) s = .next s) ∧
      (x.trainStep = 2 ∨ x.trainStep = 3 →
        exec (.trainingStepComplete p o) s = if s.litLanes n &&& ~~~o.lanes = 0 then
          put fun y => { y with trainStep := x.trainStep + 1, trainAgree := 0 } else .next s) ∧
      (x.trainStep = 4 → x.trainAgree < 3 ∨ s.laneMask n &&& x.partnerMask = 0 →
        exec (.trainingStepComplete p o) s = .next s) ∧
      (x.trainStep = 4 → 3 ≤ x.trainAgree → s.laneMask n &&& x.partnerMask ≠ 0 → ∃ t,
        exec (.trainingStepComplete p o) s = .next t ∧ t = { s with ports := t.ports } ∧
        (t.port n).trainStep = 5 ∧ (t.port n).width = s.laneMask n &&& x.partnerMask ∧ (t.port n).lsnNext = 0 ∧
        (t.port n).lsnExpect = 0 ∧ (t.port n).sent = [0, 0, 0, 0, 0, 0] ∧ (t.port n).freed = [0, 0, 0, 0, 0, 0] ∧
        (t.port n).limitHeld = [0, 0, 0, 0, 0, 0] ∧ ∀ k, k ≠ n → t.port k = s.port k) ∧
      (x.trainStep = 5 → ∃ t, exec (.trainingStepComplete p o) s = .next t ∧ (t.port n).up = true ∧
        (t.port n).trainStep = 0 ∧ (t.port n).retryOn = decide (o.loopNs ≤ 1100) ∧ (t.port n).width = x.width ∧
        t.inner = { s.inner with ports := t.ports, dirs := t.dirs } ∧ (∀ k, k ≠ n → t.port k = s.port k) ∧
        ∀ y, y < 4 → y ≠ n / 256 → bit s.rst.quadInReset.toNat y = false →
          (t.dir (n / 256) y).outMsgs = (s.dir (n / 256) y).outMsgs ++ [.notice])) ∧
    (x.trainStep = 0 → exec (.trainingTimeout p) s = .next s) ∧
    (x.trainStep ≠ 0 → x.up = false → ∃ t, exec (.trainingTimeout p) s = .next t ∧
      t.ctr n 15 = (s.countPort n 15).ctr n 15 ∧ (t.port n).trainStep = (if s.txAllowed n then 1 else 0) ∧
      (t.port n).mismatches = (if x.trainBad then x.mismatches + 1 else x.mismatches) ∧
      t.inner = { s.inner with ports := t.ports })

/-- For every port and state: PORT_DOWN of a port that is not up changes nothing. Of an up port it clears UP and the width,
empties its retry buffer, adds 1,000 to the penalty (at most 12,000; the model keeps it in units of 2^-32), suppresses the
port exactly if DAMP_EN is 1 and the penalty is 3,000 or more (or it was), and starts training where the light is allowed.
FLAP_EVALUATION raises no penalty; a suppressed port stays suppressed exactly while its penalty is above 750 and DAMP_EN is 1,
no port becomes suppressed, and one whose suppression ends trains where its light is allowed. (R123, R250, R252) -/
def Obligations.UpPortsGoDownAndAreDamped : Prop :=
  ∀ s : State,
    (∀ (p : Port) (why : DownCause),
      let n := p.toNat
      let x := s.port n
      (x.up = false → exec (.portDown p why) s = .next s) ∧
      (x.up = true → ∃ t, exec (.portDown p why) s = .next t ∧ (t.port n).up = false ∧ (t.port n).width = 0 ∧
        (t.port n).retryBuf = [] ∧ (t.port n).armed = x.armed ∧ (t.port n).penalty = min (12000 * 2 ^ 32) (x.penalty + 1000 * 2 ^ 32) ∧
        ((t.port n).suppressed = true ↔
          x.suppressed = true ∨ (s.rb .oeDamp [n / 64] 16 = true ∧ 3000 * 2 ^ 32 ≤ (t.port n).penalty)) ∧
        (t.port n).trainStep = (if t.txAllowed n then 1 else 0) ∧ t.launches = s.launches)) ∧
    ∃ t, exec .flapEvaluation s = .next t ∧ t = { s with ports := t.ports } ∧ ∀ p,
      (t.port p).penalty ≤ (s.port p).penalty ∧ (t.port p).up = (s.port p).up ∧
      ((t.port p).suppressed = true ↔
        (s.port p).suppressed = true ∧ 750 * 2 ^ 32 < (t.port p).penalty ∧ s.rb .oeDamp [p / 64] 16 = true) ∧
      ((s.port p).suppressed = true → (t.port p).suppressed = false → t.txAllowed p = true →
        (t.port p).up = true ∨ (t.port p).trainStep ≠ 0)

/-- For every up port: a WIDTH frame that leaves lanes is kept with its LSN and a WIDTH_ACK that repeats both is queued;
nothing else changes. WIDTH_ACK with the mask and the LSN of a change that the port asked for makes that change wait for its
LSN; any other changes nothing. WIDTH_ACK_TIMEOUT of a port that waits for one takes the port down and starts training where
the light is allowed, and adds nothing to its penalty; of any other port it changes nothing. (R251) -/
def Obligations.WidthsChangeByAgreement : Prop :=
  ∀ (p : Port) (s : State),
    let n := p.toNat
    let x := s.port n
    (∀ m l, x.up = true → m &&& x.width ≠ 0 → exec (.widthReceive p m l) s = .next (s.updPort n fun x =>
      { x with widthIn := x.widthIn ++ [(m &&& x.width, l)], ctl := x.ctl ++ [.widthAck (m &&& x.width) l] })) ∧
    (∀ m l, x.up = false ∨ m &&& x.width = 0 → exec (.widthReceive p m l) s = .next s) ∧
    (∀ m l, (∃ w ∈ x.widthPend, w.1 = m ∧ w.2.1 = l) → ∃ t, exec (.widthAckReceive p m l) s = .next t ∧
      t = s.updPort n (fun x => { x with widthPend := (t.port n).widthPend, widthAt := x.widthAt ++ [(m, l)] }) ∧
      (t.port n).widthPend.Sublist x.widthPend ∧ ∀ w ∈ x.widthPend, w ∈ (t.port n).widthPend ↔ ¬(w.1 = m ∧ w.2.1 = l)) ∧
    (∀ m l, (∀ w ∈ x.widthPend, w.1 ≠ m ∨ w.2.1 ≠ l) → exec (.widthAckReceive p m l) s = .next s) ∧
    (x.widthPend = [] → exec (.widthAckTimeout p) s = .next s) ∧
    (x.widthPend ≠ [] → ∃ t, exec (.widthAckTimeout p) s = .next t ∧ (t.port n).up = false ∧ (t.port n).widthPend = [] ∧
      (t.port n).penalty = x.penalty ∧ (t.port n).suppressed = x.suppressed ∧
      (t.port n).trainStep = (if t.txAllowed n then 1 else 0))

/-- For every up port: a credit frame takes each of the six limits exactly where it is ahead of the one held, and notes the
sign of life. With RETRY_ON, RETRY_REQ counts counter 7 and queues for replay, in order, exactly the kept frames from its LSN
on; LINK_ACK drops exactly the frames up to its LSN, from the retry buffer and from the replay; LINK_ACK_TIMER after frames
have arrived queues LINK_ACK with the LSN before the one expected. Without RETRY_ON these three change nothing.
CREDIT_FRAME_TIMER queues one credit frame. (R51, R53, R95, R245) -/
def Obligations.LinkControlFramesAreTaken : Prop :=
  ∀ (p : Port) (s : State),
    let n := p.toNat
    let x := s.port n
    let before (a b : W16) : Prop := 32768 ≤ (a - b).toNat
    x.up = true →
    (∀ limits : List W32, limits.length = 6 → ∃ t, exec (.creditFrameReceive p limits) s = .next t ∧
      t = { s with ports := t.ports } ∧ (t.port n).aliveAt = s.time.core ∧ (t.port n).sent = x.sent ∧
      (∀ v, v < 6 →
        let old := nthD x.limitHeld v 0
        let new := nthD limits v 0
        (1 ≤ (new - old).toNat → (new - old).toNat < 2 ^ 31 → (t.port n).limitHeld[v]? = some new) ∧
        (new = old ∨ 2 ^ 31 ≤ (new - old).toNat → (t.port n).limitHeld[v]? = some old)) ∧
      ∀ k, k ≠ n → t.port k = s.port k) ∧
    (x.ctl.contains .credit = false →
      exec (.creditFrameTimer p) s = .next (s.updPort n fun x => { x with ctl := x.ctl ++ [.credit] })) ∧
    (x.ctl.contains .credit = true → exec (.creditFrameTimer p) s = .next s) ∧
    (∀ l : W16, x.retryOn = false → exec (.retryReqReceive p l) s = .next s ∧ exec (.linkAckReceive p l) s = .next s ∧
      exec (.linkAckTimer p) s = .next s) ∧
    (∀ l : W16, x.retryOn = true →
      (∃ t, exec (.retryReqReceive p l) s = .next t ∧ t.ctr n 7 = (s.countPort n 7).ctr n 7 ∧
        (t.port n).retryBuf = x.retryBuf ∧ (t.port n).replay.Sublist x.retryBuf ∧
        (∀ e ∈ x.retryBuf, e ∈ (t.port n).replay ↔ ¬before e.lsn l) ∧ ∀ k, k ≠ n → t.port k = s.port k) ∧
      (∃ t, exec (.linkAckReceive p l) s = .next t ∧ t = { s with ports := t.ports } ∧
        (t.port n).retryBuf.Sublist x.retryBuf ∧ (∀ e ∈ x.retryBuf, e ∈ (t.port n).retryBuf ↔ before l e.lsn) ∧
        ∀ e ∈ (t.port n).replay, e ∈ x.replay ∧ before l e.lsn)) ∧
    (x.retryOn = true → x.lsnSeen = true → exec (.linkAckTimer p) s = .next (s.updPort n fun x =>
      { x with lsnSeen := false, ctl := x.ctl ++ [.linkAck (x.lsnExpect - 1)] }))

/-- For every ring whose controller acts: light takes DARK to SWEEP with STEPS 0; a resonance takes SWEEP to IDENTIFY and the
end of the range takes it to RETIRED; in IDENTIFY the lane's tone gives LOCKED with STEPS 0, another tone STEP with STEPS one
higher, no tone SWEEP; STEP goes to IDENTIFY while STEPS is at most 8 and else to RETIRED; another tone takes LOCKED to STEP,
and no tone to SWEEP; lost light takes every ring that is not retired to DARK. Each event leaves every other ring, and
everything inside the block but this ring, as it was, and a RETIRED ring keeps its state; but where a transmit ring locks, the
laser that carries its channel and has no reference level takes the measured one. A retirement is detected as an error of
class 0x08. Where the controller does not act, nothing changes. (R254, R256) -/
def Obligations.RingsFollowTheirLockTable : Prop :=
  ∀ (r : RingId) (s : State),
    let x := s.microRing r
    let goes (i : Instr) (y : MicroRing) : Prop := ∃ t, exec i s = .next t ∧ t.microRing r = y ∧
      t.inner = { s.inner with rings1 := t.rings1, lasers := t.lasers } ∧ (y.state ≠ .locked ∨ r.rx = true → t.lasers = s.lasers) ∧
      (∀ k, k ≠ ringKey r → SMap.get t.rings1 k {} = SMap.get s.rings1 k {}) ∧
      (x.state ≠ .retired → y.state = .retired → ∃ e, t.err = { s.err with found := s.err.found ++ [e] } ∧ e.cls = 0x08) ∧
      (y.state ≠ .retired → t.err = s.err)
    (s.ringLive r = true →
      (x.state = .dark → goes (.ringLightPresent r) { state := .sweep }) ∧
      (x.state = .sweep → goes (.ringResonance r) { x with state := .identify } ∧
        goes (.ringSweepEnd r) { x with state := .retired }) ∧
      (x.state = .identify → ∀ v, goes (.ringToneResult r ⟨none, v⟩) { x with state := .sweep }) ∧
      (∀ (m : BitVec 4) (v : Int), x.state = .identify ∨ x.state = .locked → m.toNat = r.lane.toNat →
        goes (.ringToneResult r ⟨some m, v⟩) (if x.state = .identify then { state := .locked } else x) ∧
        (r.rx = false → ∀ t, exec (.ringToneResult r ⟨some m, v⟩) s = .next t → ∀ n, n < 10 →
          let o := r.fibre.toNat / 16
          let l := s.laser o n
          t.laser o n = if l.carries = true ∧ l.channel.toNat = r.lane.toNat ∧ l.ref = none then { l with ref := some v, meas := v } else l)) ∧
      (∀ (m : BitVec 4) (v : Int), x.state = .identify ∨ x.state = .locked → m.toNat ≠ r.lane.toNat → goes (.ringToneResult r ⟨some m, v⟩)
        { state := .step, steps := x.steps + 1, tones := x.tones ||| BitVec.ofNat 16 (2 ^ m.toNat) }) ∧
      (x.state = .step → x.steps ≤ 8 → goes (.ringStep r) { x with state := .identify }) ∧
      (x.state = .step → 8 < x.steps → goes (.ringStep r) { x with state := .retired }) ∧
      (x.state = .locked → goes (.ringToneLost r) { x with state := .sweep }) ∧
      (x.state ≠ .retired → goes (.ringLightLost r) { x with state := .dark }) ∧
      (x.state = .retired → goes (.ringLightPresent r) x ∧ goes (.ringLightLost r) x ∧ goes (.ringToneLost r) x ∧
        ∀ o v, goes (.ringToneResult r ⟨o, v⟩) x)) ∧
    (s.ringLive r = false → ∀ o v, exec (.ringLightPresent r) s = .next s ∧ exec (.ringResonance r) s = .next s ∧
      exec (.ringSweepEnd r) s = .next s ∧ exec (.ringToneResult r ⟨o, v⟩) s = .next s ∧ exec (.ringStep r) s = .next s ∧
      exec (.ringToneLost r) s = .next s ∧ exec (.ringLightLost r) s = .next s)

/-- For every engine whose levels are measured: each laser that carries light takes its measured level; it becomes warned (or
has its channel retired) exactly if it was or the level, relative to its reference, is at or below the warning level. If no
hand-over runs, none waits, SPARE_EN is 1 and spare 0 is idle, the lowest newly warned laser is handed over to it. With no
idle spare and no hand-over, a laser at or below the fade limit is retired. A group's recalibration causes are kept when none
is open and the firmware is ready to raise the event. With TRACK_EN 0 nothing changes. (R24, R255, R257, R258, R262, R264) -/
def Obligations.FadedLasersAreWarnedAndReplaced : Prop :=
  ∀ (o : Engine) (obs : LevelObs) (s : State),
    let k := o.toNat
    let on := s.opticsLive && s.trackEn k && !bit s.rst.quadInReset.toNat (k / 4)
    let cdb (n : Nat) (l : Int) : Int := sgn (Laser.level { s.laser k n with meas := l }).toNat 16
    let falls (n : Nat) : Prop := n < 10 ∧ (s.laser k n).carries = true ∧ (s.laser k n).state ≠ .warned ∧
      ∃ l, obs.levels[n]? = some l ∧ cdb n l ≤ -(s.fadeWarn k)
    (on = false → exec (.levelMeasurement o obs) s = .next s) ∧
    (on = true → ∃ t, exec (.levelMeasurement o obs) s = .next t ∧
      (∀ n l, n < 10 → obs.levels[n]? = some l → (s.laser k n).carries = true → (t.laser k n).meas = l ∧ (t.laser k n).ref = (s.laser k n).ref ∧
        (((t.laser k n).state = .warned ∨ (t.laser k n).state = .retired) ↔
          (s.laser k n).state = .warned ∨ cdb n l ≤ -(s.fadeWarn k))) ∧
      (∀ n, falls n → (∀ m, m < n → ¬falls m) → (s.engine k).handover = none → (s.engine k).warned = [] →
        s.spareEn k = true → (s.laser k 8).state = .spareIdle →
        (t.engine k).handover = some { laser := n, spare := 8, step := 1, tries := 0 } ∧ (t.laser k 8).state = .handing) ∧
      (∀ n l, n < 10 → obs.levels[n]? = some l → (s.laser k n).carries = true → cdb n l ≤ -(s.fadeLimit k) →
        (s.engine k).handover = none → (s.laser k 8).state ≠ .spareIdle → (s.laser k 9).state ≠ .spareIdle →
        (t.laser k n).state = .retired) ∧
      (∀ m, m < 4 → (s.mesh (4 * k + m)).due = 0 → (t.mesh (4 * k + m)).due = if s.hif.fwReady then nthD obs.causes m 0 else 0) ∧
      (∀ m, m < 4 → (s.mesh (4 * k + m)).due ≠ 0 → (t.mesh (4 * k + m)).due = (s.mesh (4 * k + m)).due))

/-- For every hand-over that runs while the optics act: the end of a step before the cross-fade starts the next, unless the
idle tone was not alone at the identity step. Each fade step counts one, and the 256th makes the laser replaced and the spare
active on its channel, with its measured level as reference and so at level 0. A failed step (that identity step, or
HANDOVER_STEP_TIMEOUT) counts against the spare, which is retired at its second failure; a first failure without another idle
spare starts the hand-over again on the same spare. With no hand-over these commands change nothing. LASER_FAILURE retires the
laser that carried light, and changes nothing for another. (R256, R258, R259, R260) -/
def Obligations.HandoversRunInSteps : Prop :=
  ∀ (o : Engine) (s : State),
    let k := o.toNat
    ((s.engine k).handover = none → ∀ b, exec (.handoverStep o b) s = .next s ∧ (∀ v, exec (.crossFadeStep ⟨o, v⟩) s = .next s) ∧
      exec (.handoverStepTimeout o) s = .next s) ∧
    (∀ h : Handover, (s.engine k).handover = some h → s.opticsLive = true → h.laser ≠ h.spare → (h.spare = 8 ∨ h.spare = 9) →
      (∀ b, h.step < 4 → h.step ≠ 2 ∨ b = true → exec (.handoverStep o b) s =
        .next (s.updEngine k fun e => { e with handover := some { h with step := h.step + 1 } })) ∧
      (∀ v, h.step = 4 → h.fade < 255 → exec (.crossFadeStep ⟨o, v⟩) s =
        .next (s.updEngine k fun e => { e with handover := some { h with fade := h.fade + 1 } })) ∧
      (∀ v, h.step = 4 → h.fade = 255 → ∃ t, exec (.crossFadeStep ⟨o, v⟩) s = .next t ∧ (t.laser k h.laser).state = .replaced ∧
        (t.laser k h.spare).state = .spareActive ∧ (t.laser k h.spare).channel = (s.laser k h.laser).channel ∧
        (t.laser k h.spare).ref = some v ∧ (t.laser k h.spare).level = 0) ∧
      (h.step < 4 → exec (.handoverStep o false) s = exec (.handoverStepTimeout o) s ∨ h.step ≠ 2) ∧
      (h.step < 4 → ∃ t, exec (.handoverStepTimeout o) s = .next t ∧
        (t.laser k h.spare).fails = (s.laser k h.spare).fails + 1 ∧
        (1 ≤ (s.laser k h.spare).fails → (t.laser k h.spare).state = .retired) ∧
        ((s.laser k h.spare).fails = 0 → h.tries = 0 → (s.laser k (17 - h.spare)).state ≠ .spareIdle →
          (t.engine k).handover = some { laser := h.laser, spare := h.spare, step := 1, tries := 1 } ∧
          (t.laser k h.spare).state = .handing) ∧
        ((s.laser k h.spare).fails = 0 → h.tries = 0 → (s.laser k (17 - h.spare)).state = .spareIdle →
          (t.engine k).handover = some { laser := h.laser, spare := 17 - h.spare, step := 1, tries := 1 }))) ∧
    (∀ n : BitVec 4, n.toNat < 10 → s.opticsLive = true → (s.laser k n.toNat).carries = true →
      ∃ t, exec (.laserFailure o n) s = .next t ∧ (t.laser k n.toNat).state = .retired ∧ t.ports = s.ports) ∧
    (∀ n : BitVec 4, (s.laser k n.toNat).carries = false → exec (.laserFailure o n) s = .next s)

/-- For every state: after LASER_EN_LOW no laser of any engine carries light, TX_ON is 0, LASER_TRIP is set, no hand-over
runs, and no armed port is in training. LASER_EN_HIGH changes the input only. TX_ON_WRITE of 1 over a PCIe link is ignored and
counted while LASER_EN is low or the record is lost; otherwise, with the engine released, it sets TX_ON, and lights every DFB
that was off where the optical domain lights. TX_ON_WRITE of 0 leaves no laser of the engine lit. LASER_COMMISSION makes the
present level the reference (so LEVEL_CDB reads 0) and sets COMMISSIONED for exactly the lit lasers of the engines named;
where an engine named is held (block reset, P3) it is refused STATE. (R256, R260, R270, R271, R332, R355, R358, R361, R368) -/
def Obligations.LightFollowsTheInterlock : Prop :=
  ∀ s : State,
    (∃ t, exec .laserEnLow s = .next t ∧ t.pins.laserEn = false ∧
      (∀ o, o < 16 → (t.engine o).txOn = false ∧ (t.engine o).trip = true ∧ (t.engine o).handover = none ∧
        ∀ n, n < 10 → (t.laser o n).carries = false ∧ (t.laser o n).state ≠ .handing) ∧
      ∀ p, p < 1024 → (t.port p).armed = true → (t.port p).trainStep = 0) ∧
    (exec .laserEnHigh s = .next { s with pins := { s.pins with laserEn := true } }) ∧
    (∀ o : Engine, s.hif.linkUp = true → s.pins.laserEn = false ∨ (s.engine o.toNat).nvLost = true →
      exec (.txOnWrite o true) s = .next { s with err := { s.err with ignored := min 65535 (s.err.ignored + 1) } }) ∧
    (∀ o : Engine, s.hif.linkUp = true → s.engineHeld o.toNat = false → s.pins.laserEn = true →
      (s.engine o.toNat).nvLost = false → ∃ t, exec (.txOnWrite o true) s = .next t ∧ (t.engine o.toNat).txOn = true ∧
        (s.opticsLive = true → s.rst.reach = none → ∀ n, n < 8 → (s.laser o.toNat n).state = .off →
          (t.laser o.toNat n).state = .lit) ∧
        ∀ p, p / 64 = o.toNat → t.txAllowed p = true → (t.port p).up = true ∨ (t.port p).trainStep ≠ 0) ∧
    (∀ o : Engine, s.hif.linkUp = true → s.engineHeld o.toNat = false → ∃ t, exec (.txOnWrite o false) s = .next t ∧
      (t.engine o.toNat).txOn = false ∧ (t.engine o.toNat).handover = none ∧ ∀ n, n < 10 → (t.laser o.toNat n).carries = false) ∧
    (∀ c g, s.offers c g 0x20 →
      let held (o : Nat) : Prop := o < 16 ∧ bit (leAt g.bytes 8 2) o = true ∧ (s.pwr.state = 3 ∨ bit s.rst.quadInReset.toNat (o / 4) = true)
      ((∃ o, held o) → exec (.laserCommission c) s = .next ((s.started c g).refuse (cmdName c g) .state 0)) ∧
      ((¬∃ o, held o) → ∃ u : State, exec (.laserCommission c) s = .next (u.succeed (cmdName c g)) ∧
      u = { s.started c g with lasers := u.lasers, nvLasers := u.nvLasers, nvSecond := u.nvSecond } ∧
      ∀ o n, o < 16 → n < 10 → u.laser o n =
        if bit (leAt g.bytes 8 2) o = true ∧ (s.laser o n).carries = true then
          { s.laser o n with ref := some (s.laser o n).meas, commissioned := true } else s.laser o n))

/-- For a GROUP_RECAL that a ring offers: an engine or group out of range is refused RANGE, an armed port of the group's
fibres ARMING with the lowest such port, and a held group, a map that is not normal, a change of map in progress or another
group of the engine recalibrating STATE; else the group recalibrates, the command stays outstanding and nothing else changes.
RECAL_COMPLETE of a recalibrating group, with the firmware ready, completes the command with SUCCESS, leaves every ring of the
group DARK with no steps, the map normal and no cause open, and touches no port of another group; of another group, or while
the firmware is not ready, it changes nothing. (R24, R263, R264, R332) -/
def Obligations.GroupsAreRecalibratedOnCommand : Prop :=
  (∀ (c : CmdRing) (g : Fetched) (s : State), s.offers c g 0x21 →
    let o := leAt g.bytes 8 1
    let m := leAt g.bytes 9 1
    let k := 4 * o + m
    let x := s.mesh k
    let armed : Prop := ∃ j, j < 4 ∧ s.fibreArmed (4 * k + j) = true
    let busy : Prop := s.groupDown k = true ∨ x.map ≠ normalMap ∨ x.prev ≠ none ∨ ∃ j, j < 4 ∧ (s.mesh (4 * o + j)).recal ≠ none
    let t := s.started c g
    (16 ≤ o ∨ 4 ≤ m → exec (.groupRecal c) s = .next (t.refuse (cmdName c g) .range 0)) ∧
    (o < 16 → m < 4 → armed → exec (.groupRecal c) s = .next (t.refuse (cmdName c g) .arming (s.armedIn k))) ∧
    (o < 16 → m < 4 → ¬armed → busy → exec (.groupRecal c) s = .next (t.refuse (cmdName c g) .state 0)) ∧
    (o < 16 → m < 4 → ¬armed → ¬busy →
      exec (.groupRecal c) s = .next (t.updMesh k fun x => { x with recal := some (cmdName c g) }))) ∧
  ∀ (o : Engine) (m : BitVec 2) (s : State),
    let k := 4 * o.toNat + m.toNat
    ((s.mesh k).recal = none ∨ s.hif.fwReady = false → exec (.recalComplete o m) s = .next s) ∧
    (∀ ref, (s.mesh k).recal = some ref → s.hif.fwReady = true → ∃ u : State, exec (.recalComplete o m) s = .next (u.succeed ref) ∧
      u.mesh k = { s.mesh k with recal := none, due := 0, map := normalMap } ∧
      u = { s with rings1 := u.rings1, meshes := u.meshes, ports := u.ports } ∧ (∀ p, p / 16 ≠ k → u.port p = s.port p) ∧
      (∀ r : RingId, r.fibre.toNat / 4 = k → u.microRing r = {}) ∧
      ∀ r : RingId, r.fibre.toNat / 4 ≠ k → u.microRing r = s.microRing r)

/-- For a MESH_SET that a ring offers with its engine, group and map in range, no armed port altered, and a group that is
free: a plain map takes effect unsettled, the command stays outstanding and nothing else changes but that no plan-bound map is
applied; a plan-bound one for a plan slot that is empty is refused STATE, for an instance that is not open it waits, the map
stays and the command succeeds, and for an open one the map takes effect unsettled, the group is PLAN_BOUND and the command
stays outstanding. That PLAN_BOUND shows as the map is applied, what a plain map does to an applied plan-bound one, and that
an open instance's map is applied at once are the model's reading (log 65, DEDUCED). A map that is not one to one is refused
RANGE, one that alters an armed fibre ARMING with its lowest armed port, and one for a held, recalibrating or settling group
STATE. With the firmware ready MESH_SETTLE_CHECK with every path in bound leaves the map settled and completes the command
with SUCCESS; with input i out of bound it restores the previous map, and the bound maps as they waited (log 65), and
completes the command with CHECK_FAILED and i. It changes nothing where no change settles or the firmware is not ready. (R265,
R266, R267, R268, R332) -/
def Obligations.MeshMapsAreSetAndChecked : Prop :=
  (∀ (c : CmdRing) (g : Fetched) (s : State), s.offers c g 0x22 →
    let d := g.bytes
    let o := leAt d 8 1
    let m := leAt d 9 1
    let k := 4 * o + m
    let map := BitVec.ofNat 24 (leAt d 12 4)
    let x := s.mesh k
    let t := s.started c g
    o < 16 → m < 4 → leAt d 12 4 < 2 ^ 24 →
    (leAt d 10 1 ≤ 1 → (¬ ∀ a b, a < 8 → b < 8 → mapOut map a = mapOut map b → a = b) →
      exec (.meshSet c) s = .next (t.refuse (cmdName c g) .range 0)) ∧
    ((∀ a b, a < 8 → b < 8 → mapOut map a = mapOut map b → a = b) →
      (∀ j ∈ alteredFibres x.map map, s.fibreArmed (4 * k + j) = false) →
      s.groupDown k = false → x.recal = none → x.prev = none →
      (leAt d 10 1 = 0 → ∃ u, exec (.meshSet c) s = .next u ∧ u = { t with meshes := u.meshes } ∧ (u.mesh k).map = map ∧
        (u.mesh k).settled = false ∧ (u.mesh k).prev = some (x.map, some (cmdName c g)) ∧ (u.mesh k).planBound = false ∧
        (∀ b ∈ x.bound, b.prev = none → b ∈ (u.mesh k).bound) ∧ ∀ j, j ≠ k → u.mesh j = s.mesh j) ∧
      (leAt d 10 1 = 1 → leAt d 16 2 < 4096 → leAt d 20 4 < 2 ^ 20 → SMap.find s.plans (leAt d 16 2) = none →
        exec (.meshSet c) s = .next (t.refuse (cmdName c g) .state 0)) ∧
      (∀ p, leAt d 10 1 = 1 → leAt d 16 2 < 4096 → leAt d 20 4 < 2 ^ 20 → SMap.find s.plans (leAt d 16 2) = some p →
        (instOpen p (leAt d 20 4) = false → exec (.meshSet c) s = .next ((t.updMesh k fun x =>
          { x with bound := x.bound ++ [{ slot := leAt d 16 2, n := leAt d 20 4, map := map }] }).succeed (cmdName c g))) ∧
        (instOpen p (leAt d 20 4) = true → ∃ u : State, exec (.meshSet c) s = .next u ∧
          u = { t with meshes := u.meshes } ∧ (u.mesh k).map = map ∧ (u.mesh k).settled = false ∧ (u.mesh k).planBound = true ∧
          (u.mesh k).prev = some (x.map, some (cmdName c g)) ∧ ∀ j, j ≠ k → u.mesh j = s.mesh j))) ∧
    (∀ j ∈ alteredFibres x.map map, s.fibreArmed (4 * k + j) = true → leAt d 10 1 = 0 →
      (∀ a b, a < 8 → b < 8 → mapOut map a = mapOut map b → a = b) →
      exec (.meshSet c) s = .next (t.refuse (cmdName c g) .arming
        (s.armedPort fun p => (alteredFibres x.map map).contains (p / 4 - 4 * k) && p / 16 = k))) ∧
    ((∀ j ∈ alteredFibres x.map map, s.fibreArmed (4 * k + j) = false) → leAt d 10 1 = 0 →
      (∀ a b, a < 8 → b < 8 → mapOut map a = mapOut map b → a = b) →
      s.groupDown k = true ∨ x.recal ≠ none ∨ x.prev ≠ none →
      exec (.meshSet c) s = .next (t.refuse (cmdName c g) .state 0))) ∧
  ∀ (o : Engine) (m : BitVec 2) (s : State),
    let k := 4 * o.toNat + m.toNat
    ((s.mesh k).prev = none ∨ s.hif.fwReady = false → ∀ b, exec (.meshSettleCheck o m b) s = .next s) ∧
    (∀ old ref, (s.mesh k).prev = some (old, some ref) → s.hif.fwReady = true →
      exec (.meshSettleCheck o m none) s =
        .next ((s.updMesh k fun x => { x with prev := none, settled := true, kept := [] }).succeed ref) ∧
      ∀ i : BitVec 3, ∃ u : State, exec (.meshSettleCheck o m (some i)) s = .next (u.complete ref .checkFailed (leBytes 1 i.toNat)) ∧
        u.mesh k = { s.mesh k with prev := none, settled := true, map := old, kept := []
                                   bound := (s.mesh k).kept ++ (s.mesh k).bound.filter fun b => decide (b.prev ≠ some old) })

/-- For every bundle direction that carries flits, of quadrants that run, and that does not wait for a replay: a good cell
flit takes the oldest cell on its way, with the stream, number, fill and frame start that the valid word names, to stage 2 of
the receiving quadrant; a message flit with the MSEQ expected, and none early, moves the number on; a retry request does what
D2D_RETRY_REQUEST does at the sender of the bundle and slot it names. (The model's reading of the lanes of a flit is log 47.)
A failed flit is discarded (but for a replay that is asked for, which stays on its way), counted as failed, and makes the
receiver wait for a replay from its slot, which it asks for. While it waits, every flit but a good one with REPLAY set is
discarded, a failed one counted, and the wait stays; that one ends the wait and is delivered. A good empty or training flit
changes nothing. A bundle that carries no flits takes none, and none is taken while the quadrants do not run. (R103, R275,
R276, R278, R279) -/
def Obligations.FlitsAreCheckedAndDelivered : Prop :=
  ∀ (x y : Quad) (b : BitVec 6) (w : WireFlit) (s : State),
    let v := w.valid.toNat
    let z := s.bundle x.toNat y.toNat b.toNat
    let d := s.dir x.toNat y.toNat
    let landed := s.updBundle x.toNat y.toNat b.toNat fun z => { z with flight := z.flight.drop 1 }
    let fails : Prop := fld v 0 8 ≠ flitLchk w ∨ 5 ≤ fld v 8 3 ∨ (z.checked = true ∧ w.chk64.toNat ≠ flitChk64 w)
    let left (empty : Prop) [Decidable empty] : List FlitSt :=
      match z.flight with | [] => [] | f :: r => if empty ∨ f.replay = true then f :: r else r
    (carries z = false ∨ s.live = false → exec (.flitReceive x y b w) s = .next s) ∧
    (x ≠ y → s.live = true → carries z = true → z.await = none →
      (∀ f rest c e, ¬fails → fld v 8 3 = 1 → z.flight = f :: rest → f.body = .cell c → cellOf v c = some e →
        exec (.flitReceive x y b w) s = .next (landed.toStage2 x.toNat y.toNat e)) ∧
      (∀ f rest c, ¬fails → fld v 8 3 = 1 → z.flight = f :: rest → f.body = .cell c → fld v 29 2 = 3 →
        exec (.flitReceive x y b w) s = .next landed) ∧
      (¬fails → fld v 8 3 = 2 → d.early = [] → d.mseqExpect = BitVec.ofNat 16 (fld v 48 16) → ∃ t,
        exec (.flitReceive x y b w) s = .next t ∧
        (t.dir x.toNat y.toNat).mseqExpect = d.mseqExpect + 1 ∧ (t.dir x.toNat y.toNat).gapAt = none ∧
        (t.dir x.toNat y.toNat).early = [] ∧ (t.bundle x.toNat y.toNat b.toNat).flight = z.flight.tail) ∧
      (¬fails → fld v 8 3 = 3 → carries (s.bundle y.toNat x.toNat (fld v 46 6)) = true → exec (.flitReceive x y b w) s =
        exec (.d2dRetryRequest y x (BitVec.ofNat 6 (fld v 46 6)) (BitVec.ofNat 12 (fld v 52 12))) landed) ∧
      (¬fails → fld v 8 3 = 0 ∨ fld v 8 3 = 4 → exec (.flitReceive x y b w) s = .next s) ∧
      (fails → ∃ t, exec (.flitReceive x y b w) s = .next t ∧
        (t.bundle x.toNat y.toNat b.toNat).fails = z.fails + 1 ∧
        (t.bundle x.toNat y.toNat b.toNat).flight = left False ∧
        (let slot := match z.flight with | [] => s.slotNow b.toNat z | f :: _ => f.slot
         (t.bundle x.toNat y.toNat b.toNat).await = some (slot, s.time.core) ∧
         (t.dir y.toNat x.toNat).outRetry = (s.dir y.toNat x.toNat).outRetry ++ [(b.toNat, slot)]) ∧
        t = { s with bundles := t.bundles, reseq := t.reseq, dirs := t.dirs })) ∧
    (∀ a, x ≠ y → s.live = true → carries z = true → z.await = some a →
      (fails ∨ bit v 11 = false → ∃ t, exec (.flitReceive x y b w) s = .next t ∧
        (t.bundle x.toNat y.toNat b.toNat).await = some a ∧
        (t.bundle x.toNat y.toNat b.toNat).flight = left (¬fails ∧ fld v 8 3 = 0) ∧
        (fails → (t.bundle x.toNat y.toNat b.toNat).fails = z.fails + 1) ∧
        (¬fails → (t.bundle x.toNat y.toNat b.toNat).fails = z.fails) ∧
        t = { s with bundles := t.bundles, reseq := t.reseq }) ∧
      (¬fails → bit v 11 = true → ∃ t, exec (.flitReceive x y b w) s = .next t ∧
        (t.bundle x.toNat y.toNat b.toNat).await = none))

/-- For every bundle direction that carries flits, of quadrants that run: a retry request for a slot the sender still holds
(at most 1,024 cycles old, or of a flit still kept) puts the flits kept from that slot on, marked as replays, into successive
slots from the next one on, at the distances they had, ahead of every new flit, keeps them again, and changes nothing else;
one for another slot does what the end of the replay window does where a replay is awaited, and else changes nothing. One
repeat after 128 cycles sends the request again, restarts its timer and counts it. When the window passes without a replay,
the receiver waits no more, the lost slots are counted in counter 43 of the receiving quadrant, and nothing else inside the
block changes. MSEQ_GAP_TIMEOUT with one early message flit goes on behind it and leaves no line in the receiving quadrant's
remote cache; with an early flit without messages the home store stays. While the quadrants do not run, none of them changes
anything. (The model's reading of slots is log 47.) (R278, R279, R280) -/
def Obligations.FlitRetriesAreServedOrGivenUp : Prop :=
  ∀ (x y : Quad) (s : State),
    (∀ b : BitVec 6,
      let z := s.bundle x.toNat y.toNat b.toNat
      let n := slotLen z
      let now := s.time.core
      let kept := z.kept.filter fun f => decide (now ≤ f.sentAt + 1024)
      (s.live = false → (∀ slot, exec (.d2dRetryRequest x y b slot) s = .next s) ∧ exec (.d2dRetryRepeat x y b) s = .next s ∧
        exec (.d2dReplayWindowExpiry x y b) s = .next s) ∧
      (∀ slot : BitVec 12, x ≠ y → s.live = true → carries z = true →
        let after (k : Nat) : Nat := (k + 4096 - slot.toNat) % 4096
        let back := (s.slotNow b.toNat z + 4096 - slot.toNat) % 4096
        let held : Prop := z.quiet = false ∧
          ((back < slotsBy b.toNat z now - z.slotBase ∧ back * n ≤ 1024) ∨ ∃ f ∈ kept, f.slot = slot.toNat)
        (held → ∃ first count,
          let again := (kept.filter fun f => decide (after f.slot < count)).map fun f =>
            { f with replay := true, sentAt := first + n * after f.slot, slot := slotAt b.toNat z (first + n * after f.slot) }
          now < first ∧ first ≤ now + n ∧ first % n = b.toNat % n ∧ 0 < count ∧
          (z.busyUntil ≤ now + 1 → count = after (s.slotNow b.toNat z) + 1) ∧
          exec (.d2dRetryRequest x y b slot) s = .next (s.updBundle x.toNat y.toNat b.toNat fun z =>
            { z with flight := z.flight.filter (fun f => !f.replay) ++ again,
                     kept := (kept.filter fun f => decide (f.sentAt ≤ now)) ++ again, busyUntil := first + n * count })) ∧
        (¬held → z.await = none → exec (.d2dRetryRequest x y b slot) s = .next s) ∧
        (¬held → z.await ≠ none → exec (.d2dRetryRequest x y b slot) s = exec (.d2dReplayWindowExpiry x y b) s)) ∧
      (∀ slot at_, s.live = true → z.await = some (slot, at_) → exec (.d2dRetryRepeat x y b) s =
        .next ((s.updBundle x.toNat y.toNat b.toNat fun z =>
          { z with await := some (slot, s.time.core), replays := min 65535 (z.replays + 1) }).updDir y.toNat x.toNat fun d =>
            { d with outRetry := d.outRetry ++ [(b.toNat, slot)] })) ∧
      (z.await = none → exec (.d2dRetryRepeat x y b) s = .next s ∧ exec (.d2dReplayWindowExpiry x y b) s = .next s) ∧
      (∀ a, s.live = true → z.await = some a → ∃ t, exec (.d2dReplayWindowExpiry x y b) s = .next t ∧
        (t.bundle x.toNat y.toNat b.toNat).await = none ∧ (t.bundle x.toNat y.toNat b.toNat).lostSlots = 0 ∧
        t.ctr (1024 + y.toNat) 43 = (s.count (1024 + y.toNat) 43 (max 1 z.lostSlots)).ctr (1024 + y.toNat) 43 ∧
        t.inner = { s.inner with bundles := t.bundles })) ∧
    ((s.dir x.toNat y.toNat).gapAt = none ∨ s.live = false → exec (.mseqGapTimeout x y) s = .next s) ∧
    (∀ at_ m ms, s.live = true → (s.dir x.toNat y.toNat).gapAt = some at_ → (s.dir x.toNat y.toNat).early = [(m, ms)] →
      ∃ t, exec (.mseqGapTimeout x y) s = .next t ∧
        (t.dir x.toNat y.toNat).mseqExpect = m + 1 ∧ (t.dir x.toNat y.toNat).gapAt = none ∧ (t.dir x.toNat y.toNat).early = [] ∧
        (∀ k, k / 2 ^ 20 = y.toNat → k ∉ t.cache.map (·.1)) ∧ (ms = [] → t.home = s.home))

/-- For every bundle that carries flits, of quadrants that run: with SWAP_EN 1 a working wire below MARGIN_MIN is noted and
starts a quiet point (or queues it behind the direction's present one), with SWAP_EN 0 nothing inside the block changes.
FLIT_ERROR_WINDOW clears the count of failed flits; above ERR_THRESH it starts a quiet point, or retires the bundle when three
quiet points within 10 ms found nothing. QUIET_POINT_END with SWAP_EN 1 keeps exactly the wires that work and were not found
bad, and sets the width that R281 and CHECK_POLICY give: retired below 16 wires or without clock or valid wire, half to 31,
full from 32 on unless CHECK_POLICY 1 frees a check wire. (R281, R284, R285, R286, R287) -/
def Obligations.BundlesChangeMapAtQuietPoints : Prop :=
  ∀ (x y : Quad) (b : BitVec 6) (s : State), x ≠ y →
    let z := s.bundle x.toNat y.toNat b.toNat
    (s.live = true → carries z = true →
      (∀ (ws : List (BitVec 6)) (i : Nat) (v : BitVec 6), i < 34 → ws[i]? = some v → v.toNat < s.rf .d2dCtrl [y.toNat] 8 6 →
        z.work.getLsbD i = true →
        (s.rb .d2dCtrl [y.toNat] 0 = true → ∃ t, exec (.marginSample x y b ws) s = .next t ∧
          (t.bundle x.toNat y.toNat b.toNat).badWires.getLsbD i = true ∧
          ((t.bundle x.toNat y.toNat b.toNat).quiet = true ∨ (t.bundle x.toNat y.toNat b.toNat).quietWait ≠ none) ∧
          t = { s with bundles := t.bundles }) ∧
        (s.rb .d2dCtrl [y.toNat] 0 = false → ∃ t, exec (.marginSample x y b ws) s = .next t ∧ t.inner = s.inner)) ∧
      (z.fails ≤ max 1 (s.rf .d2dCtrl [y.toNat] 16 16) → exec (.flitErrorWindow x y b) s =
        .next (s.updBundle x.toNat y.toNat b.toNat fun z => { z with fails := 0 })) ∧
      (max 1 (s.rf .d2dCtrl [y.toNat] 16 16) < z.fails → z.quiet = false →
        (z.noBad < 3 ∨ z.lastQuiet + 20000000 < s.time.core → ∃ t, exec (.flitErrorWindow x y b) s = .next t ∧
          (t.bundle x.toNat y.toNat b.toNat).fails = 0 ∧
          ((t.bundle x.toNat y.toNat b.toNat).quiet = true ∨ (t.bundle x.toNat y.toNat b.toNat).quietWait ≠ none) ∧
          t = { s with bundles := t.bundles }) ∧
        (3 ≤ z.noBad → s.time.core ≤ z.lastQuiet + 20000000 → ∃ t, exec (.flitErrorWindow x y b) s = .next t ∧
          (t.bundle x.toNat y.toNat b.toNat).width = 0 ∧ (t.bundle x.toNat y.toNat b.toNat).fails = 0 ∧
          t.inner = { s.inner with bundles := t.bundles, floors := t.floors, dirs := t.dirs }))) ∧
    (z.quiet = false ∨ s.live = false → ∀ o, exec (.quietPointEnd x y b o) s = .next s) ∧
    (∀ o : WireObs, s.live = true → z.quiet = true → z.quietWait = none → s.rb .d2dCtrl [y.toNat] 0 = true →
      let work := z.work &&& o.work &&& ~~~z.badWires
      let n := popcount work.toNat 34
      ∃ t, exec (.quietPointEnd x y b o) s = .next t ∧ (t.bundle x.toNat y.toNat b.toNat).work = work ∧
        (t.bundle x.toNat y.toNat b.toNat).quiet = false ∧ (t.bundle x.toNat y.toNat b.toNat).badWires = 0 ∧
        (t.bundle x.toNat y.toNat b.toNat).width =
          (if o.clockOk = false ∨ o.validOk = false ∨ n < 16 then 0
           else if n < 32 ∨ (n = 32 ∧ s.rb .d2dCtrl [y.toNat] 1 = true) then 1 else 2) ∧
        t.inner = { s.inner with bundles := t.bundles, floors := t.floors, dirs := t.dirs })

/-- For every bundle direction in training or in block reset, once a release of the dies has come to its training, and not in
P1 to P3: BUNDLE_TRAINING_COMPLETE adopts the vector the wires showed less the wires that fuses mark, in the intersection with
that of a die that kept running; it retires the bundle without a locked clock or a valid wire or after three failed
verifications, else gives it the width of R281, starts its slot count now with nothing on its way, and changes nothing else
inside the block but the floor's weights, what waits to tell them to the other quadrants, and what resequencers note of cells
lost on the way. Another bundle is left as it is. BUNDLE_QUIESCE and BUNDLE_RELEASE that a ring offers, with quadrants and
bundle in range and not held, set and clear the quiesced state of both directions, change no other bundle, and succeed; a held
bundle or quadrant, or one whose clocks are gated, is refused STATE, and a quadrant paired with itself RANGE. (R130, R278,
R281, R282, R283, R289, R290, R332, R355, R361, R437) -/
def Obligations.BundlesTrainAndAreQuiesced : Prop :=
  (∀ (x y : Quad) (b : BitVec 6) (o : BundleTrain) (s : State), x ≠ y →
    let z := s.bundle x.toNat y.toNat b.toNat
    let seen := o.work &&& ~~~(SMap.get s.sec.fuses.badWires ((4 * x.toNat + y.toNat) * 64 + b.toNat) 0)
    let work := match z.inService with | some v => seen &&& v | none => seen
    let n := popcount work.toNat 34
    let early : Prop := (s.rst.reach ≠ none ∧ s.rst.step < 9) ∨ (s.rst.reach = none ∧ s.pwr.state ≠ 0)
    ((z.width ≠ 3 ∧ z.inReset = false) ∨ early → exec (.bundleTrainingComplete x y b o) s = .next s) ∧
    (z.width = 3 ∨ z.inReset = true → ¬early → ∃ t, exec (.bundleTrainingComplete x y b o) s = .next t ∧
      (t.bundle x.toNat y.toNat b.toNat).work = work ∧
      (t.bundle x.toNat y.toNat b.toNat).width =
        (if o.clockOk = false ∨ o.validOk = false ∨ o.tries = 3 ∨ n < 16 then 0 else if n < 32 then 1 else 2) ∧
      (t.bundle x.toNat y.toNat b.toNat).trainedAt = s.time.core ∧ (t.bundle x.toNat y.toNat b.toNat).flight = [] ∧
      (t.bundle x.toNat y.toNat b.toNat).quiesced = z.quiesced ∧
      t.inner = { s.inner with bundles := t.bundles, floors := t.floors, dirs := t.dirs, reseq := t.reseq })) ∧
  ∀ (c : CmdRing) (g : Fetched) (s : State), s.offers c g 0x23 →
    let x := leAt g.bytes 8 1
    let y := leAt g.bytes 9 1
    let b := leAt g.bytes 10 1
    let both (q : Bool) (u : State) : Prop := (u.bundle x y b).quiesced = q ∧ (u.bundle y x b).quiesced = q ∧
      (∀ v w k, v < 4 → w < 4 → k < 64 → ¬(k = b ∧ (v = x ∧ w = y ∨ v = y ∧ w = x)) → u.bundle v w k = s.bundle v w k) ∧
      u.inner = { s.inner with bundles := u.bundles, floors := u.floors, dirs := u.dirs }
    (x < 4 → y < 4 → x ≠ y → b < 64 → (s.bundle x y b).inReset = false → s.quadStill x = false → s.quadStill y = false →
      (leAt g.bytes 11 1 = 1 → ∃ u : State, exec (.bundleQuiesce c) s = .next (u.succeed (cmdName c g)) ∧ both true u) ∧
      (leAt g.bytes 11 1 = 0 → ∃ u : State, exec (.bundleRelease c) s = .next (u.succeed (cmdName c g)) ∧ both false u)) ∧
    (x < 4 → y < 4 → x ≠ y → b < 64 → (s.bundle x y b).inReset = true ∨ s.quadStill x = true ∨ s.quadStill y = true →
      (leAt g.bytes 11 1 = 1 → exec (.bundleQuiesce c) s = .next ((s.started c g).refuse (cmdName c g) .state 0)) ∧
      (leAt g.bytes 11 1 = 0 → exec (.bundleRelease c) s = .next ((s.started c g).refuse (cmdName c g) .state 0))) ∧
    (x = y → (leAt g.bytes 11 1 = 1 → exec (.bundleQuiesce c) s = .next ((s.started c g).refuse (cmdName c g) .range 0)) ∧
      (leAt g.bytes 11 1 = 0 → exec (.bundleRelease c) s = .next ((s.started c g).refuse (cmdName c g) .range 0)))

/-- For every state: with TRST_N low a test access instruction has no effect. Otherwise IDCODE shows the identification code,
which ends in 0x6A4776F, and changes nothing else; BYPASS, and every other code of a closed chain, shows none. On the open
chain the wire measurement writes, once, at most two bad wires of each bundle direction whose receiving quadrant the chain
reaches into the fuses, and a second one leaves them as they are; the writing of fuses writes, once, the row maps of the
arrays whose quadrant's path is open; the writing of the certificate sets it; any other code shows a register of open content
and changes nothing else. (Which code is which, and what wires and arrays show, the manual leaves open: free values, log 81.)
(R236, R282, R291, R292, R421) -/
def Obligations.TheTestChainShowsOnlyItsCode : Prop :=
  ∀ (code : Nat) (s : State),
    let f := s.sec.fuses
    (s.pins.trstN = false → exec (.testAccessInstruction code) s = .next s) ∧
    (s.pins.trstN = true → code = Config.tapIdcode → ∃ v : W32, exec (.testAccessInstruction code) s =
      .next { s with out := { s.out with testOut := some v } } ∧ v.toNat % 2 ^ 28 = 0x6A4776F) ∧
    (s.pins.trstN = true → code ≠ Config.tapIdcode → code = Config.tapBypass ∨ f.chainClosed = true →
      exec (.testAccessInstruction code) s = .next { s with out := { s.out with testOut := none } }) ∧
    (s.pins.trstN = true → code ≠ Config.tapIdcode → code ≠ Config.tapBypass → f.chainClosed = false →
      ∃ t, exec (.testAccessInstruction code) s = .next t ∧
        t = { s with freeCtr := t.freeCtr, out := t.out, sec := t.sec } ∧
        (code = Config.tapMeasure →
          (f.wiresWritten = true → t.sec = s.sec) ∧
          (f.wiresWritten = false → t.sec = { s.sec with fuses := { f with badWires := t.sec.fuses.badWires, wiresWritten := true } } ∧
            ∀ k, k < 1024 → SMap.get t.sec.fuses.badWires k 0 =
              if k / 256 ≠ k / 64 % 4 ∧ bit f.pathClosed.toNat (k / 64 % 4) = false then firstTwo (Config.wireBad k) else 0)) ∧
        (code ≠ Config.tapMeasure → code = Config.tapFuses →
          (f.arraysWritten = true → t.sec = s.sec) ∧
          (f.arraysWritten = false → t.sec = { s.sec with fuses := { f with arrays := t.sec.fuses.arrays, arraysWritten := true } } ∧
            ∀ k, k < 1024 → SMap.find t.sec.fuses.arrays k =
              if bit f.pathClosed.toNat (k / 256) = true then none else Config.arrayFuse k)) ∧
        (code ≠ Config.tapMeasure → code ≠ Config.tapFuses →
          t.sec = if code = Config.tapCertificate then { s.sec with hasCert := true } else s.sec))

/-- For every port: a frame on a port that is not up changes nothing, but that a training port counts, samples and taps the
TRAIN and credit frames it takes. A good data frame in link order is counted against its VC and goes on: to forwarding where
it passes checks 2 to 11, else to the drop of the check that fails, but that a frame whose LEN is wrong goes on to an inverted
FCS where its cut-through has begun. On an up port without link retry, where no cut-through can have begun, a data frame with
a bad FCS or a length outside 64 to 9,216 counts counter 17, is not forwarded, and its credits and share are free again. With
link retry, a good frame ahead of the LSN expected is discarded and RETRY_REQ for the expected LSN is queued. While the
quadrants run, BIRTH_DEADLINE makes every earlier SEQ of the record count as having left, DOMAIN_IDLE_RELEASE removes a record
exactly if no frame is held on it, and FENCE_HOLD_TIMEOUT of a held frame of a service drops exactly that frame from the held
ones that stay closed, but not in the very cycle in which its limit expires (the model's choice, log 84). Each completes in
every state. (R29, R43, R44, R51, R52, R57, R59, R97, R98, R100, R244, R248) -/
def Obligations.FramesAreCheckedAndOrdered : Prop :=
  (∀ (p : Port) (rx : RxFrame) (s : State),
    let n := p.toNat
    let x := s.port n
    let len := rx.bytes.length + 4
    (x.up = false → exec (.frameReceive p rx) s = .next (if s.trainTakes n rx then
      (s.updPort n fun y => { y with wireRx := y.wireRx + len + 20 }).linkSeen n rx else s)) ∧
    (x.up = true → rx.ctrl = false → rx.preOk = true → rx.fcsOk = true → 64 ≤ len → len ≤ 9216 → x.widthIn = [] →
      x.retryOn = false ∨ rx.lsn = x.lsnExpect → ∃ (u : State) (c : FrameCtx),
        c.bytes = rx.bytes ∧ c.src = .port p ∧ c.vcIn = rx.vc ∧ c.share = frameCells rx.bytes ∧ c.fid = s.nextFid ∧
        u.nextFid = s.nextFid + 1 ∧ u.regs = s.regs ∧ u.home = s.home ∧ u.waiting = s.waiting ∧ u.held = s.held ∧ u.doms = s.doms ∧
        u.queues = s.queues ∧ (u.port n).received = modNth x.received rx.vc.toNat (· + BitVec.ofNat 32 rx.cells.toNat) ∧
        (u.port n).ingUsed = x.ingUsed + frameCells rx.bytes ∧
        (u.port n).lsnExpect = (if x.retryOn then x.lsnExpect + 1 else x.lsnExpect) ∧
        (s.isOvdu (n / 256) rx.bytes = false → beyondOf x rx = 0 → exec (.frameReceive p rx) s = .next (u.forwardFrame c n false)) ∧
        (s.isOvdu (n / 256) rx.bytes = true → len < 66 → exec (.frameReceive p rx) s = .next (u.dropDamaged c n 2)) ∧
        (s.isOvdu (n / 256) rx.bytes = true → 66 ≤ len → oOp rx.bytes ≠ 0xF →
          (u.headerCheck n rx (beyondOf x rx) = none → exec (.frameReceive p rx) s = .next (u.forwardFrame c n true)) ∧
          ∀ k a, u.headerCheck n rx (beyondOf x rx) = some (k, a) → k ≠ 6 →
            let dropped := u.dropFrame mashPlace c (n / 256) (16 + k) a
            exec (.frameReceive p rx) s = .next (if k = 9 then (u.endFault c n rx (beyondOf x rx) a).getD dropped else dropped))) ∧
    (x.up = true → rx.ctrl = false → rx.preOk = true → x.retryOn = false → x.widthIn = [] →
      rx.fcsOk = false ∨ len < 64 ∨ 9216 < len → len < 64 ∨ (∀ q, s.rb .flrCtrl [q] 0 = false) → ∃ t, exec (.frameReceive p rx) s = .next t ∧
        t.ctr n 17 = (s.countPort n 17).ctr n 17 ∧ t.waiting = s.waiting ∧ t.held = s.held ∧ t.nextFid = s.nextFid + 1 ∧
        (t.port n).ingUsed = x.ingUsed ∧
        (t.port n).freed = modNth x.freed rx.vc.toNat (· + BitVec.ofNat 32 rx.cells.toNat)) ∧
    (x.up = true → rx.ctrl = false → rx.preOk = true → rx.fcsOk = true → x.retryOn = true → x.widthIn = [] →
      x.reqPending = false → rx.lsn ≠ x.lsnExpect → (rx.lsn - x.lsnExpect).toNat < 32768 →
      ∃ t, exec (.frameReceive p rx) s = .next t ∧ t = { s with ports := t.ports } ∧
        (t.port n).ctl = x.ctl ++ [.retryReq x.lsnExpect] ∧ (t.port n).lsnExpect = x.lsnExpect ∧
        (t.port n).reqPending = true)) ∧
  ∀ (q : Quad) (d : Domain) (s : State), (∀ sq, (∃ t, exec (.birthDeadline q d) s = .next t) ∧
    (∃ t, exec (.domainIdleRelease q d) s = .next t) ∧ ∃ t, exec (.fenceHoldTimeout q d sq) s = .next t) ∧ (s.live = true →
    (∀ r w, s.domRec q.toNat d = some r → r.birth = some w → precedes r.l w.2 = true →
      ∃ t r', exec (.birthDeadline q d) s = .next t ∧ t.domRec q.toNat d = some r' ∧ r'.birth = none ∧
        ∀ y, 1 ≤ (w.2 - y).toNat → (w.2 - y).toNat < 2 ^ 30 → hasLeft r' y = true) ∧
    (s.domRec q.toNat d = none → exec (.birthDeadline q d) s = .next s) ∧
    (s.hasHeld q.toNat d = true → exec (.domainIdleRelease q d) s = .next s) ∧
    (s.hasHeld q.toNat d = false → ∃ t, exec (.domainIdleRelease q d) s = .next t ∧ t = { s with doms := t.doms } ∧
      t.domRec q.toNat d = none ∧ ∀ r ∈ s.doms, ¬(r.quad.toNat = q.toNat ∧ r.dom = d) → r ∈ t.doms) ∧
    (∀ sq, (∀ h ∈ s.held, ¬(h.quad = q ∧ h.dom = d ∧ h.seq = sq)) → exec (.fenceHoldTimeout q d sq) s = .next s) ∧
    (∀ h sv, s.held.find? (fun h' => h'.quad = q && decide (h'.dom = d) && h'.seq = h.seq) = some h →
      (s.time.core = h.since + 2000 * s.rf .portFence [q.toNat] 0 16 → exec (.fenceHoldTimeout q d h.seq) s = .next s) ∧
      (h.wait.ctx.src = .service sv → s.time.core ≠ h.since + 2000 * s.rf .portFence [q.toNat] 0 16 →
        ∃ t, exec (.fenceHoldTimeout q d h.seq) s = .next t ∧ h ∉ t.held ∧ ∀ k ∈ t.held, k ∈ s.held)))

/-- For every state whose quadrants run: PACK_WAIT_EXPIRY sends the open cell of a stream in which a frame ended, with the
next number. STAGE1_SLOT and STAGE2_LANE_START send exactly the head of their queue when the slot exists, is not used yet, and
a lane is free after those the other stage claims, and else change nothing, but a poisoned head, or one that fails TCHK, is
discarded and noted at the end of its stream; CROSSBAR_JOIN takes the head of its arrival lane, with the cells that came in
earlier cycles in place, to the end of its stream. After CELL_RESEQUENCE of a stream with nothing held back no cell with the
expected number waits. CELL_LOSS_TIMEOUT with nothing missing changes nothing; else it counts counter 42 of the output
quadrant. While a reset holds the quadrants none of them changes anything. (R104, R105, R107, R108, R109, R110, R111, R112,
R114, R364) -/
def Obligations.CellsMoveThroughTheFloor : Prop :=
  ∀ s : State,
    (s.live = false → ∀ st q g y, exec (.packWaitExpiry st) s = .next s ∧ exec (.stage1Slot q g) s = .next s ∧
      exec (.stage2LaneStart q y) s = .next s ∧ exec (.crossbarJoin q g) s = .next s ∧ exec (.cellResequence st) s = .next s ∧
      exec (.cellLossTimeout st) s = .next s) ∧
    (s.live = true →
      (∀ st, (s.stream st).endedAt = none → exec (.packWaitExpiry st) s = .next s) ∧
      (∀ st, (s.stream st).endedAt ≠ none → (s.stream st).frags ≠ [] → ∃ t, exec (.packWaitExpiry st) s = .next t ∧
        (t.stream st).frags = [] ∧ (t.stream st).used = 0 ∧ (t.stream st).next = (s.stream st).next + 1) ∧
      (∀ (q : Quad) (g : Group) (c : Cell) (rest : List Cell),
        let x := q.toNat
        let t := s.time.core
        let y := (x + slotOffset g.toNat t) % 4
        let free := s.lanesTaken x y + (if t % 2 = 0 then (s.s2q x y).length else 0) < (s.lanesAt x y t).length
        (hasSlot g.toNat t = false ∨ y = x ∨ s.dirDown x y = true ∨ s.slotTaken x g.toNat = true ∨ s.s1q x g.toNat y = [] →
          exec (.stage1Slot q g) s = .next s) ∧
        (hasSlot g.toNat t = true → y ≠ x → s.dirDown x y = false → s.slotTaken x g.toNat = false → s.s1q x g.toNat y = c :: rest →
          (c.poisoned = true ∨ tagOk c = false → exec (.stage1Slot q g) s = .next ((s.setS1q x g.toNat y rest).noteLost c)) ∧
          (c.poisoned = false → tagOk c = true → free → exec (.stage1Slot q g) s = .next
            (((s.setS1q x g.toNat y rest).sendLane x y c).updFloor x fun f => { f with slotUsed := f.slotUsed ++ [g.toNat] })) ∧
          (c.poisoned = false → tagOk c = true → ¬free → exec (.stage1Slot q g) s = .next s))) ∧
      (∀ (x y : Quad) (c : Cell) (rest : List Cell), x ≠ y → s.dirDown x.toNat y.toNat = false →
        s.s2q x.toNat y.toNat = c :: rest →
        let t := s.time.core
        let free := s.lanesTaken x.toNat y.toNat + (if t % 2 = 1 then s.s1Ready x.toNat y.toNat t else 0) <
          (s.lanesAt x.toNat y.toNat t).length
        (c.poisoned = true ∨ tagOk c = false → exec (.stage2LaneStart x y) s = .next ((s.setS2q x.toNat y.toNat rest).noteLost c)) ∧
        (c.poisoned = false → tagOk c = true → free → exec (.stage2LaneStart x y) s =
          .next ((s.setS2q x.toNat y.toNat rest).sendLane x.toNat y.toNat c)) ∧
        (c.poisoned = false → tagOk c = true → ¬free → exec (.stage2LaneStart x y) s = .next s)) ∧
      (∀ (q : Quad) (l : Group) (c : Cell) (rest : List Cell),
        let key := (q.toNat * 64 + l.toNat) * 64 + (l.toNat + s.time.core) % 64
        let u := s.settleArrivals
        (SMap.get u.lanesIn key [] = [] → exec (.crossbarJoin q l) s = .next u) ∧
        (SMap.get u.lanesIn key [] = c :: rest → ∃ t, exec (.crossbarJoin q l) s = .next t ∧
          SMap.get t.lanesIn key [] = rest ∧ t = { u with lanesIn := t.lanesIn, reseq := t.reseq } ∧
          (tagOk c = true → (c.cseq - (s.reseqOf c.st).expect).toNat < 8192 →
            (s.reseqOf c.st).cells.any (fun k => k.cseq = c.cseq) = false → c ∈ (t.reseqOf c.st).cells))) ∧
      (∀ st, (s.stream st).held = [] → ∃ t, exec (.cellResequence st) s = .next t ∧
        ∀ c ∈ (t.reseqOf st).cells, c.cseq ≠ (t.reseqOf st).expect) ∧
      (∀ st, (s.reseqOf st).missingAt = none → exec (.cellLossTimeout st) s = .next s) ∧
      (∀ st, (s.reseqOf st).missingAt ≠ none → (s.reseqOf st).cells.any (fun c => c.cseq = (s.reseqOf st).expect) = false →
        s.missingFrames st = [] → ∃ t, exec (.cellLossTimeout st) s = .next t ∧
          t.ctr (1024 + streamTo st) 42 = (s.countQuad (streamTo st) 42).ctr (1024 + streamTo st) 42))

/-- For every waiting line of a running block with a unicast frame at its head: nothing moves while the floor is partitioned
or its output is under a transit hold; a frame for a port that is unarmed (or down, in large configuration) is dropped under
queue counter 6, one past AGE_LIMIT_US under 5; else it is admitted exactly if its queue with it stays within the threshold,
and without room a general frame is dropped under 4 and any other class waits (a yellow one that the whole threshold would
refuse too is counted at its port as well: the model's reading, log 38). AGE_DISCARD_WAITING leaves no unicast frame past its
age in the line. The replicator's next copy with room joins its queue behind the others, its cells charged, and the item goes
on with its other copies. (R101, R118, R119, R121, R122, R123, R127, R132, R151) -/
def Obligations.FramesAreAdmittedOrDropped : Prop :=
  ∀ s : State, s.live = true →
    (∀ (src : IngressSrc) (vc : BitVec 3) (w : Waiting) (rest : List Waiting) (sh p : Nat),
      s.waitList (waitKey src vc.toNat) = w :: rest → w.target = .unicast sh p →
      let f := w.ctx.bytes
      let n := s.queueOf p f
      let popped : State := { s with waiting := SMap.set s.waiting (waitKey src vc.toNat) rest [] }
      let room := (s.queue p n).depth + frameCells f ≤
        (if s.isGeneral (p / 256) f = true ∧ w.ctx.yellow = true then s.threshold (p / 256) / 2 else s.threshold (p / 256))
      let e := Instr.frameAdmit src vc
      (s.partitioned = true → exec e s = .next s) ∧
      (s.partitioned = false →
        ((s.port p).armed = false ∨ ((s.port p).up = false ∧ s.smallClass = false) →
          exec e s = .next (popped.dropWaiting w.ctx p n 6)) ∧
        ((s.port p).armed = true → (s.port p).up = true ∨ s.smallClass = true →
          (s.tooOld w.ctx.stampUs = true → exec e s = .next (popped.dropWaiting w.ctx p n 5)) ∧
          (s.tooOld w.ctx.stampUs = false → s.transitHold (srcQuad w.ctx.src) (p / 256) = true → exec e s = .next s) ∧
          (s.tooOld w.ctx.stampUs = false → s.transitHold (srcQuad w.ctx.src) (p / 256) = false →
            (room → exec e s = .next (popped.admitTo w p n (frameCells f))) ∧
            (¬room → s.isGeneral (p / 256) f = false → exec e s = .next s) ∧
            (¬room → s.isGeneral (p / 256) f = true → w.ctx.yellow = false →
              exec e s = .next (popped.dropWaiting w.ctx p n 4)) ∧
            (∀ i : Port, ¬room → s.isGeneral (p / 256) f = true → w.ctx.yellow = true → w.ctx.src = .port i →
              exec e s = .next ((popped.countPort i.toNat 10).dropWaiting w.ctx p n 4)))))) ∧
    (∀ src vc, s.waitList (waitKey src vc.toNat) = [] → exec (.frameAdmit src vc) s = .next s) ∧
    (∀ src vc, s.held = [] → ∃ t, exec (.ageDiscardWaiting src vc) s = .next t ∧
      (∀ w ∈ t.waitList (waitKey src vc.toNat), ∀ sh p, w.target = .unicast sh p → s.tooOld w.ctx.stampUs = false) ∧
      ∀ w ∈ s.waitList (waitKey src vc.toNat), s.tooOld w.ctx.stampUs = false → w ∈ t.waitList (waitKey src vc.toNat)) ∧
    (∀ q : Quad, (s.floor q.toNat).repl = [] → exec (.groupCopyAdmit q) s = .next s) ∧
    ∀ (q : Quad) (item : ReplItem) (items : List ReplItem) (cp cp2 : Copy) (cps : List Copy) (p : Nat),
      (s.floor q.toNat).repl = item :: items → item.copies = cp :: cp2 :: cps → item.ctx.poison = none → (∀ i ∈ items, i.ctx.fid ≠ item.ctx.fid) →
      s.isOvdu q.toNat item.ctx.bytes = true → oFence item.ctx.bytes = false → oDl item.ctx.bytes = false →
      s.sprayDom q.toNat cp.sheaf (oDom item.ctx.bytes) (oSeq item.ctx.bytes) = some p →
      s.tooOld item.ctx.stampUs = false → s.isGeneral q.toNat item.ctx.bytes = false →
      let n := s.queueOf p item.ctx.bytes
      (s.queue p n).depth + frameCells item.ctx.bytes ≤ s.threshold q.toNat →
      ∃ t e, exec (.groupCopyAdmit q) s = .next t ∧ (t.queue p n).entries = (s.queue p n).entries ++ [e] ∧
        e.bytes = item.ctx.bytes ∧ e.members = cp.members ∧ e.group = true ∧
        (t.queue p n).depth = (s.queue p n).depth + frameCells item.ctx.bytes ∧
        (t.floor q.toNat).repl = { item with copies := cp2 :: cps, charged := true } :: items

/-- For every port of a running block: where its light is not allowed nothing is sent. A link control frame that waits goes
first; a port that is not up sends only a TRAIN frame, in training step 4. On an up port a replay goes next, with its own LSN,
without using credits. Then a head of VC0 that is alone in its port's queues, with credits, open fences, unshaped, inside the
retry buffer and ahead of every launch, leaves its queue and is the newest frame on the fibre, with the port's next LSN, and
with an inverted FCS exactly if its fault was found after its cut-through had begun; without credits nothing is sent. A frame
that would run into a pending launch is not sent. (R29, R51, R137, R138, R244, R245, R248, R271, R310) -/
def Obligations.BoundariesSendWhatTheRulesChoose : Prop :=
  ∀ (p : Port) (s : State), s.live = true →
    let n := p.toNat
    let x := s.port n
    (s.txAllowed n = false → ∀ b, exec (.frameBoundary p b) s = .next s) ∧
    (s.txAllowed n = true → ∀ b,
      (∀ c rest, x.ctl = c :: rest →
        (s.fitsLaunch n 66 = true → exec (.frameBoundary p b) s = .next ((s.updPort n fun x => { x with ctl := rest }).sendCtl n c)) ∧
        (s.fitsLaunch n 66 = false → exec (.frameBoundary p b) s = .next s)) ∧
      (x.ctl = [] → x.up = false → exec (.frameBoundary p b) s =
        .next (if x.trainStep = 4 ∧ s.fitsLaunch n 66 = true then s.sendCtl n .train else s)) ∧
      (∀ e rest, x.ctl = [] → x.up = true → x.replay = e :: rest →
        (s.fitsLaunch n (frameLen e.bytes) = false → exec (.frameBoundary p b) s = .next s) ∧
        (s.fitsLaunch n (frameLen e.bytes) = true → ∃ t, exec (.frameBoundary p b) s = .next t ∧ t.out.tx =
            { port := n, pre := preamble e.lsn true false e.vc.toNat e.cells, lsn := e.lsn, replay := true, vc := e.vc.toNat,
              cells := e.cells, bytes := e.bytes, fcsOk := true } :: s.out.tx ∧
          (t.port n).replay = rest ∧ (t.port n).sent = x.sent ∧ (t.port n).lsnNext = x.lsnNext)) ∧
      (∀ e, x.ctl = [] → x.up = true → x.replay = [] → (s.queue n 7).entries = [e] →
        (∀ k, k < 7 → (s.queue n k).entries = []) → x.drr = {} → s.tooOld e.stampUs = false →
        s.headFenced (n / 256) e = (s, false) →
        (s.creditsFor n 0 e.cells = false → ∃ t, exec (.frameBoundary p b) s = .next t ∧ t.out = s.out) ∧
        (s.creditsFor n 0 e.cells = true → s.shaped n 7 = false → (s.queue n 7).cal = none → s.headCost n 7 ≤ s.vcQuantum n 0 →
          s.vcQuantum n 0 ≠ 0 → s.retryFits n (frameLen e.bytes) = true → s.fitsLaunch n (frameLen e.bytes) = true →
          x.widthAt = [] → x.widthPend = [] → e.result = none → ∃ t fr, exec (.frameBoundary p false) s = .next t ∧ t.out.tx = fr :: s.out.tx ∧
            fr.port = n ∧ fr.lsn = x.lsnNext ∧ fr.vc = 0 ∧ fr.replay = false ∧ fr.fcsOk = !e.faulty ∧
            (t.port n).lsnNext = x.lsnNext + 1 ∧ (t.queue n 7).entries = [])))

/-- For every state with a PCIe link and the quadrant released: SHAPER_COMMIT keeps the rate in force and commits TM_SHP_A
(staged or committed, at most 1,600,000) with the BURST written; POLICER_COMMIT commits the three words' fields in the same
way; each drops what was staged, and supersedes what was committed before it but for entries of an earlier FREE, of which the
last stays until a boundary. At REFILL_BOUNDARY of a running block the last entry committed at an earlier FREE takes effect,
as does POL_EN as last written at an earlier FREE, and only those of the present FREE stay pending, a policer's buckets hold
at most their burst sizes, and an enabled policer gains 128 times its rate, up to its burst size. A queue whose calendar slot
FREE has reached is placed anew; one with no slot, or a slot ahead, stays as it is. (R142, R143, R145, R146, R147, R149, R152)
-/
def Obligations.ShapersAndPolicersTakeEffectAtBoundaries : Prop :=
  ∀ s : State,
    let now := s.time.free.toNat
    (∀ (p : Port) (n : BitVec 3) (v : W32), s.hif.linkUp = true →
      let ix := pix p.toNat ++ [n.toNat]
      (s.quadHeld (p.toNat / 256) = true →
        exec (.shaperCommit p n v) s = .next { s with err := { s.err with ignored := min 65535 (s.err.ignored + 1) } } ∧
        exec (.policerCommit p n v) s = .next { s with err := { s.err with ignored := min 65535 (s.err.ignored + 1) } }) ∧
      (s.quadHeld (p.toNat / 256) = false →
        (∃ t, exec (.shaperCommit p n v) s = .next t ∧
          t.queue p.toNat n.toNat = { s.queue p.toNat n.toNat with
            pend := (match ((s.queue p.toNat n.toNat).pend.filter fun e => decide (e.2.2 ≠ now)).getLast? with | some e => [e] | none => []) ++
              [(min 1600000 (s.stagedTm .tmShpA ix % 2 ^ 21), v.toNat % 2 ^ 16, now)] } ∧
          SMap.find t.stageTm (Reg.tmShpA.addr ix) = none ∧ t.reg .tmShpB ix = v.toNat % 2 ^ 16) ∧
        ∃ t c, exec (.policerCommit p n v) s = .next t ∧
          t.pol p.toNat n.toNat = { s.pol p.toNat n.toNat with
            pend := (match ((s.pol p.toNat n.toNat).pend.filter fun e => decide (e.2 ≠ now)).getLast? with | some e => [e] | none => []) ++
              [(c, now)] } ∧
          c.cir = s.stagedTm .tmPolA ix % 2 ^ 21 ∧ c.pir = s.stagedTm .tmPolB ix % 2 ^ 21 ∧ c.cbs = v.toNat % 2 ^ 16 ∧
          c.pbs = v.toNat / 2 ^ 16 ∧ t.reg .tmPolC ix = v.toNat)) ∧
    (∀ (p : Port) (n : BitVec 3), s.live = true →
      ((s.queue p.toNat n.toNat).cal = none → exec (.shaperCalendarSlot p n) s = .next s) ∧
      (∀ k, (s.queue p.toNat n.toNat).cal = some k →
        exec (.shaperCalendarSlot p n) s = .next (if 4 * k ≤ now then s.replaceQueue p.toNat n.toNat else s))) ∧
    (s.live = false → exec .refillBoundary s = .next s) ∧
    (s.live = true → SMap.wf {} s.queues = true → SMap.wf {} s.pols = true → ∃ t, exec .refillBoundary s = .next t ∧
      (∀ p n, n < 8 → (t.queue p n).pend = (s.queue p n).pend.filter (fun e => decide (e.2.2 = now)) ∧
        (t.queue p n).rate = (match ((s.queue p n).pend.filter fun e => decide (e.2.2 ≠ now)).getLast? with
          | some e => e.1 | none => (s.queue p n).rate) ∧
        (t.queue p n).entries = (s.queue p n).entries) ∧
      (∀ q, q < 4 → s.tmPolEn.length = 4 → nthD t.tmPolEn q true =
        match ((SMap.get s.tmPend q []).filter fun e => decide (e.2.2 ≠ now)).getLast? with | some e => e.2.1 | none => nthD s.tmPolEn q true) ∧
      ∀ p k, p < 1024 → k < 8 →
        let y := t.pol p k
        let on := y.cfg.en && nthD t.tmPolEn (p / 256) true
        y.pend = (s.pol p k).pend.filter (fun e => decide (e.2 = now)) ∧
        y.cfg = (match ((s.pol p k).pend.filter fun e => decide (e.2 ≠ now)).getLast? with | some e => e.1 | none => (s.pol p k).cfg) ∧ y.tc ≤ 256000 * y.cfg.cbs ∧ y.tp ≤ 256000 * y.cfg.pbs ∧
        (on = true → (s.pol p k).cfg.en = true → nthD s.tmPolEn (p / 256) true = true →
          y.tc = min (256000 * y.cfg.cbs) (min (256000 * y.cfg.cbs) (s.pol p k).tc + 128 * y.cfg.cir)))

/-- For every running home: a request that a host record of its key precedes waits (the model's reading of R73, log 31). Else
a learn at the head of the queue that finds no entry and a free way puts there a learned entry of its key and sheaf, with HIT
set (R79 gives it no HIT: log 31); a request that finds a static entry of another sheaf, or any of another sheaf with MOVE_EN
0, is counted as denied; one that finds a learned entry sets its sheaf and HIT and keeps its key and fence. A refresh sets
HIT, and the home keeps what HIT was before the cycle's refreshes. A sweeper visit whose removal must wait for an earlier
change of its key changes nothing (log 31); any other goes by HIT before the refreshes of its own cycle, whose effect stays:
it clears HIT and AGED of a learned entry that was hit, marks one that was not, removes a marked one, leaves static and empty
ways, and goes on to the next bucket. A reply goes to the oldest frame that waits for its key and is installed unless stale;
an invalidate leaves no line of its key in the key's set and marks the waiting lookups stale. (R69, R70, R71, R73, R79, R80,
R81, R84) -/
def Obligations.TheTableLearnsAgesAndForgets : Prop :=
  ∀ (h : Quad) (s : State), s.live = true →
    let n := h.toNat
    (∀ r rest, (s.table n).queue = r :: rest →
      let i := if r.move then Instr.moveRequestApply h else .learnRequestApply h
      let u := s.updTable n fun t => { t with queue := t.queue.filter fun x => !decide (x = r) }
      (s.recordAhead n r.key r.since = true → exec i s = .next s) ∧
      (s.recordAhead n r.key r.since = false →
      (∀ b w e, u.homeFind n r.key = (u, some (b, w, e)) → r.sheaf < 1024 →
        (eSheaf e ≠ r.sheaf → eStatic e = true ∨ s.rb .tblLearn [n] 1 = false →
          exec i s = .next ((u.countPort r.port 135).noteChange n r.key 2)) ∧
        (eSheaf e = r.sheaf ∨ (eStatic e = false ∧ s.rb .tblLearn [n] 1 = true) → ∃ t, exec i s = .next t ∧
          eSheaf (t.way n b w) = r.sheaf ∧ eHit (t.way n b w) = true ∧ eFenced (t.way n b w) = eFenced e ∧
          eStatic (t.way n b w) = eStatic e ∧ eKey (t.way n b w) = eKey e)) ∧
      (u.homeFind n r.key = (u, none) → r.move = true → exec i s = .next (u.noteChange n r.key 2)) ∧
      (∀ w, u.homeFind n r.key = (u, none) → r.move = false → r.sheaf < 1024 → u.freeWay n (u.buckets n r.key).1 = (u, some w) →
        ∃ t, exec i s = .next t ∧
        let e := t.way n (u.buckets n r.key).1 w
        eKey e = r.key ∧ eSheaf e = r.sheaf ∧ eHit e = true ∧ eStatic e = false ∧ eFenced e = false ∧ eJobAny e = true))) ∧
    ((s.table n).queue = [] → exec (.learnRequestApply h) s = .next s ∧ exec (.moveRequestApply h) s = .next s) ∧
    (∀ k rest b w e, (s.table n).refresh = k :: rest →
      let u := s.updTable n fun t => { t with refresh := rest }
      u.homeFind n k = (u, some (b, w, e)) → ∃ t, exec (.refreshMessage h) s = .next t ∧
        t = { u.setWay n b w (eSet e 124 1 1) with tables := t.tables } ∧
        t.hitBefore n k = some ((u.hitBefore n k).getD (eHit e)) ∧
        t.table n = { u.table n with refreshedAt := (t.table n).refreshedAt, refreshed := (t.table n).refreshed }) ∧
    ((s.table n).refresh = [] → exec (.refreshMessage h) s = .next s) ∧
    ((s.table n).sweepPos ≠ 0 → (s.table n).sweepMs ≠ 0 → s.sweepHeld n (s.table n).sweepPos = true →
      exec (.sweeperVisit h) s = .next s) ∧
    ((s.table n).sweepPos ≠ 0 → (s.table n).sweepMs ≠ 0 → (s.table n).sweepPos < 2 ^ 21 →
      s.sweepHeld n (s.table n).sweepPos = false →
      (∀ w, w < 4 → parityOk (s.way n (s.table n).sweepPos w) = true) → ∃ t, exec (.sweeperVisit h) s = .next t ∧
      (t.table n).sweepPos = ((s.table n).sweepPos + 1) % 2 ^ 21 ∧
      ∀ w, w < 4 →
        let e := s.way n (s.table n).sweepPos w
        let again := 2 * b2n (s.hitBefore n (eKey e)).isSome
        t.way n (s.table n).sweepPos w =
          (if eValid e = false ∨ eStatic e = true then e else if s.hitAtVisit n e = true then eSet e 123 2 again
           else if eAged e = false then eSet e 123 2 (1 + again) else 0)) ∧
    (∀ (q : Quad) (key : W64) (eo : Option Entry) (rest : List TblMsg), s.chanOf n q.toNat = .reply key eo :: rest →
      (s.lookups.find? (fun w => w.quad = q && w.key = key) = none →
        exec (.remoteCacheReply h q) s = .next (s.setChan n q.toNat rest)) ∧
      (∀ w, s.lookups.find? (fun w => w.quad = q && w.key = key) = some w →
        let u := { s.setChan n q.toNat rest with lookups := s.lookups.filter fun x => x.ctx.fid ≠ w.ctx.fid }
        let v := match eo with
          | some e => if w.stale then u else u.cacheInstall q.toNat e
          | none => u
        exec (.remoteCacheReply h q) s = .next (v.resumeLookup w.ctx eo))) ∧
    ∀ (q : Quad) (key : W64) (cmd : Option CmdRef) (rest : List TblMsg), s.chanOf n q.toNat = .invalidate key cmd :: rest →
      ∃ t, exec (.invalidate h q) s = .next t ∧ t.chanOf n q.toNat = rest ∧ t.home = s.home ∧
        (∀ x ∈ t.cache, x ∈ s.cache ∧ ¬(x.1 / 4 = q.toNat * 2 ^ 18 + s.cacheSet q.toNat key ∧ eKey x.2.entry = key)) ∧
        ∀ w ∈ t.lookups, w.quad = q → w.key = key → w.stale = true

/-- For a TABLE_LOAD offered with 1 to 2^20 records, none of a held home (a home found with quadrant 0's seed, and a held one
refused STATE: log 33), each record waits at its home and the command counts them; another count is refused RANGE.
HOST_RECORD_APPLY of a malformed record changes no entry and writes LRES 4, of a service EID to install 5; a record whose key
stands replaces the entry, a delete clears it, LRES 1; an absent delete is 3, and an install of an absent key into a free way
puts it there; one that an earlier learn of its key precedes waits (log 31). TABLE_DUMP of homes in order answers the number
written and the number found, BUFFER_SHORT if they differ, of entries that all pass their parity check with no change to any;
the entries go where the command says. TABLE_REHASH with new seeds both different from the active ones starts the walk at
bucket 0 with the old set outgoing; STATE is asked before the seeds (log 33); each visit of the walk goes on by one bucket,
one that would move an entry with a waiting earlier change waits (log 31), and the end of all 2^21 ends the walk and completes
the command behind its invalidates. A walk in progress refuses another with STATE. (R72, R76, R77, R78, R86, R87, R88) -/
def Obligations.TheTableIsLoadedDumpedAndRehashed : Prop :=
  (∀ (c : CmdRing) (g : Fetched) (s : State),
    let d := g.bytes
    let t := s.started c g
    let ref := cmdName c g
    (s.offers c g 0x05 → ∀ bytes,
      let n := leAt d 16 4
      let recs := (List.range n).map fun i => BitVec.ofNat 128 (leAt bytes (16 * i) 16)
      (n = 0 ∨ 2 ^ 20 < n → exec (.tableLoad c (some bytes)) s = .next (t.refuse ref .range 0)) ∧
      (1 ≤ n → n ≤ 2 ^ 20 → (∀ e ∈ recs, s.quadDown (s.homeOf 0 (eKey e)) = false) → ∃ u, exec (.tableLoad c (some bytes)) s = .next u ∧
        u = { t with hostRecs := u.hostRecs, loads := u.loads } ∧ u.loads = s.loads ++ [(ref, n, [0, 0, 0, 0, 0])] ∧
        u.hostRecs.length = s.hostRecs.length + n ∧
        ∀ i, i < n → u.hostRecs[s.hostRecs.length + i]? =
          some { entry := BitVec.ofNat 128 (leAt bytes (16 * i) 16), addr := leAt d 8 8 + 16 * i, cmd := ref,
                 since := s.time.core })) ∧
    (s.offers c g 0x06 → ∀ q l v, q < 4 → leAt d 8 1 = 2 ^ q → s.quadStill q = false → t.dumpHome q = (v, l) →
      let fit := min l.length (leAt d 24 8 / 16)
      let u := if fit = 0 then v else v.hostWrite (leAt d 16 8) ((l.take fit).flatMap fun e => leBytes 16 e.toNat)
      exec (.tableDump c) s = .next (u.complete ref (if fit < l.length then .bufferShort else .success)
        (leBytes 4 fit ++ leBytes 4 l.length)) ∧
      ((∀ x ∈ s.home, x.1 / 2 ^ 23 = q → parityOk (s.way q (x.1 / 4 % 2 ^ 21) (x.1 % 4)) = true) → u.home = s.home ∧ u.inner = s.inner)) ∧
    (s.offers c g 0x07 →
      let h := leAt d 8 1
      let s1 := leAt d 12 2
      let s2 := leAt d 14 2
      (4 ≤ h → exec (.tableRehash c) s = .next (t.refuse ref .range 0)) ∧
      (h < 4 → (s.table h).rehash ≠ none → exec (.tableRehash c) s = .next (t.refuse ref .state 0)) ∧
      (h < 4 → s.quadStill h = false → (s.table h).rehash = none →
        (s1 = s.rf .tblBucket [h] 0 16 ∨ s2 = s.rf .tblBucket [h] 16 16 → exec (.tableRehash c) s = .next (t.refuse ref .range 0)) ∧
        (s1 ≠ s.rf .tblBucket [h] 0 16 → s2 ≠ s.rf .tblBucket [h] 16 16 → ∃ u, exec (.tableRehash c) s = .next u ∧
          u = { t with regs := u.regs, tables := u.tables } ∧ u.rf .tblBucket [h] 0 16 = s1 ∧ u.rf .tblBucket [h] 16 16 = s2 ∧
          (u.table h).rehash = some (0, BitVec.ofNat 16 (s.rf .tblBucket [h] 0 16), BitVec.ofNat 16 (s.rf .tblBucket [h] 16 16)) ∧
          (u.table h).rehashCmd = some ref ∧ (u.table h).seedSel = !(s.table h).seedSel)))) ∧
  ∀ (q : Quad) (s : State), s.live = true →
    (∀ r, s.hostRecs.find? (fun r => s.homeOf 0 (eKey r.entry) = q.toNat) = some r →
      let h := q.toNat
      let e := r.entry
      let own : Prop := eKtype e = 1 ∧ s.isSvcEid 0 (fld (eKey e).toNat 0 32) = true
      let left := s.hostRecs.eraseP (fun r => decide (s.homeOf 0 (eKey r.entry) = h))
      let u := { s with hostRecs := left }
      let lres (t : State) (k : Nat) : Prop := t.hostRecs = left ∧
        SMap.find t.out.hostMem (r.addr + 9) = some (BitVec.ofNat 8 (eFld e 76 4 * 16 + k))
      (s.learnAhead h (eKey e) r.since = true ∨ s.changeHeld h (eKey e) 0 = true → exec (.hostRecordApply q) s = .next s) ∧
      (s.learnAhead h (eKey e) r.since = false → s.changeHeld h (eKey e) 0 = false → s.loads = [] → s.hif.busMaster = true →
        (s.recordBad e = true → ∃ t, exec (.hostRecordApply q) s = .next t ∧ t.home = s.home ∧ lres t 4) ∧
        (s.recordBad e = false →
          (eFld e 64 2 = 0 → own → ∃ t, exec (.hostRecordApply q) s = .next t ∧ t.home = s.home ∧ lres t 5) ∧
          (∀ b w o, u.homeFind h (eKey e) = (u, some (b, w, o)) →
            (eFld e 64 2 = 1 → ∃ t, exec (.hostRecordApply q) s = .next t ∧ t.way h b w = 0 ∧ lres t 1) ∧
            (eFld e 64 2 = 0 → ¬own → s.held = [] → ∃ t, exec (.hostRecordApply q) s = .next t ∧
              t.way h b w = loadEntry e (eHit o) (eAged o) (eSeedSel o) ∧ lres t 1)) ∧
          (u.homeFind h (eKey e) = (u, none) →
            (eFld e 64 2 = 1 → ∃ t, exec (.hostRecordApply q) s = .next t ∧ t.home = s.home ∧ lres t 3) ∧
            (∀ w, eFld e 64 2 = 0 → ¬own → s.held = [] → u.freeWay h (u.buckets h (eKey e)).1 = (u, some w) →
              ∃ t, exec (.hostRecordApply q) s = .next t ∧ lres t 1 ∧
                let x := t.way h (u.buckets h (eKey e)).1 w
                eKey x = eKey e ∧ eSheaf x = eSheaf e ∧ eFenced x = eFenced e ∧ eStatic x = eStatic e ∧ eHit x = false ∧
                  eAged x = false))))) ∧
    (s.hostRecs = [] → exec (.hostRecordApply q) s = .next s) ∧
    ((s.table q.toNat).rehash = none → exec (.rehashBucketVisit q) s = .next s ∧ exec (.rehashWalkEnd q) s = .next s) ∧
    (∀ b o1 o2, (s.table q.toNat).rehash = some (b, o1, o2) →
      (b < 2 ^ 21 → s.rehashHeld q.toNat b = true → exec (.rehashBucketVisit q) s = .next s) ∧
      (b < 2 ^ 21 → s.rehashHeld q.toNat b = false → exec (.rehashWalkEnd q) s = .next s ∧ ∃ t, exec (.rehashBucketVisit q) s = .next t ∧
        (t.table q.toNat).rehash = some (b + 1, o1, o2) ∧ (t.table q.toNat).rehashCmd = (s.table q.toNat).rehashCmd) ∧
      (2 ^ 21 ≤ b → exec (.rehashBucketVisit q) s = .next s ∧ ∃ t, exec (.rehashWalkEnd q) s = .next t ∧
        (t.table q.toNat).rehash = none ∧ t.home = s.home ∧
        ∀ ref, (s.table q.toNat).rehashCmd = some ref → s.msgs = [] → t.cmdOf ref = none))

/-- For an ENDPOINT_FENCE that a ring offers: the changes of its key that wait at the home are applied first (the model's
choice, log 31). Then, for an endpoint with a sound entry and no frame held, FENCED becomes the value asked for, a set fence
makes the entry static, every other way keeps its entry, and the command waits until no invalidate of its own is on its way. A
value above 1 is refused RANGE and a service EID OWN_EID. Outside P0 SHEAF_SET and GROUP_SET are refused STATE. In P0 they are
refused for exactly the cause that their checks find, and an empty SHEAF_SET IN_USE for a sheaf that an entry names; otherwise
the record stands under its number (an empty one removes it), every other one stays, and the command succeeds. A failed read
of the record ends each with DMA_ERROR. (R72, R90, R125, R389, R390) -/
def Obligations.FencesSheavesAndGroupsAreSet : Prop :=
  ∀ (c : CmdRing) (g : Fetched) (s : State),
    let d := g.bytes
    let t := s.started c g
    let ref := cmdName c g
    (s.offers c g 0x08 →
      let eid := leAt d 8 4
      let on := leAt d 12 1
      let h := s.homeOf 0 (eidKey eid)
      (2 ≤ on → exec (.endpointFence c) s = .next (t.refuse ref .range 0)) ∧
      (on < 2 → s.isSvcEid 0 eid = true → exec (.endpointFence c) s = .next (t.refuse ref .ownEid 0)) ∧
      (on < 2 → s.isSvcEid 0 eid = false → s.quadStill h = true → exec (.endpointFence c) s = .next (t.refuse ref .state 0)) ∧
      let v := t.settleKey h (eidKey eid)
      ((∀ r ∈ s.hostRecs, eKey r.entry ≠ eidKey eid) → (∀ r ∈ (s.table h).queue, r.key ≠ eidKey eid) → v = t) ∧
      (∀ b w e, on < 2 → s.isSvcEid 0 eid = false → s.quadStill h = false → v.homeFind h (eidKey eid) = (v, some (b, w, e)) →
        v.held = [] → ∃ u : State, exec (.endpointFence c) s = .next u.tblSettle ∧
          u.tblWait = v.tblWait ++ [(ref, [], some ⟨h, eidKey eid, some (eFenced e, eStatic e)⟩)] ∧
          (eFenced (u.way h b w) = true ↔ on = 1) ∧ (on = 1 → eStatic (u.way h b w) = true) ∧ eKey (u.way h b w) = eKey e ∧
          (∀ k, k ≠ homeKey h b w → SMap.get u.home k 0 = SMap.get v.home k 0) ∧
          u = { v with home := u.home, dirs := u.dirs, tblWait := u.tblWait })) ∧
    (s.offers c g 0x03 →
      exec (.sheafSet c none) s = .next (t.dmaError ref (leAt d 8 8)) ∧
      ∀ bytes, (s.pwr.state ≠ 0 → exec (.sheafSet c (some bytes)) s = .next (t.refuse ref .state 0)) ∧ (s.pwr.state = 0 →
        let r := padTo 64 bytes
        let k := leAt r 0 2
        (∀ cause x, t.sheafBad r = some (cause, x) → exec (.sheafSet c (some bytes)) s = .next (t.refuse ref cause x)) ∧
        (t.sheafBad r = none → leAt r 4 1 = 0 → t.sheafNamed k = (t, true) →
          exec (.sheafSet c (some bytes)) s = .next (t.refuse ref .inUse 0)) ∧
        (t.sheafBad r = none → (leAt r 4 1 = 0 → t.sheafNamed k = (t, false)) →
          ∃ u : State, exec (.sheafSet c (some bytes)) s = .next (u.succeed ref) ∧
          u = { t with sheaves := u.sheaves, dirs := u.dirs } ∧ (leAt r 4 1 = 0 → u.sheafAt k = none) ∧
          (leAt r 4 1 ≠ 0 → u.sheafAt k =
            some ⟨decide (leAt r 2 1 = 2), leAt r 3 1, (List.range (leAt r 4 1)).map fun j => leAt r (8 + 2 * j) 2⟩) ∧
          ∀ j, j ≠ k → u.sheafAt j = s.sheafAt j))) ∧
    (s.offers c g 0x04 →
      exec (.groupSet c none) s = .next (t.dmaError ref (leAt d 8 8)) ∧
      ∀ bytes, (s.pwr.state ≠ 0 → exec (.groupSet c (some bytes)) s = .next (t.refuse ref .state 0)) ∧ (s.pwr.state = 0 →
        let r := padTo 160 bytes
        let k := leAt r 0 2
        (∀ cause, t.groupBad r = some cause → exec (.groupSet c (some bytes)) s = .next (t.refuse ref cause 0)) ∧
        (t.groupBad r = none → ∃ u : State, exec (.groupSet c (some bytes)) s = .next (u.succeed ref) ∧
          u = { t with groups := u.groups } ∧ (leAt r 2 1 = 0 → SMap.find u.groups k = none) ∧
          (leAt r 2 1 ≠ 0 → ∃ x, SMap.find u.groups k = some x ∧ x.kind = leAt r 2 1 ∧ x.base.toNat = leAt r 4 4 ∧
            x.mask.toNat = leAt r 8 8 ∧ x.job.toNat = leAt r 16 2 ∧ x.vid = leAt r 18 2) ∧
          ∀ j, j ≠ k → SMap.find u.groups j = SMap.find s.groups j)))

/-- For a PLAN_LOAD that a ring offers: a failed read ends it with DMA_ERROR; slots of 4,096 and more are refused RANGE, taken
ones, outside P0 and in RETURNED, STATE; an image that breaks a rule is refused IMAGE at its offset; a sound image whose
resources are free stands in its slot with BASE 0 and no instance, and the command succeeds; one that cannot fit even after
the present unloads ends INSUFFICIENT and changes nothing else. QUEUED_PLAN_LOAD installs the head of the queue exactly when
it fits, while the firmware runs. The order of the causes RANGE, STATE, CLASS, IMAGE, OWN_EID, BUFFER is the model's (log 52).
PLAN_UNLOAD withdraws a queued load, refuses an empty slot STATE and marks a plan. PLAN_UNLOAD_COMPLETE of a marked plan with
no open instance leaves the slot and its streams free and completes with the count of aborted instances; with an open one, or
without the firmware, nothing changes. (R158, R159, R160, R161, R183, R315, R332, R427) -/
def Obligations.PlansAreLoadedAndUnloaded : Prop :=
  (∀ (c : CmdRing) (g : Fetched) (s : State),
    let d := g.bytes
    let t := s.started c g
    let ref := cmdName c g
    let slot := leAt d 8 2
    (s.offers c g 0x10 → exec (.planLoad c none) s = .next (t.dmaError ref (leAt d 16 8)) ∧
      ∀ bytes,
        let b := padTo (max 128 (min (leAt bytes 8 4) (2 ^ 20))) bytes
        let img := readImage b
        let fault := imageFault b (s.rf .portTcmap [leAt b 30 1 % 4] 0 16)
        (4096 ≤ slot → exec (.planLoad c (some bytes)) s = .next (t.refuse ref .range 0)) ∧
        (slot < 4096 → (s.plan slot).isSome = true ∨ (∃ x ∈ s.loadQ, x.slot = slot) ∨ s.pwr.state ≠ 0 ∨ s.sec.lcState = 3 →
          exec (.planLoad c (some bytes)) s = .next (t.refuse ref .state 0)) ∧
        (slot < 4096 → s.plan slot = none → (∀ x ∈ s.loadQ, x.slot ≠ slot) → s.pwr.state = 0 → s.sec.lcState ≠ 3 →
          (leAt b 22 1 = 2 → s.smallClass = true → exec (.planLoad c (some bytes)) s = .next (t.refuse ref .cls 0)) ∧
          (s.smallClass = false → (∀ o, fault = some o → exec (.planLoad c (some bytes)) s = .next (t.refuse ref .image o)) ∧
            (fault = none → s.namesOwn img = true → exec (.planLoad c (some bytes)) s = .next (t.refuse ref .ownEid 0)) ∧
            (fault = none → s.namesOwn img = false → leAt d 32 4 < img.ctxDepth * slotBytes img →
              exec (.planLoad c (some bytes)) s = .next (t.refuse ref .buffer 0)) ∧
            (fault = none → s.namesOwn img = false → img.ctxDepth * slotBytes img ≤ leAt d 32 4 →
              (∀ q ∈ planQuads img, s.quadStill q = false) →
              (s.planFits img = true → ∃ u : State, exec (.planLoad c (some bytes)) s = .next (u.succeed ref) ∧
                ∃ p, u.plan slot = some p ∧ p.img = img ∧ p.base = 0 ∧ p.insts = [] ∧ p.outBuf = leAt d 24 8 ∧
                  ∀ j, j ≠ slot → u.plan j = s.plan j) ∧
              (s.planFits img = false → s.planWillFit img = false →
                exec (.planLoad c (some bytes)) s = .next (t.complete ref .insufficient [])))))) ∧
    (s.offers c g 0x11 → slot < 4096 → leAt d 10 1 ≤ 1 →
      (∀ x, s.loadQ.find? (fun x => x.slot = slot) = some x → exec (.planUnload c) s =
        .next ((State.refuse { t with loadQ := s.loadQ.filter fun x => decide (x.slot ≠ slot) } x.cmd .state 0).complete ref .success
          (leBytes 4 0))) ∧
      ((∀ x ∈ s.loadQ, x.slot ≠ slot) → s.plan slot = none → exec (.planUnload c) s = .next (t.refuse ref .state 0)) ∧
      (∀ p, (∀ x ∈ s.loadQ, x.slot ≠ slot) → s.plan slot = some p → p.unload = none → leAt d 10 1 = 0 → exec (.planUnload c) s =
        .next (t.updPlan slot fun p => { p with unload := some (false, ref), aborted := 0, cut := [] })))) ∧
  ∀ s : State, s.live = true →
    (s.loadQ = [] ∨ s.hif.fwReady = false → exec .queuedPlanLoad s = .next s) ∧
    (∀ x r, s.loadQ = x :: r →
      (s.planFits x.img = false → exec .queuedPlanLoad s = .next s) ∧
      (s.planFits x.img = true → s.hif.fwReady = true → (∀ q ∈ planQuads x.img, s.quadDown q = false) → ∃ u : State,
        exec .queuedPlanLoad s = .next (u.succeed x.cmd) ∧ u.loadQ = r ∧ ∃ p, u.plan x.slot = some p ∧ p.img = x.img ∧ p.insts = [])) ∧
    ∀ (sl : PlanSlot) (p : Plan), s.plan sl.toNat = some p →
      (p.unload = none → exec (.planUnloadComplete sl) s = .next s) ∧
      (∀ m ref, p.unload = some (m, ref) →
        (p.insts.any isOpen = true → exec (.planUnloadComplete sl) s = .next s) ∧
        (s.hif.fwReady = false → exec (.planUnloadComplete sl) s = .next s) ∧
        (p.insts.any isOpen = false → s.hif.fwReady = true → ∃ u : State,
          exec (.planUnloadComplete sl) s = .next (u.complete ref .success (leBytes 4 p.aborted)) ∧ u.plan sl.toNat = none ∧
          (∀ k ∈ u.kstreams, k.2.slot ≠ sl.toNat) ∧ ∀ j, j ≠ sl.toNat → u.plan j = s.plan j))

/-- For every running quadrant: the oldest frame of its Mash service, for no plan or with another key, meets check 20; one
whose JOB is not the plan's meets check 2 with the plan's JOB; else it is treated as its checks judge it. An idle tun resolves
the pending carries of its chunks; its only work, a part of a message with another part still to come, adds each of its
elements to the chunk's once by the plan's operation, and is gone. An open instance past its count phase, with LEVELS 2, opens
by itself only a chunk that has room, WAITING or not. INSTANCE_ABORT of an open instance ends it as aborted and answers
NOT_OPEN for another. IDENTITY_MOVE of a free instance's index to a free identity binds it from that instance on and answers
the old one; outside P0 it is refused STATE. (R36, R59, R162, R164, R165, R167, R169, R171, R179, R190) -/
def Obligations.MashTakesAndAddsContributions : Prop :=
  (∀ (q : Quad) (s : State), s.live = true →
    (SMap.get s.mashIn q.toNat [] = [] → exec (.mashFrame q) s = .next s) ∧
    (∀ c rest, SMap.get s.mashIn q.toNat [] = c :: rest →
      let u := { s with mashIn := SMap.set s.mashIn q.toNat rest [] }
      (s.plan (mSlot c.bytes) = none → exec (.mashFrame q) s = .next (u.mashNoWindow c)) ∧
      ∀ p, s.plan (mSlot c.bytes) = some p →
        (oWinKey c.bytes ≠ p.img.key.toNat → exec (.mashFrame q) s = .next (u.mashNoWindow c)) ∧
        (oWinKey c.bytes = p.img.key.toNat →
          let look := if u.judgeMash p c.bytes true = .nack 5 0 then u.homeEntry (srcQuad c.src) (eidKey (oSrc c.bytes)) else (u, none)
          let fenced := look.2.any eFenced
          let v := look.1
          let p' := (v.plan p.slot).getD p
          (p.unload = none → oJob c.bytes ≠ p.img.job.toNat → p.slot = mSlot c.bytes →
            exec (.mashFrame q) s = .next (v.mashNack c q.toNat 2 p.img.job.toNat)) ∧
          (∀ k x, v.judgeMash p' c.bytes fenced = .nack k x → exec (.mashFrame q) s = .next (v.mashNack c q.toNat k x)) ∧
          (∀ k, v.judgeMash p' c.bytes fenced = .ackOnly k → exec (.mashFrame q) s = .next (v.mashAckOnly c k)) ∧
          (∀ x, v.judgeMash p' c.bytes fenced = .count x → exec (.mashFrame q) s = .next (v.takeCount c p' x)) ∧
          (∀ cn k, v.judgeMash p' c.bytes fenced = .contrib cn k →
            exec (.mashFrame q) s = .next (v.takeContrib c p' q.toNat cn k)) ∧
          (∀ cn k vs, v.judgeMash p' c.bytes fenced = .ringPart cn k vs →
            exec (.mashFrame q) s = .next (v.takePartial c p' q.toNat cn k none)) ∧
          (∀ cn k st vs, v.judgeMash p' c.bytes fenced = .ringKiln cn k st vs →
            exec (.mashFrame q) s = .next (v.takePartial c p' q.toNat cn k (some (st, vs)))) ∧
          (∀ cn k, v.judgeMash p' c.bytes fenced = .ringResult cn k →
            exec (.mashFrame q) s = .next (v.takeResult c p' q.toNat cn k)))) ∧
    (∀ tun : BitVec 6, (s.tun (64 * q.toNat + tun.toNat)).queue = [] →
      exec (.tunService q tun) s = .next (s.resolveTun (64 * q.toNat + tun.toNat))) ∧
    (∀ (tun : BitVec 6) (w : Work) (p : Plan) (i : Inst) (ch : Chunk) (m : MsgSt) (k : Nat),
      s.tun (64 * q.toNat + tun.toNat) = { queue := [w], deficit := [] } → s.plan w.slot = some p → findInst p w.n = some i →
      findChunk i w.c = some ch → w.ring = false → p.img.kind ≠ 6 → ch.msgs.find? (fun m => m.idx = w.idx) = some m →
      w.idx < p.img.contribs.length → k ∈ expected p.img i w.c w.idx → k ≠ w.part → k ∉ m.added →
      let lo := (partSpan p.img i w.c w.idx w.part).1
      let vs := decodeElems p.img.inFmt ((partSpan p.img i w.c w.idx w.part).2 - lo) w.payload
      ∃ t i' ch', exec (.tunService q tun) s = .next t ∧ (t.tun (64 * q.toNat + tun.toNat)).queue = [] ∧
        t.inst w.slot w.n = some i' ∧ findChunk i' w.c = some ch' ∧ ch'.elems.length = ch.elems.length ∧
        ∀ j e, ch.elems[j]? = some e → ch'.elems[j]? =
          (if lo - chunkLo p.img w.c ≤ j then
            match vs[j - (lo - chunkLo p.img w.c)]? with
            | some x => some (contribute p.img.op e x).1
            | none => some e
          else some e)) ∧
    (∀ (sl : PlanSlot) (n : InstNo), s.inst sl.toNat n.toNat = none → exec (.chunkSelfOpen sl n) s = .next s) ∧
    ∀ (sl : PlanSlot) (n : InstNo) (p : Plan) (i : Inst), s.plan sl.toNat = some p → findInst p n.toNat = some i →
      (i.state = .ended ∨ i.before ≠ .running ∨ p.img.levels ≠ 2 → exec (.chunkSelfOpen sl n) s = .next s) ∧
      (∀ c, i.state ≠ .ended → i.before = .running → p.img.levels = 2 →
        (List.range (min (numChunks p.img i.extent) (lowOf p.img i + p.img.pipeDepth))).find? (fun c => ringK p.img c = 1 &&
          !i.done.contains c && (findChunk i c).isNone && (List.range p.img.contribs.length).all fun k => (expected p.img i c k).isEmpty) = some c →
        (s.chunkRoom p i c = none → exec (.chunkSelfOpen sl n) s =
          .next ((s.openChunk sl.toNat n.toNat c).advanceChunk sl.toNat n.toNat c)) ∧
        (s.chunkRoom p i c ≠ none → exec (.chunkSelfOpen sl n) s = .next s))) ∧
  ∀ (c : CmdRing) (g : Fetched) (s : State),
    let d := g.bytes
    let t := s.started c g
    let ref := cmdName c g
    let slot := leAt d 8 2
    (s.offers c g 0x12 → slot < 4096 → leAt d 12 4 < 2 ^ 20 →
      (∀ i, s.inst slot (leAt d 12 4) = some i → i.state ≠ .ended → exec (.instanceAbort c) s =
        .next (((t.updInst slot (leAt d 12 4) fun x => { x with hostAbort := true }).endInst slot (leAt d 12 4) .aborted).succeed ref)) ∧
      (s.inst slot (leAt d 12 4) = none → exec (.instanceAbort c) s = .next (t.complete ref .notOpen []))) ∧
    (s.offers c g 0x13 → slot < 4096 → leAt d 20 4 < 2 ^ 20 → leAt d 10 1 = 0 →
      (s.plan slot = none ∨ s.pwr.state ≠ 0 → exec (.identityMove c) s = .next (t.refuse ref .state 0)) ∧
      ∀ p, s.pwr.state = 0 → s.plan slot = some p → leAt d 12 2 < p.img.contribs.length → instD p (leAt d 20 4) < 2 ^ 19 →
        findInst p (leAt d 20 4) = none → s.isSvcEid 0 (leAt d 16 4) = false →
        (∀ j, j < p.img.contribs.length → j ≠ leAt d 12 2 → namedFrom p false j (leAt d 20 4) (leAt d 16 4) = false) →
        ∃ u p', exec (.identityMove c) s =
            .next (State.complete u ref .success (leBytes 4 (contribEid p (leAt d 20 4) (leAt d 12 2)))) ∧
          u.plan slot = some p' ∧ p'.img = p.img ∧ p'.base = p.base ∧
          contribEid p' (leAt d 20 4) (leAt d 12 2) = leAt d 16 4)

/-- For every running block: CONTEXT_TIMER_EXPIRY of an instance that owes nothing changes nothing; with WAIT 0 it ends the
instance as aborted; with WAIT 1 the instance waits, keeps where it was, and its outcome so far is written as incomplete.
WAIT_TIMER_EXPIRY ends a waiting instance as aborted. RESULT_RETRY_TIMEOUT of a receiver that has answered or is lost changes
nothing; with sends left it sends again, else the receiver is lost and the instance's chunks settle. RESULT_ACK and
RESULT_NACK take only a response of their own OP at the head: an ACK of a result marks its receiver acknowledged and settles
the chunk, a NACK retries it. (R37, R167, R168, R173, R177, R180, R182) -/
def Obligations.MashTimersEndWaitAndRetry : Prop :=
  ∀ s : State, s.live = true →
    (∀ (sl : PlanSlot) (n : InstNo) (p : Plan) (i : Inst), s.plan sl.toNat = some p → findInst p n.toNat = some i →
      let owed := (List.range p.img.contribs.length).filter (owesContrib p.img i)
      (owesAny (s.stuck sl.toNat) p.img i = false → exec (.contextTimerExpiry sl n) s = .next s) ∧
      (i.state = .waiting ∨ i.state = .ended → exec (.contextTimerExpiry sl n) s = .next s) ∧
      (i.state = .counting ∨ i.state = .running → owesAny (s.stuck sl.toNat) p.img i = true →
        (p.img.wait = false → ∃ u i' : _, exec (.contextTimerExpiry sl n) s = .next (State.endInst u sl.toNat n.toNat .aborted) ∧
          u.inst sl.toNat n.toNat = some i' ∧ (∀ k ∈ owed, k ∈ i'.missing) ∧ i'.state = i.state) ∧
        (p.img.wait = true → ∃ u i' : _,
          exec (.contextTimerExpiry sl n) s = .next (State.writeOutcome u sl.toNat n.toNat .incomplete) ∧
          u.inst sl.toNat n.toNat = some i' ∧ (∀ k ∈ owed, k ∈ i'.missing) ∧ i'.state = .waiting ∧ i'.before = i.state ∧
          i'.outcome = some .incomplete ∧ i'.owed = owed ∧ i'.chunks = i.chunks)) ∧
      (i.state = .waiting → exec (.waitTimerExpiry sl n) s = .next (s.endInst sl.toNat n.toNat .aborted)) ∧
      (i.state ≠ .waiting → exec (.waitTimerExpiry sl n) s = .next s) ∧
      ∀ (c : BitVec 43) (r : BitVec 12) (ch : Chunk) (x : RecvSt), findChunk i c.toNat = some ch →
        ch.recvs.find? (fun y => y.idx = r.toNat) = some x →
        (x.acked = true ∨ x.lost = true → exec (.resultRetryTimeout sl n c r) s = .next s) ∧
        (x.acked = false → x.lost = false → x.sends < p.img.tries →
          exec (.resultRetryTimeout sl n c r) s = .next (s.resend sl.toNat n.toNat c.toNat r.toNat)) ∧
        (x.acked = false → x.lost = false → p.img.tries ≤ x.sends → ∃ u i' : _,
          exec (.resultRetryTimeout sl n c r) s =
            .next (State.settleChunks (State.settleChunk u sl.toNat n.toNat c.toNat) sl.toNat n.toNat) ∧
          u.inst sl.toNat n.toNat = some i' ∧ r.toNat ∈ i'.lost)) ∧
    ∀ (q : Quad) (c : FrameCtx) (rest : List FrameCtx), SMap.get s.respIn q.toNat [] = c :: rest →
      (oOp c.bytes ≠ 7 → exec (.resultAck q) s = .next s) ∧ (oOp c.bytes ≠ 8 → exec (.resultNack q) s = .next s) ∧
      ∀ p n ch r, oFlow c.bytes < 0x1000 → s.plan (oFlow c.bytes) = some p → answeredResult p c.bytes (oOp c.bytes) = some (n, ch, r) →
        let u := State.freeIngress { s with respIn := SMap.set s.respIn q.toNat rest [] } c
        (oOp c.bytes = 7 → exec (.resultAck q) s = .next ((u.updChunk p.slot n ch fun x =>
          { x with recvs := updWhere x.recvs (fun y => y.idx = r) fun y => { y with acked := true } }).settleChunk p.slot n ch)) ∧
        (oOp c.bytes = 8 → exec (.resultNack q) s = .next (u.retryReceiver p.slot n ch r))

/-- For every array of a running quadrant: DUTY_STEP changes nothing but a duty, by at most 1, within 0 to 8. An array with
work below duty 8 raises it if it is raising, or if the raising arrays and the lower-numbered ones that wait leave a turn of
RAMP_BUDGET, else it waits; never more than RAMP_BUDGET raise at once. A tile is issued only at duty 8, the oldest in the
array's operand buffer, and joins the issued ones. KILN_TILE_OUTPUT takes the oldest issued: a first pass of two leaves its
BF16 intermediate on the array, a last send pass is quantized and its complete ring parts are sent with HOP_ROUNDED set, a
last receive pass goes to Mash, a spoilt group as NaN. CURRENT_HOLD_EXPIRY lowers only an idle array at full duty.
IN_SERVICE_TEST starts with KAT_EN 1 and when due on such an array, FORCED_TEST once KAT_FORCE_MS have passed since the last
pass: at once at full duty with nothing in the array, else it waits for that. A result without a test changes nothing; a pass
is dated and shows the outputs on bank 3; a failed test whose retest passes puts the array last in its stream's list and
leaves it its second passes, one whose retest fails retires it, and its tiles go back in order, to begin anew. A partial is
handed over once, when its first tile has room and no other waits. (R218, R224, R226, R227, R228, R230, R232, R233, R234,
R235, R237, R238) -/
def Obligations.KilnArraysWorkTestAndRetire : Prop :=
  (∀ (q : Quad) (a : BitVec 8) (s : State), s.live = true →
    let k := 256 * q.toNat + a.toNat
    let x := s.array k
    let sk := 64 * q.toNat + x.stream
    let idle : Prop := x.duty = 8 ∧ s.arrayWork k = false ∧ x.issued = [] ∧ x.testing = false
    let mine := (List.range 256).map (256 * q.toNat + ·)
    let raisers (s : State) : Nat := (mine.filter fun j => (s.array j).raising).length
    let before := (mine.filter fun j => j < k && !(s.array j).raising && (s.array j).duty < 8 && s.arrayWork j).length
    (x.duty ≤ 8 → ∃ t, exec (.dutyStep q a) s = .next t ∧ t = { s with arrays := t.arrays } ∧ (t.array k).duty ≤ 8 ∧
      (t.array k).duty ≤ x.duty + 1 ∧ x.duty ≤ (t.array k).duty + 1 ∧ (∀ j, j ≠ k → t.array j = s.array j) ∧
      (raisers s ≤ s.rampBudget q.toNat → raisers t ≤ s.rampBudget q.toNat) ∧
      (s.arrayWork k = true → x.duty < 8 → x.raising = true ∨ raisers s + before < s.rampBudget q.toNat →
        (t.array k).duty = x.duty + 1 ∧ (t.array k).raising = decide (x.duty + 1 < 8)) ∧
      (s.arrayWork k = true → x.duty < 8 → x.raising = false → s.rampBudget q.toNat ≤ raisers s + before → t = s) ∧
      (s.arrayWork k = false → x.lowering = true ∨ x.raising = true → x.testing = false → 0 < x.duty →
        (t.array k).duty + 1 = x.duty)) ∧
    (x.duty ≠ 8 ∨ x.forced = true ∨ 2 ≤ x.issued.length ∨ s.nextTile k = none → exec (.kilnTileIssue q a) s = .next s) ∧
    (∀ num tile, x.duty = 8 → x.forced = false → x.issued.length < 2 → s.nextTile k = some (num, tile) →
      ∃ t, exec (.kilnTileIssue q a) s = .next t ∧ t = { s with arrays := t.arrays } ∧
        (t.array k).issued = x.issued ++ [(num, tile)] ∧ (∀ y ∈ (t.array k).opbuf ++ (t.array k).mid, y.1 ≠ num) ∧
        (t.array k).testing = false ∧ (∀ j, j ≠ k → t.array j = s.array j) ∧ ∀ y ∈ x.opbuf ++ x.mid, num ≤ y.1) ∧
    (x.issued = [] → exec (.kilnTileOutput q a) s = .next s) ∧
    (∀ y rest, x.issued = y :: rest → s.plan y.2.slot = none → exec (.kilnTileOutput q a) s =
      .next (s.updArray k fun x => { x with issued := rest })) ∧
    (∀ num tile rest p prog st, x.issued = (num, tile) :: rest → s.plan tile.slot = some p → p.img.kiln = some prog →
      s.kstream sk = some st →
      let u := s.updArray k fun x => { x with issued := rest }
      let later (data : List (List Nat)) : State := u.updArray k fun x =>
        { x with mid := x.mid ++ [(num, { tile with pass := 2, first := tile.data, data := (data.flatMap id).map (BitVec.ofNat 32) })] }
      let bank (j : Nat) := nthD x.banks (nthD prog.sendBanks j 0) []
      let last := bank (prog.passes - 1)
      let per := if prog.passes = 2 then 16 else 1
      let vs := vecsOf 16 tile.data
      (st.recv = false → prog.passes = 2 → tile.pass = 1 → ∃ fl, exec (.kilnTileOutput q a) s = .next (State.beginForced
        (((later (vs.mapIdx fun j v => if nthD (badGroups bf16 16 vs) (j / 16) false then List.replicate 16 bf16.nan
          else (kRead (bank 0) false (v.map (kOf bf16))).map fun o => (kBf16 o).1)).arithFlags tile.slot tile.n fl).pump prog sk) k)) ∧
      (st.recv = false → prog.passes ≠ 2 ∨ tile.pass ≠ 1 →
        let ws := if prog.passes = 2 then gatherAll vs else vs
        let e0 := tile.group * kGroupCoded prog
        let bad (e : Nat) : Bool := nthD (badGroups bf16 per vs) (e / kGroupCoded prog) false ||
          nthD (badGroups fp32 per (ws.map fun v => (kRead last false (v.map (kOf bf16))).take prog.lanes)) (e / kGroupCoded prog) false
        let out := quantize prog p.img.seed.toNat tile.c e0 (sendOutputs prog last ws) bad
        ∃ fl, fl ||| afHopRounded = fl ∧ fl ||| out.2 = fl ∧ exec (.kilnTileOutput q a) s = .next (State.beginForced
          ((((u.updKstream sk fun z => { z with coded := z.coded ++ out.1.mapIdx fun j v => (tile.n, tile.c, e0 + j, v) }).arithFlags
            tile.slot tile.n fl).sendCodedParts p sk tile.n tile.c q.toNat).pump prog sk) k)) ∧
      (st.recv = true → tile.pass = 1 →
        let outs := ((chunksOf prog.lanes tile.data.length tile.data).mapIdx fun j v =>
          if nthD (recvBad prog tile) (j / per) false then List.replicate 16 fp32.nan else kRead last true (v.map (kDecode prog)))
        (prog.passes ≠ 2 → exec (.kilnTileOutput q a) s =
          .next (((u.addKilnOutputs p tile (outs.flatMap id)).pump prog sk).beginForced k)) ∧
        (prog.passes = 2 → ∃ fl, exec (.kilnTileOutput q a) s = .next
          ((((later (outs.map fun v => v.map fun o => (kBf16 o).1)).arithFlags tile.slot tile.n fl).pump prog sk).beginForced k))) ∧
      (st.recv = true → tile.pass ≠ 1 → exec (.kilnTileOutput q a) s = .next (((u.addKilnOutputs p tile
        ((gatherAll vs).flatMap fun v => if v.all (· = bf16.nan) then List.replicate 16 fp32.nan
          else kRead (bank 0) true (v.map (kOf bf16)))).pump prog sk).beginForced k))) ∧
    (idle → exec (.currentHoldExpiry q a) s = .next (s.updArray k fun x => { x with lowering := true })) ∧
    (¬idle → exec (.currentHoldExpiry q a) s = .next s) ∧
    (idle → s.rb .klnCtrl [q.toNat] 0 = true → x.state = .free ∨ x.state = .reserved →
      (∀ at_, x.lastTest = some at_ → at_ + max 1 (s.rf .klnKat [q.toNat] 0 16) * 2000 ≤ s.time.core) →
      exec (.inServiceTest q a) s = .next (s.updArray k fun x => { x with testing := true, lowering := false, lastTest := some s.time.core })) ∧
    (¬idle ∨ s.rb .klnCtrl [q.toNat] 0 = false → exec (.inServiceTest q a) s = .next s) ∧
    (s.rf .klnKat [q.toNat] 16 16 ≠ 0 → x.passAt + 2000000 * s.rf .klnKat [q.toNat] 16 16 ≤ s.time.core →
      s.rb .klnCtrl [q.toNat] 0 = true → x.state = .free ∨ x.state = .reserved →
      (x.duty = 8 → x.issued = [] → x.testing = false → ∃ t, exec (.forcedTest q a) s = .next t ∧ t = { s with arrays := t.arrays } ∧
        t.array k = { x with testing := true, forced := true, lowering := false, lastTest := some s.time.core }) ∧
      (x.duty ≠ 8 ∨ x.issued ≠ [] ∨ x.testing = true → exec (.forcedTest q a) s =
        .next (s.updArray k fun x => { x with forced := true }))) ∧
    (∀ r, x.testing = false → exec (.inServiceTestResult q a r) s = .next s) ∧
    (x.testing = true → exec (.inServiceTestResult q a .pass) s = .next (s.updArray k fun x =>
      { x with testing := false, forced := false, passAt := s.time.core, passNs := s.time.ns,
               katOut := katOutputs (nthD x.banks 3 []) })) ∧
    (x.testing = true → exec (.inServiceTestResult q a .abandoned) s = .next (if x.forced then s
      else s.updArray k fun x => { x with testing := false, lastTest := none })) ∧
    (∀ v st, x.testing = true → x.state = .reserved → x.stream < 64 → s.kstream sk = some st →
      (∃ t st', exec (.inServiceTestResult q a (.fail v .pass)) s = .next t ∧ (t.array k).state = .reserved ∧
        t.kstream sk = some st' ∧ st'.arrays = st.arrays.filter (fun b => decide (b ≠ a.toNat)) ++ [a.toNat] ∧
        (t.array k).mid = (x.issued ++ x.mid).filter (fun y => decide (y.2.pass = 2)) ∧ (t.array k).issued = []) ∧
      ∃ t st', exec (.inServiceTestResult q a (.fail v .failed)) s = .next t ∧ (t.array k).state = .retired ∧
        t.kstream sk = some st' ∧ a.toNat ∉ st'.arrays ∧
        (st.arrays = [a.toNat] → s.freeArray q.toNat = none → st.feed = [] → st.waiting = [] → st'.arrays = [] ∧
          st'.tiles = ((x.issued ++ x.mid).map fun y =>
            (y.1, if y.2.pass = 2 then { y.2 with pass := 1, data := y.2.first, first := [] } else y.2)).foldl
              (fun l z => insTile z l) (x.opbuf.foldl (fun l z => insTile z l) st.tiles)))) ∧
  ∀ (sl : PlanSlot) (n : InstNo) (c : BitVec 43) (s : State), s.live = true →
    (s.inst sl.toNat n.toNat = none → exec (.kilnPartialHandover sl n c) s = .next s) ∧
    ∀ p i prog ch key st, s.plan sl.toNat = some p → findInst p n.toNat = some i → p.img.kiln = some prog →
      findChunk i c.toNat = some ch → s.planStream sl.toNat ch.quad false = some (key, st) → s.kstream key = some st →
      (ch.ringSent = true → exec (.kilnPartialHandover sl n c) s = .next s) ∧
      (st.feed ≠ [] → exec (.kilnPartialHandover sl n c) s = .next s) ∧
      (level0Done p.img i ch = true → partialDone p.img i ch = true → ch.ringSent = false → ch.result = none →
        ringK p.img c.toNat ≠ 0 → p.img.ringForm = 3 → st.feed = [] →
        s.streamLoad prog key st + 2 * min ch.elems.length 2048 + fmtBytes prog.codedFmt
          (min (2048 / kGroup prog) (ch.elems.length / kGroup prog) * kGroupCoded prog) ≤ 393216 →
        ∃ t i' ch' st', exec (.kilnPartialHandover sl n c) s = .next t ∧ t.inst sl.toNat n.toNat = some i' ∧
          findChunk i' c.toNat = some ch' ∧ ch'.ringSent = true ∧ ch'.elems = ch.elems.map resolve ∧ t.kstream key = some st' ∧
          (1 ≤ ch.elems.length → ch.elems.length ≤ 2048 → st.tiles = [] → st.waiting = [] → st'.entered = st.entered + 1))

/-- For every ring that offers a PITCH or Cask-layout command: OPEN is refused RANGE, OWN_EID or STATE as its record and the
state say, else a fresh image stands OPEN in the lowest free slot, with no chunk and, where STORE asks for them, at the lowest
free places (the order of these causes, slot and places are the model's, log 66), and a PARTIAL one of the same terms stands
OPEN with the chunks it kept. SEAL of an OPEN image answers the chunks present and leaves it SEALED (FREE without STORE); DROP
frees it; STATUS answers chunks and state. A layout whose sizes sum to 256 and that moves nothing held is taken (what moves
and what is held: log 68): each moved region reads 0, every other byte of every Cask stays. A PUT or GET that fails a check is
answered by its NACK; a stored chunk reads back as sent and becomes present, a present one is only acknowledged; GET of a
present chunk sends the chunk, of an absent or poisoned one PITCH_ABSENT. (R20, R21, R378, R379, R380, R381, R383, R384, R385)
-/
def Obligations.CaskImagesAreOpenedAndServed : Prop :=
  (∀ (c : CmdRing) (g : Fetched) (s : State),
    let d := g.bytes
    let t := s.started c g
    let ref := cmdName c g
    (s.offers c g 0x40 → ∀ bytes,
      let r := padTo 1104 bytes
      let x := recImage r
      let own := (x.srcEid ≠ 0 ∧ s.isSvcEid 0 x.srcEid.toNat = true) ∨
        ∃ l ∈ x.lines, ∃ m ∈ lineMembers l.kind l.base.toNat l.mask, s.isSvcEid 0 m = true
      let named := leAt d 24 4 = 8 ∧ leAt bytes 4 4 = 0
      let slot := s.pitchSlot (leAt bytes 0 4)
      (leAt d 8 1 = 1 →
        (recBad r (leAt d 24 4) = true → exec (.pitchOpen c (some bytes)) s = .next (t.refuse ref .range 0)) ∧
        (recBad r (leAt d 24 4) = false → own → exec (.pitchOpen c (some bytes)) s = .next (t.refuse ref .ownEid 0)) ∧
        (recBad r (leAt d 24 4) = false → ¬own → (s.pitchDown = true ∨ s.sec.lcState = 3) →
          exec (.pitchOpen c (some bytes)) s = .next (t.refuse ref .state 0)) ∧
        (recBad r (leAt d 24 4) = false → ¬own → s.pitchDown = false → s.sec.lcState ≠ 3 →
          (∀ k a b, s.pitchSlot x.id.toNat = none → (List.range 16).find? (fun k => decide ((s.pitchImg k).state = .free)) = some k →
            (x.store = true → s.pitchPlaces k (imgChunks x) false = some a ∧ s.pitchPlaces k (imgChunks x) true = some b) →
            ∃ u : State, exec (.pitchOpen c (some bytes)) s = .next (u.complete ref .success (leBytes 1 k)) ∧
              u.pitchImg k = (if x.store then { x with ext := a, bitmap := b } else x) ∧ (u.pitchImg k).state = .opened ∧
              (u.pitchImg k).present = [] ∧ ∀ j, j ≠ k → u.pitchImg j = s.pitchImg j) ∧
          (∀ k, s.pitchSlot x.id.toNat = some k →
            let y := s.pitchImg k
            (y.state = .opened ∨ y.state = .sealed → exec (.pitchOpen c (some bytes)) s = .next (t.refuse ref .state 0)) ∧
            (y.state = .partly → y.size = x.size → y.job = x.job → y.store = x.store → y.replicate = x.replicate → y.key = x.key →
              ∃ u : State, exec (.pitchOpen c (some bytes)) s = .next (u.complete ref .success (leBytes 1 k)) ∧
                (u.pitchImg k).state = .opened ∧ (u.pitchImg k).present = y.present ∧ (u.pitchImg k).ext = y.ext)))) ∧
      (leAt d 8 1 = 2 → named → (∀ k, slot = some k → (s.pitchImg k).state ≠ .opened →
          exec (.pitchSeal c (some bytes)) s = .next (t.refuse ref .state 0)) ∧
        ∀ k, slot = some k → (s.pitchImg k).state = .opened → ∃ u : State,
          exec (.pitchSeal c (some bytes)) s = .next (u.complete ref .success (leBytes 8 (s.pitchImg k).present.length)) ∧
          u.pitchImg k = (if (s.pitchImg k).store then { s.pitchImg k with state := .sealed } else {})) ∧
      (leAt d 8 1 = 3 → named → (slot = none → exec (.pitchDrop c (some bytes)) s = .next (t.refuse ref .state 0)) ∧
        ∀ k, slot = some k → ∃ u : State, exec (.pitchDrop c (some bytes)) s = .next (u.succeed ref) ∧ u.pitchImg k = {} ∧
          u.cask = s.cask ∧ ∀ j, j ≠ k → u.pitchImg j = s.pitchImg j) ∧
      (leAt d 8 1 = 4 → named → ∀ k, slot = some k → exec (.pitchStatus c (some bytes)) s = .next
        (t.complete ref .success (leBytes 8 (s.pitchImg k).present.length ++ leBytes 1 (s.pitchImg k).state.code))) ∧
      (leAt d 8 1 = 0 ∨ 5 ≤ leAt d 8 1 → exec (.pitchStatus c (some bytes)) s = .next (t.refuse ref .range 0))) ∧
    (s.offers c g 0x09 →
      let q := leAt d 8 1
      let new := leAt d 12 4
      let sizes := fld new 0 8 + fld new 8 8 + fld new 16 8 + fld new 24 8
      (4 ≤ q ∨ sizes ≠ 256 → exec (.caskLayout c) s = .next (t.refuse ref .range 0)) ∧
      (q < 4 → sizes = 256 → s.quadDown q = false → s.layoutHeld q new = true →
        exec (.caskLayout c) s = .next (t.refuse ref .inUse 0)) ∧
      (q < 4 → sizes = 256 → s.quadDown q = false → s.layoutHeld q new = false → ∃ u : State,
        exec (.caskLayout c) s = .next (u.succeed ref) ∧ u.layout q = new ∧ u.pitch = s.pitch ∧
        (∀ k a, k < 4 → caskBase new k ≤ a → a < caskBase new k + caskSize new k → u.caskRead q a 1 =
          (if caskBase (s.layout q) k = caskBase new k ∧ caskSize (s.layout q) k = caskSize new k then s.caskRead q a 1 else [0])) ∧
        ∀ p a, p < 4 → p ≠ q → a < 2 ^ 38 → u.caskRead p a 1 = s.caskRead p a 1))) ∧
  ∀ (q : Quad) (s : State), s.live = true →
    let n := q.toNat
    (SMap.get s.pitchIn n [] = [] → exec (.pitchPut q) s = .next s ∧ exec (.pitchGet q false) s = .next s) ∧
    ∀ f rest, SMap.get s.pitchIn n [] = f :: rest →
      let u := ({ s with pitchIn := SMap.set s.pitchIn n rest [] }).depart (eidDie (oDst f.bytes)) f.bytes
      let ch := oAddr f.bytes / 8192
      let payload := (oPayload f.bytes).take (oLen f.bytes)
      (∀ idx reason detail, u.pitchFails f.bytes = some (idx, reason, detail) →
        (oOp f.bytes = opPut → exec (.pitchPut q) s =
          .next ((u.pitchNack f (srcQuad f.src) idx reason detail).pitchPut n f.bytes false)) ∧
        (oOp f.bytes = opGet → exec (.pitchGet q false) s = .next (u.pitchNack f (srcQuad f.src) idx reason detail))) ∧
      ∀ k, u.pitchFails f.bytes = none → u.pitchSlot (oWinNo f.bytes) = some k →
        let x := u.pitchImg k
        let at_ := nthD x.ext n 0 + 8192 * (ch / 4)
        (oOp f.bytes = opPut → ch ∈ x.present → ∃ t, exec (.pitchPut q) s = .next t ∧ t.pitch = s.pitch ∧ t.cask = s.cask) ∧
        (oOp f.bytes = opPut → ch ∉ x.present → x.store = true → ∃ t, exec (.pitchPut q) s = .next t ∧
          ch ∈ (t.pitchImg k).present ∧ (∀ j ∈ x.present, j ∈ (t.pitchImg k).present) ∧
          t.caskRead n at_ payload.length = payload ∧ ∀ j, j ≠ k → t.pitchImg j = s.pitchImg j) ∧
        (oOp f.bytes = opGet → ch ∉ x.present → exec (.pitchGet q false) s = .next (u.pitchNack f n 59 0x0205 ch)) ∧
        (oOp f.bytes = opGet → ch ∈ x.present → ∃ t, exec (.pitchGet q true) s = .next t ∧ ch ∉ (t.pitchImg k).present ∧
          (∀ j, j ≠ ch → (j ∈ (t.pitchImg k).present ↔ j ∈ x.present)) ∧ t.cask = s.cask) ∧
        (oOp f.bytes = opGet → ch ∈ x.present → exec (.pitchGet q false) s = .next
          (let data := u.caskRead n at_ (chunkBytes x ch)
           let v := (u.freeIngress f).updPitch k fun x => { x with gets := modNth x.gets n (· + 1) }
           let h : Hdr := { op := opGetResp, tc := oTc f.bytes, ecn := oEcn f.bytes, job := oJob f.bytes, flow := oFlow f.bytes,
                            len := data.length, seq := (oSeq f.bytes).toNat, src := oDst f.bytes, dst := oSrc f.bytes,
                            addr := oAddr f.bytes, win := beAt f.bytes 46 8 }
           (v.sendOwn mashPlace n (mkOvdu (v.ovduEtype n) h data) none).1))

/-- For a TAP_SET that a ring offers with a 64-byte record: RULE and FILTER with every field in range stand pending under
their number, START and STOP turn capture on and off and are refused STATE when it is so already, STOP completes at once with
nothing staged; READ copies the records asked for that are not poisoned, and counts only poisoned ones. A drained record takes
its place in the Cask region under the write index and RSEQ, or the host ring, or is counted lost. MODE moves only as R410's
table allows and any other write, RECOVERY without the recovery condition and NORMAL in NORMAL among them, is ignored and
counted; NORMAL stops the sampler and drops its staged records; RECOVERY_EXIT needs the recovery condition gone. EN is taken
outside NORMAL. CNT_CLEAR zeroes VALUE and OVF, or OVF alone, of exactly the counters it names, as they stood before the
increments of its own cycle, which are kept. (R404, R406, R408, R409, R410, R411) -/
def Obligations.CaptureAndModesFollowTheirRules : Prop :=
  (∀ (c : CmdRing) (g : Fetched) (s : State) (b : List Byte),
    let t := s.started c g
    let ref := cmdName c g
    s.offers c g 0x41 → leAt g.bytes 24 4 = 64 →
    let op := leAt b 0 1
    let blockOk := leAt b 32 1 ≤ 7 ∧ leAt b 33 1 ≤ 15 ∧ leAt b 34 1 ≤ 2 ∧ leAt b 35 1 ≤ 2 ∧ leAt b 38 1 ≤ 1 ∧ leAt b 39 1 = 0
    let dest := leAt b 9 1
    let q := leAt b 2 1
    (op = 0 ∨ 6 ≤ op → exec (.tapSetRule c (some b)) s = .next (t.refuse ref .range 0)) ∧
    (op = 1 →
      let ok := leAt b 1 1 ≤ 15 ∧ allZero b 2 2 = true ∧ leAt b 4 2 ≤ 1023 ∧ leAt b 6 2 ≤ 1023 ∧ leAt b 8 1 ≤ 1 ∧
        (dest = 1 ∨ dest = 2) ∧ allZero b 10 22 = true ∧ blockOk
      (¬ok → exec (.tapSetRule c (some b)) s = .next (t.refuse ref .range 0)) ∧
      (ok → dest = 2 → s.tap.running = true → exec (.tapSetRule c (some b)) s = .next (t.refuse ref .state 0)) ∧
      (ok → dest = 1 ∨ s.tap.running = false → ∃ u : State, exec (.tapSetRule c (some b)) s = .next (u.succeed ref) ∧
        u = { t with tap := { s.tap with pendRules := u.tap.pendRules } } ∧
        SMap.find u.tap.pendRules (leAt b 1 1) = some (ruleOf b (dest = 2)) ∧
        ∀ k, k ≠ leAt b 1 1 → SMap.find u.tap.pendRules k = SMap.find s.tap.pendRules k)) ∧
    (op = 2 →
      let ok := leAt b 1 1 ≤ 15 ∧ q ≤ 3 ∧ leAt b 3 1 = 0 ∧ leAt b 4 2 / 256 = q ∧ leAt b 6 2 / 256 = q ∧ leAt b 8 1 ≤ 1 ∧
        allZero b 9 23 = true ∧ blockOk
      (¬ok → exec (.tapSetFilter c (some b)) s = .next (t.refuse ref .range 0)) ∧
      (ok → ∃ u : State, exec (.tapSetFilter c (some b)) s = .next (u.succeed ref) ∧
        u = { t with tap := { s.tap with pendFilters := u.tap.pendFilters } } ∧
        SMap.find u.tap.pendFilters (16 * q + leAt b 1 1) = some (ruleOf b false))) ∧
    (op = 3 → allZero b 1 7 = true → leAt b 8 1 ≤ 1 → allZero b 9 55 = true →
      exec (.tapStart c (some b)) s = .next (if s.tap.running then t.refuse ref .state 0
        else State.succeed { t with tap := { s.tap with running := true, caskStop := decide (leAt b 8 1 = 1) } } ref)) ∧
    (op = 4 → allZero b 1 63 = true →
      (s.tap.running = false → exec (.tapStop c (some b)) s = .next (t.refuse ref .state 0)) ∧
      (s.tap.running = true → s.tap.staged = [] → s.tap.stopCmd = [] →
        exec (.tapStop c (some b)) s = .next (State.succeed { t with tap := { s.tap with running := false } } ref)) ∧
      (s.tap.running = true → s.tap.staged ≠ [] →
        exec (.tapStop c (some b)) s = .next { t with tap := { s.tap with running := false, stopCmd := s.tap.stopCmd ++ [ref] } })) ∧
    (op = 5 → leAt b 1 1 = 0 → q ≤ 3 → allZero b 3 5 = true → allZero b 20 4 = true → allZero b 32 32 = true →
      s.quadDown q = false →
      let first := leAt b 8 8
      let k := leAt b 16 4
      let written := (nthD s.tap.writeIdx q 0).toNat
      (written < first + k ∨ first + s.tapCap q < written → exec (.tapRead c (some b)) s = .next (t.refuse ref .range 0)) ∧
      (first + k ≤ written → written ≤ first + s.tapCap q → ∃ u : State, exec (.tapRead c (some b)) s = .next (u.succeed ref) ∧
        u = { t with out := u.out, ctrs := u.ctrs } ∧ ((∀ x ∈ s.tap.badCask, x.1 ≠ q) → u.ctrs = s.ctrs) ∧
        (∀ g i, (g, i) ≠ (1024 + q, 51) → i < 512 → u.ctr g i = s.ctr g i) ∧
        ∀ i j, i < k → (q, first + i) ∉ s.tap.badCask → j < 160 → SMap.find u.out.hostMem (leAt b 24 8 + 160 * i + j) = (s.caskRead q (s.tapPlace q (first + i)) 160)[j]?))) ∧
  (∀ (q : Quad) (s : State),
    let n := q.toNat
    let w := nthD s.tap.writeIdx n 0
    (s.tap.staged.find? (fun x => x.1 = q) = none → exec (.tapRecordDrain q) s = .next s) ∧
    ∀ x, s.tap.staged.find? (fun x => x.1 = q) = some x → s.tap.stopCmd = [] →
      let u := { s with tap := { s.tap with staged := s.tap.staged.eraseP fun y => decide (y.1 = q) } }
      (x.2.cask = true → s.tapCap n = 0 ∨ (s.tap.caskStop = true ∧ s.tapCap n ≤ w.toNat) →
        exec (.tapRecordDrain q) s = .next (u.countQuad n 48)) ∧
      (x.2.cask = true → s.tapCap n ≠ 0 → s.tap.caskStop = false ∨ w.toNat < s.tapCap n → s.tap.writeIdx.length = 4 → 32 ≤ x.2.bytes.length →
        ∃ t, exec (.tapRecordDrain q) s = .next t ∧ nthD t.tap.writeIdx n 0 = w + 1 ∧
          t.caskRead n (s.tapPlace n w.toNat) x.2.bytes.length =
            patch x.2.bytes 28 (leBytes 4 (nthD s.tap.rseqCask n 0).toNat) ∧ t.tap.staged = u.tap.staged) ∧
      (x.2.cask = false → s.ringRoom 33 (x.2.bytes.length / 160) = false →
        exec (.tapRecordDrain q) s = .next (u.countQuad n 48)) ∧
      (x.2.cask = false → s.ringRoom 33 (x.2.bytes.length / 160) = true → ∃ t, exec (.tapRecordDrain q) s = .next t ∧
        t.tap = { u.tap with rseqHost := s.tap.rseqHost + 1 } ∧ t.inner = { s.inner with tap := t.tap })) ∧
  ∀ s : State,
    let ignored := Host.Outcome.next { s with err := { s.err with ignored := min 65535 (s.err.ignored + 1) } }
    let normal (t : State) : Prop := t.tap.mode = 0 ∧ t.tap.sampleEn = false ∧
      t.tap.staged = s.tap.staged.filter (fun x => !x.2.sample) ∧ t.plans = s.plans
    let empty := s.plans = [] ∧ s.loadQ = [] ∧ ∀ x ∈ s.pitch, x.2.state = .free
    (s.hif.linkUp = true →
      (s.tap.mode ≠ 0 → ∃ t, exec (.modeWrite 0) s = .next t ∧ normal t) ∧
      (s.tap.mode = 0 → empty → exec (.modeWrite 2) s = .next { s with tap := { s.tap with mode := 2 } }) ∧
      (s.tap.mode = 0 → s.recoveryNeeded = true → exec (.modeWrite 3) s = .next { s with tap := { s.tap with mode := 3 } }) ∧
      (s.tap.mode = 0 → s.recoveryNeeded = false → exec (.modeWrite 3) s = ignored) ∧ (s.tap.mode = 0 → exec (.modeWrite 0) s = ignored) ∧
      (s.tap.mode = 0 ∨ s.tap.mode = 1 → exec (.modeWrite 1) s = ignored) ∧ (s.tap.mode ≠ 0 → ∀ m, m ≠ 0 → exec (.modeWrite m) s = ignored) ∧
      (s.tap.mode = 0 → ¬empty → exec (.modeWrite 2) s = ignored) ∧
      (s.tap.mode = 0 → exec .samplerEnWrite s = ignored) ∧
      (s.tap.mode ≠ 0 → ∃ t, exec .samplerEnWrite s = .next t ∧ t.tap.sampleEn = true ∧ t = { s with tap := t.tap }) ∧
      (∀ v : W32,
        let sel (g i : Nat) : Prop := g = fld v.toNat 9 12 ∧ (bit v.toNat 22 = true ∨ i = fld v.toNat 0 9)
        let z (w : BitVec 49) : BitVec 49 := if bit v.toNat 21 then 0 else (w.setWidth 48).setWidth 49
        ∃ t, exec (.cntClear v) s = .next t ∧ t = { s with ctrs := t.ctrs } ∧ ∀ g i, i < 512 →
          let c := SMap.get s.ctrs (512 * g + i) {}
          (¬sel g i → t.ctr g i = s.ctr g i) ∧
          (sel g i → c.cycle ≠ s.time.core ∨ c.added = 0 → t.ctr g i = z c.word) ∧
          (sel g i → c.cycle = s.time.core → c.added ≠ 0 → t.ctr g i = ctrPlus (z c.before) c.added))) ∧
    (s.tap.mode = 3 → s.recoveryNeeded = false → ∃ t, exec .recoveryExit s = .next t ∧ normal t) ∧
    (s.tap.mode ≠ 3 ∨ s.recoveryNeeded = true → exec .recoveryExit s = .next s)

/-- For every state: each reset pin, RST_CTRL write, PERST_N in its two modes and critical error is a source of its reach. A
source asserts the wider of its reach and the one that stands, clears what lies in it unless it was asserted already with no
hold that a power-on ends (log 23), keeps the fuses, sets its bit of RST_CAUSE, sets LAST unless a wider reach governs, and
starts the release at its first step unless a source of the reach or a wider one is held. A step that is not in progress does
not end; each step's end starts the next (which step a release begins with and which run beside the others: log 22); step 4
draws LC_NONCE where none is drawn and starts the bank that passes (the trial's fall-back: log 24), unless it is the third
restart in 60 s, or sets BOOT_FAIL; step 11 sets FW_READY, completes every interrupted command and ends the reach. Under
PERST_MODE 1 only the host interface is reset. A loss of REF_OK always sets REF_LOST and is recorded (log 29), and SCL stuck
low gives the bus access no answer. (R343, R344, R345, R346, R347, R348, R352, R357, R359, R415, R419, R451) -/
def Obligations.SourcesAssertAndReleaseReaches : Prop :=
  ∀ s : State,
    let strapped (t : State) : Prop := t = { s with rst := t.rst, pwr := t.pwr } ∧
      t.pwr = { s.pwr with pm := { s.pwr.pm with addr := t.pwr.pm.addr } }
    (∀ (k : RstSource) (keep : Bool),
      let t := s.source k keep
      let gov := widest k.reach s.rst.reach
      t.rst.reach = some gov ∧ t.rst.cause.getLsbD k.index = true ∧ t.sec.fuses = s.sec.fuses ∧
      (k.reach = gov → t.rst.last.toNat = k.index + 1) ∧ (k.reach ≠ gov → t.rst.last = s.rst.last) ∧
      (keep = true → k ∈ t.rst.held) ∧
      ((∃ h ∈ t.rst.held, gov.rank ≤ h.reach.rank) ∨ t.rst.heldSys = true ∨ t.pwr.cellarTrip = true → t.rst.step = 0) ∧
      ((∀ h ∈ t.rst.held, h.reach.rank < gov.rank) → t.rst.heldSys = false → t.pwr.cellarTrip = false →
        t.rst.step = if gov = .core then 4 else 1) ∧
      (s.rst.reach = some gov → s.rst.step = 0 → ¬(s.rst.heldSys = true ∧ k.reach = .powerOn) → strapped t) ∧
      (s.rst.reach ≠ some gov ∨ s.rst.step ≠ 0 ∨ (s.rst.heldSys = true ∧ k.reach = .powerOn) → t.ports = [] ∧ t.queues = [] ∧ t.home = [] ∧ t.plans = [] ∧ t.ctrs = [] ∧
        t.err.queue = [] ∧ t.hif.fwReady = false ∧ (gov = .core → t.cask = s.cask ∧ t.rings = s.rings ∧ t.time = s.time) ∧
        (gov ≠ .core → t.cask = [] ∧ t.rings = [] ∧ t.time = { core := s.time.core } ∧ t.hif.linkUp = false))) ∧
    (∀ k : RstSource,
      let t := s.sourceEnds k
      t.rst.held = s.rst.held.filter (fun h => decide (h ≠ k)) ∧ strapped t ∧
      (s.rst.reach ≠ some .powerOn → t.pwr = s.pwr) ∧
      ∀ r, s.rst.reach = some r → s.rst.step = 0 → (∀ h ∈ t.rst.held, h.reach.rank < r.rank) → s.rst.heldSys = false →
        s.pwr.cellarTrip = false → t.rst.step = if r = .core then 4 else 1) ∧
    (.porPin ∉ s.rst.held → exec .porNAssert s = .next (s.source .porPin true) ∧ exec .porNRelease s = .next s) ∧
    (.porPin ∈ s.rst.held → exec .porNAssert s = .next s ∧ exec .porNRelease s = .next (s.sourceEnds .porPin)) ∧
    (let u := { s with pwr := { s.pwr with cellarTrip := false, tripLatch := false } }
     (.porSupply ∉ s.rst.held → exec .porSupplyRelease s = .next s ∧ exec .porSupplyLow s = .next (State.source u .porSupply true)) ∧
     (.porSupply ∈ s.rst.held → exec .porSupplyLow s = .next u)) ∧
    (.porSupply ∈ s.rst.held → exec .porSupplyRelease s = .next (s.sourceEnds .porSupply)) ∧
    (.sysPin ∉ s.rst.held → exec .sysRstNAssert s = .next (s.source .sysPin true) ∧ exec .sysRstNRelease s = .next s) ∧
    (.sysPin ∈ s.rst.held → ∃ t, exec .sysRstNRelease s = .next t ∧ t.rst.heldSys = false ∧ .sysPin ∉ t.rst.held ∧
      strapped t) ∧
    (s.rst.perstLow = true → exec .perstNAssert s = .next s ∧ ∃ t, exec .perstNRelease s = .next t ∧ t.rst.perstLow = false ∧
      .sysPerst ∉ t.rst.held ∧ t.inner = { s.inner with rst := t.rst, pwr := t.pwr }) ∧
    (s.rst.perstLow = false → exec .perstNRelease s = .next s ∧
      (s.rb .rstCfg [] 0 = false → exec .perstNAssert s = .next
        (State.source { s with rst := { s.rst with perstLow := true, perstSampled := false } } .sysPerst true)) ∧
      (s.rb .rstCfg [] 0 = true → ∃ t, exec .perstNAssert s = .next t ∧ t.rst.perstSampled = true ∧ t.rst.reach = s.rst.reach ∧
        t.inner = { s.inner with rst := t.rst } ∧ t.hif.linkUp = false ∧ t.hif.busMaster = false ∧ ∀ r, (t.ring r).enabled = false)) ∧
    (∀ v : W32, s.hif.linkUp = true →
      let key := fld v.toNat 16 16 = 0xC0DE
      (¬key → exec (.sysReset v) s = .next { s with err := { s.err with ignored := min 65535 (s.err.ignored + 1) } }) ∧
      (key → bit v.toNat 1 = true → exec (.sysReset v) s = .next (s.source .sysHost false)) ∧
      (key → bit v.toNat 1 = false → bit v.toNat 0 = true → exec (.coreReset v) s = .next (s.source .coreHost false)) ∧
      exec (.coreReset v) s = exec (.sysReset v) s) ∧
    (∀ (n : BitVec 4) (o : StepObs) (r : Reach), s.rst.reach = some r →
      let k := s.rst.step
      let run := exec (.releaseStepComplete n o) s
      (n.toNat ≠ k → n ≠ 5 → n ≠ 7 → run = .next s) ∧
      (n = 5 → run = .next (if s.hif.linkUp = false ∧ s.rst.perstLow = false ∧ 4 ≤ k
        then { s with hif := { s.hif with linkUp := true } } else s)) ∧
      (n = 7 → run = .next (if s.wipesCask = true ∧ 8 ≤ k then { s with rst := { s.rst with caskWiped := true } } else s)) ∧
      (s.sysHeld = false ∨ s.sec.nonceDrawn = true → s.drawNonce = s) ∧
      (s.sysHeld = true → s.sec.nonceDrawn = false → ∃ w, s.drawNonce = { s with freeCtr := s.freeCtr + 1, sec := { s.sec with
        nonce := w, nonceDrawn := true, idKey := s.sec.idKey || decide (s.sec.lcState = 0) } }) ∧
      (n = 1 → k = 1 → run = .next (if s.clk.refOk then s.toStep 2 else s)) ∧
      (n = 2 → k = 2 → ∃ t, run = .next t ∧ t.rst.step = 3 ∧ t.sec.lcState = fuseState s.sec.fuses) ∧
      (n = 3 → k = 3 → run = .next (State.toStep { s with clk := { s.clk with pllLock := true } } 4)) ∧
      (n = 4 → k = 4 → (s.sec.lcState = 4 ∨ s.err.fwHeld = true → run = .next s.drawNonce) ∧
        (s.sec.lcState ≠ 4 → s.err.fwHeld = false →
          let want := s.sec.nextBank.getD s.sec.bootBank
          let b := if s.sec.trial = true ∧ s.sec.activating = false then want + 1 else want
          let next := if s.sec.trial = true ∧ s.sec.activating = false ∧ 2 ≤ s.restartsNow.length then 4 else s.afterBoot
          ∃ t, run = .next t ∧
            (s.bankOk b = true → t.sec.running = s.bank b ∧ t.sec.runBank = b ∧ t.sec.bootFail = false ∧ t.rst.step = next) ∧
            (s.bankOk b = false → s.bankOk (b + 1) = true → t.sec.running = s.bank (b + 1) ∧ t.sec.fallback = true ∧
              t.rst.step = next) ∧
            (s.bankOk b = false → s.bankOk (b + 1) = false → t.sec.bootFail = true ∧ t.rst.step = 4))) ∧
      (n = 6 → k = 6 → run = .next (s.toStep 8)) ∧ (n = 8 → k = 8 → run = .next (s.toStep 9)) ∧
      (n = 9 → k = 9 → ∃ t, run = .next t ∧ t.rst.step = 10) ∧ (n = 10 → k = 10 → ∃ t, run = .next t ∧ t.rst.step = 11) ∧
      (n = 11 → k = 11 → s.wipesCask = true → s.rst.caskWiped = false → run = .next s) ∧
      (n = 11 → k = 11 → s.wipesCask = false ∨ s.rst.caskWiped = true → s.rst.held = [] → ∃ t, run = .next t ∧
        t.rst.reach = none ∧ t.rst.step = 0 ∧ t.hif.fwReady = true ∧ t.sec.trial = false ∧ ∀ c, c < 16 → (t.ring c).cmds = [])) ∧
    (∀ (u : CritUnit) (q : Quad),
      let recent := s.rst.recent.filter (fun t => decide (s.time.core ≤ t + 20000000000)) ++ [s.time.core]
      (s.sysHeld = true → s.rst.step = 0 → exec (.criticalError u q) s = .next s) ∧
      (s.sysHeld = false ∨ s.rst.step ≠ 0 → ∃ t, exec (.criticalError u q) s = .next t ∧
        t.rst.reach = some (widest .system s.rst.reach) ∧ t.rst.cause.getLsbD 5 = true ∧ t.rst.errUnit = critCode u ∧
        t.rst.errRaised = true ∧ t.rst.recent = recent ∧ (3 ≤ recent.length → t.rst.heldSys = true ∧ t.rst.step = 0))) ∧
    (∀ off : W16, exec (.refOkLoss off) s = .next
      (State.errorAt { s with clk := { s.clk with refOk := false, holdover := s.clk.pllLock, refLost := true, refOffset := off } }
        0x09 2 0xFF [(32, [1]), (36, leBytes 2 off.toNat)])) ∧
    exec .refOkRestored s = .next { s with clk := { s.clk with refOk := true, holdover := false } } ∧
    exec .sclStuckLow s = .next (s.reply .noResponse)

/-- For a BLOCK_RESET that a ring offers: a number past the blocks of its type is refused RANGE, a block held already STATE,
one that is not idle ends NOT_IDLE, and nothing else changes. An idle one is held and its command waits: an array keeps
nothing of its own, a port is disarmed with its registers at reset, a quadrant's ports are disarmed and its home is emptied.
While the firmware runs BLOCK_RESET_COMPLETE of a held block releases it and its command succeeds; of another it changes
nothing, nor without the firmware. A POWER_STATE to the present state succeeds at once; one the conditions bar is refused with
their cause; leaving P3 is a core reset; any other waits for POWER_STATE_COMPLETE, with which the firmware makes the change;
P3 loses Cask, meshes and the counters of ports and quadrants (what P3 keeps beyond the rules' words is the model's, log 71).
(R24, R327, R332, R353, R354, R355, R361, R404, R437, R438, R439) -/
def Obligations.BlocksResetAndPowerStatesChange : Prop :=
  (∀ (c : CmdRing) (g : Fetched) (s : State),
    let d := g.bytes
    let t := s.started c g
    let ref := cmdName c g
    let ty := leAt d 8 1
    let ix := leAt d 10 2
    (s.offers c g 0x24 →
      let count := match ty with | 1 => 4 | 2 => 1024 | 3 => 64 | 4 => 1024 | 5 => 384 | _ => 0
      let port := if ty = 4 then ix else 0
      (count ≤ ix → exec (.blockReset c) s = .next (t.refuse ref .range port)) ∧
      (ix < count → s.blockDown ty ix = true → exec (.blockReset c) s = .next (t.refuse ref .state port)) ∧
      (ix < count → s.blockDown ty ix = false → s.blockIdle ty ix = false →
        exec (.blockReset c) s = .next (t.complete ref .notIdle [])) ∧
      (ix < count → s.blockDown ty ix = false → s.blockIdle ty ix = true → ∃ u, exec (.blockReset c) s = .next u ∧
        u.blockRst = s.blockRst ++ [(ty, ix, ref)] ∧ u.blockDown ty ix = true ∧
        (ty = 1 → u.rst.quadInReset = s.rst.quadInReset ||| BitVec.ofNat 4 (2 ^ ix) ∧
          (s.lookups = [] → (∀ p, p / 256 = ix → (u.port p).armed = false) ∧ ∀ x ∈ u.home, x.1 / 2 ^ 23 ≠ ix) ∧
          u.cask = s.cask ∧ u.time = s.time) ∧
        (ty = 2 → u.array ix = {} ∧ ∀ k, k ≠ ix → u.array k = s.array k) ∧
        (ty = 4 → u.port ix = { inReset := true, penalty := (s.port ix).penalty, suppressed := (s.port ix).suppressed,
                                ingUsed := (s.port ix).ingUsed } ∧ (∀ p, p ≠ ix → u.port p = s.port p) ∧ u.ctrs = s.ctrs)))) ∧
  (∀ (ty : BitVec 8) (ix : BitVec 16) (obs : List (BitVec 10 × StartTest)) (s : State),
    let b := s.blockRst.find? (fun b => b.1 = ty.toNat && b.2.1 = ix.toNat)
    (b = none ∨ s.hif.fwReady = false → exec (.blockResetComplete ty ix obs) s = .next s) ∧
    (∀ x, b = some x → s.hif.fwReady = true → ∃ u : State, exec (.blockResetComplete ty ix obs) s = .next (u.succeed x.2.2) ∧
      u.blockRst = s.blockRst.filter (fun x => !(decide (x.1 = ty.toNat) && decide (x.2.1 = ix.toNat))) ∧
      (ty = 1 → ix.toNat < 4 → u.rst.quadInReset.getLsbD ix.toNat = false) ∧ (ty = 4 → (u.port ix.toNat).inReset = false) ∧
      (ty = 3 → (u.mesh ix.toNat).inReset = false))) ∧
  (∀ (c : CmdRing) (g : Fetched) (s : State), s.offers c g 0x25 →
    let t := s.started c g
    let ref := cmdName c g
    let n := leAt g.bytes 8 1
    let run := exec (.powerState c) s
    let busy := s.pwr.transition ≠ none ∨ s.blockRst ≠ [] ∨ s.pwr.trip = true
    (4 ≤ n → run = .next (t.refuse ref .range 0)) ∧
    (n < 4 → s.pwr.state.toNat = n → run = .next (t.succeed ref)) ∧
    (n < 4 → s.pwr.state.toNat ≠ n →
      (busy ∨ (s.pwr.state = 3 ∧ n ≠ 0) → run = .next (t.refuse ref .state 0)) ∧
      (¬busy → s.pwr.state ≠ 3 → n ≠ 0 → s.anyArmed = true → run = .next (t.refuse ref .arming s.firstArmed)) ∧
      (¬busy → s.pwr.state ≠ 3 → s.anyArmed = false → n = 1 ∨ n = 2 → s.anyOpen = true → run = .next (t.refuse ref .inUse 0)) ∧
      (¬busy → s.pwr.state ≠ 3 → s.anyArmed = false → n = 3 → s.plans ≠ [] ∨ s.loadQ ≠ [] ∨ s.tap.running = true →
        run = .next (t.refuse ref .inUse 0)) ∧
      (¬busy → s.pwr.state ≠ 3 → n = 0 ∨ (s.anyArmed = false ∧ n < 3 ∧ s.anyOpen = false) ∨ (s.anyArmed = false ∧ n = 3 ∧
          s.plans = [] ∧ s.loadQ = [] ∧ s.tap.running = false ∧ ∀ x ∈ s.pitch, x.2.state = .free) →
        run = .next { t with pwr := { s.pwr with transition := some (BitVec.ofNat 2 n, ref) } }) ∧
      (¬busy → s.pwr.state = 3 → n = 0 → ∃ u, run = .next u ∧ u.pwr.state = 0 ∧ u.rst.fromP3 = true ∧
        u.rst.reach = some (widest .core s.rst.reach)))) ∧
  ∀ s : State,
    (s.pwr.transition = none ∨ s.hif.fwReady = false → exec .powerStateComplete s = .next s) ∧
    ∀ n ref, s.pwr.transition = some (n, ref) → s.hif.fwReady = true → ∃ u : State, exec .powerStateComplete s = .next (u.succeed ref) ∧
      u.pwr.state = n ∧ u.pwr.transition = none ∧ (n = 3 → u.ports = [] ∧ u.cask = [] ∧ (∀ g i, g < 1028 → i < 512 → u.ctr g i = 0) ∧ (SMap.wf {} s.meshes = true → ∀ g, u.mesh g = { due := (s.mesh g).due })) ∧
      (n ≠ 3 → u.cask = s.cask ∧ u.plans = s.plans)

/-- For every SEQ and state with a PCIe link: where no queued record has it, the write of ERR_ACK is ignored and counted in
IGNORED_WRITES (saturating) and nothing else changes. Where one has it, the records of that SEQ leave the queue and every
other one stays; with COUNT 1 nothing else changes, and with COUNT above 1 an ERROR event is raised that carries the record,
its SEQ and its COUNT with FINAL set, so that every occurrence it counted has been reported. (R372) -/
def Obligations.RecordsAreAcknowledged : Prop :=
  ∀ (seq : W32) (s : State), s.hif.linkUp = true →
    let u := { s with err := { s.err with queue := s.err.queue.filter fun r => decide (r.seq ≠ seq) } }
    ((∀ r ∈ s.err.queue, r.seq ≠ seq) →
      exec (.errAck seq) s = .next { s with err := { s.err with ignored := min 65535 (s.err.ignored + 1) } }) ∧
    ∀ r, s.err.queue.find? (fun r => decide (r.seq = seq)) = some r →
      (r.count ≤ 1 → exec (.errAck seq) s = .next u) ∧
      (1 < r.count →
        let e := r.bytes s.time.ns true
        ∃ t, exec (.errAck seq) s = .next t ∧ t = u.eventBytes e ∧ t.err = u.err ∧ t.inner = s.inner ∧
          leAt e 0 1 = 1 ∧ leAt e 1 1 = r.cls.toNat ∧ leAt e 4 4 = seq.toNat ∧ (r.count < 2 ^ 32 → leAt e 24 4 = r.count) ∧
          leAt e 28 1 = 1)

/-- For every state: an error is kept until the end of its CLK_TIME cycle (that the idle step is where the cycle ends is log
29) and is then taken, those of one cycle by CLASS and QUAD, none before the CRITICAL record of an error-raised reset; none is
kept while a reach is asserted. Taken, it folds into the pending record of its class and quadrant, or becomes a new one, or
with 256 records pending adds to LOST and sets OVERFLOW. ERR_HEAD reads the oldest record and latches it; clearing OVERFLOW
clears LOST. While the firmware runs, a millisecond moves each armed port's penalty, and with its score a port between HEALTHY
and SUSPECT; the hold's end expels a SUSPECT port, after the DEGRADED ports and the lower ones due with it, or degrades it
where the budget or the sheaf's width forbids; the readmission hold makes it HEALTHY. A watchdog restart takes FW_READY, the
third within 60 s holds the firmware; its return ends every fetched command. (R336, R369, R370, R371, R373, R374, R393, R394,
R395, R419) -/
def Obligations.ErrorsHealthAndFirmwareAreHandled : Prop :=
  ∀ s : State,
    (∀ (cls sev quad : Byte) (detail : List Byte),
      (s.asserted = true → s.error cls sev quad detail = s) ∧
      (s.asserted = false → ∃ d, s.error cls sev quad detail = { s with err := { s.err with found := s.err.found ++ [d] } } ∧
        d = { cycle := s.time.core / 2, ns := s.time.ns, cls, sev, quad, detail })) ∧
    (let order := s.err.found.foldl (fun l d => takeIn d l) []
     (s.rst.errRaised = true → s.rst.reach ≠ none → s.takeErrors = s) ∧
     (s.rst.errRaised = false ∨ s.rst.reach = none →
       s.takeErrors = order.foldl (fun t d => t.record d) { s with err := { s.err with found := [] } }) ∧
     order.length = s.err.found.length ∧ (∀ d, d ∈ order ↔ d ∈ s.err.found) ∧
     (∀ (i j : Nat) d e, i < j → order[i]? = some d → order[j]? = some e → e.before d = false) ∧
     (s.pending = [] → s.time.core % 2 = 1 → s.strikes = [] → (∀ x ∈ s.dirs, x.2.outMsgs = [] ∧ x.2.outRetry = []) →
       ∃ t, step s = .next t ∧ t.err = s.takeErrors.err)) ∧
    (∀ d : Detected,
      let t := s.record d
      let sev := d.sev
      let key (r : ErrRec) : Prop := r.cls = d.cls ∧ r.quad = d.quad
      ((∃ r ∈ s.err.queue, key r) → t.err.queue.length = s.err.queue.length ∧ t.err.nextSeq = s.err.nextSeq ∧
        ∀ (i : Nat) r, s.err.queue[i]? = some r →
          (¬key r → t.err.queue[i]? = some r) ∧ (key r → (∀ j x, j < i → s.err.queue[j]? = some x → ¬key x) → ∃ x,
            t.err.queue[i]? = some x ∧ x.count = min 0xFFFFFFFF (r.count + 1) ∧ x.lastNs = d.ns ∧ x.seq = r.seq ∧
            x.detail = r.detail ∧ x.sev.toNat = max r.sev.toNat sev.toNat)) ∧
      ((∀ r ∈ s.err.queue, ¬key r) → s.err.queue.length < 256 → t.inner = s.inner ∧
        t.err.nextSeq = s.err.nextSeq + 1 ∧ t.err.queue = s.err.queue ++
          [{ cls := d.cls, sev := d.sev, quad := d.quad, seq := s.err.nextSeq, timeNs := d.ns, lastNs := d.ns, count := 1,
               detail := padTo 32 d.detail }]) ∧
      ((∀ r ∈ s.err.queue, ¬key r) → 256 ≤ s.err.queue.length → t.err.queue = s.err.queue ∧
        t.err.overflow = true ∧ t.err.lost = min 65535 (s.err.lost + 1) ∧ t.rst = s.rst ∧
        (s.asserted = false → t.faultLow = true))) ∧
    exec .aerUncorrectable s = .next (s.error 0x0A 2 0xFF (1 :: zeros 31)) ∧
    (s.hif.linkUp = true →
      exec .overflowClear s = .next { s with err := { s.err with overflow := false, lost := 0 } } ∧
      (s.err.queue = [] → exec .errHeadRead s = .next (s.reply (.data 0))) ∧
      (∀ r rest, s.err.queue = r :: rest → ∃ t, exec .errHeadRead s = .next t ∧
        t = { s with err := { s.err with head := t.err.head }, out := t.out } ∧ t.err.head.length = 16 ∧
        ∀ (i : Nat) w, t.err.head[i]? = some w → w.toNat = leAt (r.bytes r.timeNs false) (4 * i) 4)) ∧
    (∀ obs : List FecObs, s.hif.fwReady = false → exec (.healthTick obs) s = .next s) ∧
    (∀ obs : List FecObs, s.live = true → s.hif.fwReady = true → ∃ t, exec (.healthTick obs) s = .next t ∧ ∀ p,
      ((s.port p).armed = false ∨ 1024 ≤ p → t.port p = s.port p) ∧
      ((s.port p).armed = true → p < 1024 →
        let u := ((obs.find? fun o => o.port.toNat = p).map (·.uncorrectable)).getD 0
        let d := min 4095 ((s.port p).hd - (s.port p).hd / 8 + s.healthPoints p u)
        (t.port p).hd = d ∧
        ((s.port p).hstate = .healthy ∨ (s.port p).hstate = .suspect →
          (t.port p).hstate = if 255 - min 255 d < s.suspectLvl then .suspect else .healthy) ∧
        ((s.port p).hstate = .expelled → (t.port p).hstate = .expelled) ∧
        ((s.port p).hstate = .degraded → s.suspectLvl ≤ 255 - min 255 d → (t.port p).hstate = .degraded))) ∧
    (∀ p : Port, s.live = true →
      let k := p.toNat
      (s.hif.fwReady = false → exec (.expelHoldExpiry p) s = .next s ∧ exec (.readmitHoldExpiry p) s = .next s) ∧
      (s.hif.fwReady = true →
      ((s.port k).hstate ≠ .suspect ∨ s.pinned k = true → exec (.expelHoldExpiry p) s = .next s) ∧
      ((s.port k).hstate = .suspect → s.pinned k = false →
        let lower := s.allArmed.filter fun j => decide (j < k) && decide ((s.port j).suspectAt + s.expelHold ≤ s.time.core)
        let v := lower.foldl (fun v j => v.holdEnds j) s.expelDegraded
        (s.degradedLow s.allArmed = [] → lower = [] → v = s) ∧ v.port k = s.port k ∧
        (v.budgetLeft = false → exec (.expelHoldExpiry p) s = .next (v.degrade k 3)) ∧
        (v.budgetLeft = true → v.widthAllows k = false → exec (.expelHoldExpiry p) s = .next (v.degrade k 4)) ∧
        (v.budgetLeft = true → v.widthAllows k = true → ∃ t, exec (.expelHoldExpiry p) s = .next t ∧
          (t.port k).hstate = .expelled ∧ v.time.free.toNat ∈ t.expulsions ∧ ∀ j, j ≠ k → t.port j = v.port j)) ∧
      ((s.port k).hstate = .degraded ∨ (s.port k).hstate = .expelled → (s.port k).readmitAt.isSome = true →
        ∃ t, exec (.readmitHoldExpiry p) s = .next t ∧ (t.port k).hstate = .healthy ∧ ∀ j, j ≠ k → t.port j = s.port j) ∧
      ((s.port k).hstate = .healthy ∨ (s.port k).hstate = .suspect → exec (.readmitHoldExpiry p) s = .next s))) ∧
    (s.fwLive = false → exec .watchdogExpiry s = .next s ∧ exec .firmwareRestartComplete s = .next s) ∧
    (s.fwLive = true →
      let times := s.restartsNow ++ [s.time.core]
      (∃ t, exec .watchdogExpiry s = .next t ∧ t.hif.fwReady = false ∧ t.sec.wdRestarts = times ∧
        (t.err.fwHeld = true ↔ 3 ≤ times.length) ∧ (times.length < 3 → t.err = { s.err with fwHeld := false }) ∧
        (3 ≤ times.length → ∃ d, t.err = { s.err with fwHeld := true, found := s.err.found ++ [d] } ∧ d.cls = 0x0B) ∧
        t.inner = { s.inner with sec := t.sec }) ∧
      (s.hif.fwReady = true → exec .firmwareRestartComplete s = .next s) ∧
      (s.hif.fwReady = false →
        let want := s.sec.nextBank.getD s.sec.bootBank
        let b := if s.sec.trial = true ∧ s.sec.activating = false then want + 1 else want
        ∃ t, exec .firmwareRestartComplete s = .next t ∧
          (s.bankOk b = false → s.bankOk (b + 1) = false → t = { s with sec := { s.sec with bootFail := true } }) ∧
          (s.bankOk b = true → t.sec.running = s.bank b ∧ t.hif.fwReady = true ∧ ∀ c, c < 16 → (t.ring c).cmds = []) ∧
          (s.bankOk b = false → s.bankOk (b + 1) = true → t.sec.running = s.bank (b + 1) ∧ t.sec.fallback = true ∧
            t.hif.fwReady = true ∧ ∀ c, c < 16 → (t.ring c).cmds = [])))

/-- For each security command that a ring offers: FW_STAGE refuses a busy bank STATE, a bad field or signature IMAGE at its
offset and a wrong length RANGE, else the staging bank is invalid until the read-back, which makes it the image or refuses it
with an offset of R417. FW_ACTIVATE needs a staged image; an SVN commit raises FUSE_SVN to the running image's; slot 0 is
revoked only by an image of slot 1. A report of 640 bytes goes to the buffer with its sequence number raised. LIFECYCLE is
refused STATE (where the fuses fail too), RANGE or ARMING with LC_NONCE redrawn, or blows the target's fuse and resets the
device. RECOVERY_GO under BOOT_FAIL starts a sound image or sets RECOV_ERR, and waits while Bus Master Enable is 0. Whether a
signature or a digest holds is open (free functions); the order of an image's fields (log 73), of the checks of LIFECYCLE (log
74) and the layout of a report's free bytes (log 75) are the model's. (R414, R416, R417, R418, R420, R422, R423, R425, R426)
-/
def Obligations.ImagesAreStagedAndTheLifeCycleMovesOn : Prop :=
  (∀ (c : CmdRing) (g : Fetched) (s : State) (bytes : List Byte),
    let d := g.bytes
    let t := s.started c g
    let ref := cmdName c g
    let len := leAt d 24 4
    (s.offers c g 0x50 →
      let b := bytes.take len
      let run := exec (.fwStage c (some bytes)) s
      let busy := s.sec.staging ≠ none ∨ s.sec.activating = true
      let field := imageField (padTo 1024 b)
      exec (.fwStage c none) s = .next (t.dmaError ref (leAt d 16 8)) ∧
      (busy → run = .next (t.refuse ref .state 0)) ∧
      (∀ o, ¬busy → field = some o → run = .next (t.refuse ref .image o)) ∧
      (¬busy → field = none → len ≠ 1024 + leAt b 12 4 → run = .next (t.refuse ref .range 0)) ∧
      (∀ o, ¬busy → field = none → len = 1024 + leAt b 12 4 → s.imageSigned b = some o → run = .next (t.refuse ref .image o)) ∧
      (¬busy → field = none → len = 1024 + leAt b 12 4 → s.imageSigned b = none → ∃ u, run = .next u ∧
        u = { t with sec := u.sec } ∧ u.sec.staging = some (bankOf b, ref) ∧ u.sec.stagedValid = false ∧
        u.bank s.stagingBank = {} ∧ u.bank s.sec.runBank = s.bank s.sec.runBank)) ∧
    (s.offers c g 0x51 → len = 16 → allZero bytes 1 15 = true →
      let op := leAt bytes 0 1
      let v := s.sec.running.svn
      let refused := Host.Outcome.next (t.refuse ref .state 0)
      (op = 0 ∨ 5 ≤ op → exec (.fwActivateTrial c (some bytes)) s = .next (t.refuse ref .range 0)) ∧
      (op = 1 → s.sec.stagedValid = false → exec (.fwActivateTrial c (some bytes)) s = refused) ∧
      (op = 1 → s.sec.stagedValid = true → ∃ u, exec (.fwActivateTrial c (some bytes)) s = .next u ∧ u.hif.fwReady = false ∧
        u.sec.bootBank = s.stagingBank ∧ u.sec.trial = true ∧ u.sec.activating = true ∧ u.cmdOf ref = none) ∧
      (op = 2 → s.sec.stagedValid = false → exec (.fwActivateNextBoot c (some bytes)) s = refused) ∧
      (op = 2 → s.sec.stagedValid = true → exec (.fwActivateNextBoot c (some bytes)) s =
        .next (State.succeed { t with sec := { s.sec with nextBank := some s.stagingBank } } ref)) ∧
      (op = 3 → s.sec.trial = true ∨ s.sec.fallback = true ∨ v ≤ s.sec.fuses.svn →
        exec (.fwSvnCommit c (some bytes)) s = refused) ∧
      (op = 3 → s.sec.trial = false → s.sec.fallback = false → s.sec.fuses.svn < v → ∃ u : State,
        exec (.fwSvnCommit c (some bytes)) s = .next (u.succeed ref) ∧ u = { t with sec := u.sec } ∧ u.sec.fuses.svn = v ∧
        u.sec.fuseSvnShown = v ∧ u.sec.fuses.revoked = s.sec.fuses.revoked ∧ u.sec.fuses.lc = s.sec.fuses.lc) ∧
      (op = 4 → s.sec.running.slot ≠ 1 → exec (.keySlotRevoke c (some bytes)) s = refused) ∧
      (op = 4 → s.sec.running.slot = 1 → ∃ u : State, exec (.keySlotRevoke c (some bytes)) s = .next (u.succeed ref) ∧
        u = { t with sec := u.sec } ∧ u.sec.fuses.revoked = s.sec.fuses.revoked ||| 1 ∧ u.sec.fuses.svn = s.sec.fuses.svn)) ∧
    (s.offers c g 0x52 → allZero bytes 1 7 = true → allZero bytes 40 24 = true →
      (leAt bytes 0 1 = 0 ∨ 3 ≤ leAt bytes 0 1 → exec (.attestReport c (some bytes)) s = .next (t.refuse ref .range 0)) ∧
      (leAt bytes 0 1 = 1 →
        (len < 704 → exec (.attestReport c (some bytes)) s = .next (t.refuse ref .buffer 0)) ∧
        (704 ≤ len → s.sec.idKey = false → exec (.attestReport c (some bytes)) s = .next (t.refuse ref .state 0)) ∧
        (704 ≤ len → s.sec.idKey = true → ∃ u : State,
          exec (.attestReport c (some bytes)) s = .next (u.complete ref .success (leBytes 4 640)) ∧
          u.sec = { s.sec with reportSeq := s.sec.reportSeq + 1 } ∧
          ∀ i, i < 256 → SMap.find u.out.hostMem (leAt d 16 8 + 64 + i) = (u.reportBody bytes)[i]?)) ∧
      (leAt bytes 0 1 = 2 →
        let cert := if s.sec.hasCert then Config.certificate.take 2048 else []
        (len < 64 + cert.length → exec (.attestCertificate c (some bytes)) s = .next (t.refuse ref .buffer 0)) ∧
        (64 + cert.length ≤ len → exec (.attestCertificate c (some bytes)) s =
          .next ((t.hostWrite (leAt d 16 8 + 64) cert).complete ref .success (leBytes 4 cert.length))))) ∧
    (s.offers c g 0x53 →
      let n := leAt bytes 0 1
      let run := exec (.lifecycle c ⟨some bytes, true⟩) s
      let turned (cause : Cause) (x : Nat) : Prop := ∃ w : W64, run =
        .next { t.refuse ref cause x with freeCtr := (t.refuse ref cause x).freeCtr + 1, sec := { s.sec with nonce := w } }
      (s.lifeAllowed n bytes = false → turned .state 0) ∧
      (s.lifeAllowed n bytes = true → s.lifeBad n len bytes = true → turned .range 0) ∧
      (s.lifeAllowed n bytes = true → s.lifeBad n len bytes = false → s.anyArmed = true ∨ s.plans ≠ [] ∨ s.loadQ ≠ [] → turned .arming s.firstArmed) ∧
      (s.lifeAllowed n bytes = true → s.lifeBad n len bytes = false → s.anyArmed = false → s.plans = [] → s.loadQ = [] →
        ∃ w : W64, exec (.lifecycle c ⟨some bytes, false⟩) s = .next { t.refuse ref .state 0 with
          freeCtr := (t.refuse ref .state 0).freeCtr + 1, sec := { s.sec with nonce := w } }) ∧
      (s.lifeAllowed n bytes = true → s.lifeBad n len bytes = false → s.anyArmed = false → s.plans = [] → s.loadQ = [] →
        ∃ u, run = .next u ∧ u.sec.fuses.lc = s.sec.fuses.lc ||| BitVec.ofNat 4 (2 ^ (n - 1)) ∧
          u.rst.reach = some (widest .system s.rst.reach) ∧ u.rst.cause.getLsbD 6 = true ∧
          (n = 2 → u.sec.fuses.ownerHash = sl bytes 16 32) ∧
          ((u.sec.fuses.lc.getLsbD 3 = true) → u.sec.fuses.secretBlown = true)))) ∧
  ∀ s : State,
    (∀ ok : Bool, s.sec.staging = none → exec (.fwStageComplete ok) s = .next s) ∧
    (∀ b ref, s.sec.staging = some (b, ref) →
      (∃ u : State, exec (.fwStageComplete true) s = .next (u.succeed ref) ∧ u = { s with sec := u.sec } ∧
        u.bank s.stagingBank = b ∧ u.sec.stagedValid = true ∧ u.sec.staging = none ∧
        u.bank s.sec.runBank = s.bank s.sec.runBank) ∧
      (∃ (u : State) (o : Nat), exec (.fwStageComplete false) s = .next (u.refuse ref .image o) ∧ o ∈ [0, 8, 9, 10, 12, 16, 400, 784] ∧
        u = { s with freeCtr := u.freeCtr, sec := { s.sec with staging := none } })) ∧
    (s.hif.linkUp = true → ∀ bytes,
      let len := s.reg .secRecovLen []
      let b := bytes.take len
      let field := imageField (padTo 1024 b)
      let fail (o : Nat) := Host.Outcome.next { s with sec := { s.sec with recovErr := BitVec.ofNat 16 o } }
      (s.sec.bootFail = false → exec (.recoveryGo (some bytes)) s =
        .next { s with err := { s.err with ignored := min 65535 (s.err.ignored + 1) } }) ∧
      (s.sec.bootFail = true → s.hif.busMaster = false → exec (.recoveryGo (some bytes)) s =
        .next { s with hif := { s.hif with waitGo := some (some bytes) } }) ∧
      (s.sec.bootFail = true → s.hif.busMaster = true →
        (∀ o, field = some o → exec (.recoveryGo (some bytes)) s = fail o) ∧
        (field = none → len ≠ 1024 + leAt b 12 4 → exec (.recoveryGo (some bytes)) s = fail 12) ∧
        (∀ o, field = none → len = 1024 + leAt b 12 4 → s.imageSigned b = some o → exec (.recoveryGo (some bytes)) s = fail o) ∧
        (field = none → len = 1024 + leAt b 12 4 → s.imageSigned b = none → ∃ t, exec (.recoveryGo (some bytes)) s = .next t ∧
          t = { s with sec := t.sec } ∧ t.sec.bankA = bankOf b ∧ t.sec.bootFail = false ∧ t.sec.recovered = true ∧
          t.sec.bootBank = 0 ∧ t.sec.fuses = s.sec.fuses)))

/-- For every state: while the power-on reach is asserted the monitors and the bus are silent. Otherwise a fault observed sets
INPUT_FAULT with its kind, its absence clears it, and PEAK_W follows the greatest power until it is read. A sample at or above
its warning level sets WARN and does nothing else; WARN clears when every sensor lies 5 °C below. The fourth consecutive
sample at the trip level takes the device to P3 with THERMTRIP_N low, or for sensor 24 holds the power-on reach; TRIP clears
once every sensor is 15 °C below. Each bus command answers its reading or word, low byte first, and the packet error code
behind it (layout and code are SMBus's and PMBus's, log 11; the Linear11 exponent and rounding are open, log 72), CLEAR_FAULTS
leaves what persists, and a rejected byte sets CML. (R435, R441, R442, R443, R444, R445, R446, R447) -/
def Obligations.InputsAndTemperaturesAreWatched : Prop :=
  ∀ s : State,
    let ignored := Host.Outcome.next { s with err := { s.err with ignored := min 65535 (s.err.ignored + 1) } }
    (∀ o : InputObs,
      let low := o.vinA.toNat < 4000 ∨ o.vinB.toNat < 4000
      let high := 5600 < o.vinA.toNat ∨ 5600 < o.vinB.toNat
      let uneven := 2000 < o.iinA.toNat + o.iinB.toNat ∧ 4 * min o.iinA.toNat o.iinB.toNat < o.iinA.toNat + o.iinB.toNat
      (s.monitored = false → exec (.inputFaultSet o) s = .next s ∧ exec (.inputFaultClear o) s = .next s) ∧
      (s.monitored = true → ¬low → ¬high → ¬uneven → exec (.inputFaultSet o) s = .next (s.takeInputs o) ∧
        ∃ t, exec (.inputFaultClear o) s = .next t ∧ t.pwr.inputFault = false ∧ t.inner = { s.inner with pwr := t.pwr } ∧
          (s.pwr.inputFault = true → t.pwr.imbal = false ∧ t.pwr.inputKind = 0)) ∧
      (s.monitored = true → low ∨ high ∨ uneven → exec (.inputFaultClear o) s = .next (s.takeInputs o) ∧
        ∃ t, exec (.inputFaultSet o) s = .next t ∧ t.pwr.inputFault = true ∧ (t.pwr.inputKind.getLsbD 0 = true ↔ low) ∧
          (t.pwr.inputKind.getLsbD 1 = true ↔ high) ∧ (t.pwr.imbal = true ↔ uneven) ∧ t.pwr.vinA = o.vinA ∧ ((s.asserted && s.sysHeld) = false → t.faultLow = true) ∧
          t.pwr.peakW.toNat = max s.pwr.peakW.toNat o.pinW.toNat ∧ t.inner = { s.inner with pwr := t.pwr })) ∧
    (∀ (i : Fin 57) (v : BitVec 12), s.monitored = true → ∃ t, exec (.sensorSample i v) s = .next t ∧ t.temp i = v ∧
      (∀ j, j ≠ i.val → t.temp j = s.temp j) ∧ t.inner = { s.inner with pwr := t.pwr } ∧
      (4 * (s.warnLevel i : Int) ≤ v.toInt → t.pwr.warn = true) ∧ (v.toInt < 4 * (s.warnLevel i : Int) → t.pwr.warn = s.pwr.warn) ∧
      SMap.get t.pwr.hot i 0 = if 4 * (tripLevel i : Int) ≤ v.toInt then SMap.get s.pwr.hot i 0 + 1 else 0) ∧
    (let cool := ∀ i, i < 57 → (s.temp i).toInt ≤ 4 * ((s.warnLevel i : Int) - 5)
     (s.pwr.warn = false ∨ ¬cool → exec .warnClear s = .next s) ∧
     (s.pwr.warn = true → cool → ∃ t, exec .warnClear s = .next t ∧ t.pwr = { s.pwr with warn := false } ∧
       t.inner = { s.inner with pwr := t.pwr, freeCtr := t.freeCtr })) ∧
    (∀ i : Fin 57, (i.val = 24 ∨ s.pwr.trip = true ∨ SMap.get s.pwr.hot i 0 < 4 → exec (.thermalTrip i) s = .next s) ∧
      (i.val ≠ 24 → s.pwr.trip = false → 4 ≤ SMap.get s.pwr.hot i 0 → ∃ t, exec (.thermalTrip i) s = .next t ∧ t.pwr.trip = true ∧
        t.pwr.tripSensor.toNat = i.val ∧ t.pwr.state = 3 ∧ t.thermtripLow = true ∧ (s.monitored = true → t.faultLow = true) ∧ t.pwrGood = false ∧
        t.cask = [] ∧ t.ports = [] ∧ t.plans = [])) ∧
    (SMap.get s.pwr.hot 24 0 < 4 → exec .cellarThermalTrip s = .next s) ∧
    (4 ≤ SMap.get s.pwr.hot 24 0 → ∃ t, exec .cellarThermalTrip s = .next t ∧ t.rst.reach = some .powerOn ∧ t.rst.step = 0 ∧
      t.pwr.cellarTrip = true ∧ t.thermtripLow = true) ∧
    (s.hif.linkUp = true →
      exec .peakWRead s = .next (State.reply { s with pwr := { s.pwr with peakW := s.pwr.pinW } }
        (.data (BitVec.ofNat 64 (s.pwr.pinW.toNat + 2 ^ 16 * s.pwr.peakW.toNat)))) ∧
      (let cool := ∀ i, i < 57 → (s.temp i).toInt ≤ 4 * ((tripLevel i : Int) - 15)
       (s.pwr.trip = false → exec .tripClear s = .next s) ∧ (s.pwr.trip = true → ¬cool → exec .tripClear s = ignored) ∧
       (s.pwr.trip = true → cool → ∃ t, exec .tripClear s = .next t ∧ t.pwr = { s.pwr with trip := false, tripLatch := false } ∧
         t.inner = { s.inner with pwr := t.pwr }))) ∧
    (s.monitored = false → ∀ c ∈ [Instr.clearFaults, .capability, .statusWord, .statusInput, .statusTemperature, .readVin, .readIin,
        .readTemperature1, .readTemperature2, .readPin, .pmbusRevision, .pmbusReject .unsupported],
      exec c s = .next (s.reply .noResponse)) ∧
    (s.monitored = true →
      let x := s.pwr.pm
      let answers (code n v : Nat) := Host.Outcome.next (s.busAnswer code n v)
      (∀ code n v, n ≤ 2 → s.busAnswer code n v =
        s.reply (.data (BitVec.ofNat 64 (v % 256 ^ n + 256 ^ n * (s.busPec code (leBytes n v)).toNat)))) ∧
      exec .capability s = answers 0x19 1 0xD0 ∧ exec .pmbusRevision s = answers 0x98 1 0x33 ∧
      exec .statusWord s = answers 0x79 2 s.statusWord ∧
      exec .statusInput s = answers 0x7C 1 (16 * b2n (x.inputBits.getLsbD 0) + 128 * b2n (x.inputBits.getLsbD 1)) ∧
      exec .statusTemperature s = answers 0x7D 1 (64 * b2n (x.tempBits.getLsbD 0) + 128 * b2n (x.tempBits.getLsbD 1)) ∧
      exec .readVin s = answers 0x88 2 (linear11 (min x.vinA.toNat x.vinB.toNat : Nat) 100).toNat ∧
      exec .readIin s = answers 0x89 2 (linear11 (x.iinA.toNat + x.iinB.toNat : Nat) 100).toNat ∧
      exec .readPin s = answers 0x97 2 (linear11 (x.pinW.toNat : Nat) 1).toNat ∧
      (∃ m : Int, exec .readTemperature1 s = answers 0x8D 2 (linear11 m 4).toNat ∧
        (∀ i, i < 25 → (SMap.get x.temps i 0).toInt ≤ m) ∧ ∃ i, i < 25 ∧ m = (SMap.get x.temps i 0).toInt) ∧
      (∃ m : Int, exec .readTemperature2 s = answers 0x8E 2 (linear11 m 4).toNat ∧
        (∀ i, 25 ≤ i → i < 57 → (SMap.get x.temps i 0).toInt ≤ m) ∧ ∃ i, 25 ≤ i ∧ i < 57 ∧ m = (SMap.get x.temps i 0).toInt) ∧
      (∀ why, exec (.pmbusReject why) s = .next (State.reply { s with pwr := { s.pwr with pm := { x with cml := true } } } .noResponse)) ∧
      (let stay : BitVec 3 := if s.pwr.inputFault then s.pwr.inputKind.setWidth 3 ||| 4 else 0
       let pm := { x with cml := false, tempBits := BitVec.ofNat 2 (b2n s.pwr.warn + 2 * b2n s.pwr.trip), inputBits := stay }
       exec .clearFaults s = .next { s with pwr := { s.pwr with pm := pm } }))
end

