-- ==== Sys2Proof/Laws/SMap.lean ====
section
/-! SUPPORT. Laws of sparse tables: reading after writing, and that every operation keeps the canonical form. -/
namespace Sys2Proof.Machine

variable {α : Type}

/-! ### Reading after writing -/

@[simp] theorem SMap.get_nil (k : Nat) (d : α) : SMap.get ([] : SMap α) k d = d := rfl
@[simp] theorem SMap.find_nil (k : Nat) : SMap.find ([] : SMap α) k = none := rfl

theorem SMap.get_find (m : SMap α) (k : Nat) (d : α) : SMap.get m k d = (SMap.find m k).getD d := by
  induction m with
  | nil => rfl
  | cons x r ih => obtain ⟨j, w⟩ := x; simp only [SMap.get, SMap.find]; split <;> simp [ih]

@[simp] theorem SMap.find_put_self (m : SMap α) (k : Nat) (v : α) : SMap.find (SMap.put m k v) k = some v := by
  induction m with
  | nil => simp [SMap.put, SMap.find]
  | cons x r ih =>
    obtain ⟨j, w⟩ := x
    simp only [SMap.put]
    split
    · simp [SMap.find]
    · split
      · simp [SMap.find]
      · simp [SMap.find, ih, *]

theorem SMap.find_put_ne (m : SMap α) {k j : Nat} (v : α) (h : j ≠ k) : SMap.find (SMap.put m k v) j = SMap.find m j := by
  induction m with
  | nil => simp [SMap.put, SMap.find, Ne.symm h]
  | cons x r ih =>
    obtain ⟨i, w⟩ := x
    simp only [SMap.put]
    split
    · subst_vars; simp [SMap.find, Ne.symm h]
    · split
      · simp [SMap.find, Ne.symm h]
      · simp only [SMap.find, ih]

@[simp] theorem SMap.find_erase_self (m : SMap α) (k : Nat) : SMap.find (SMap.erase m k) k = none := by
  induction m with
  | nil => rfl
  | cons x r ih => obtain ⟨j, w⟩ := x; simp only [SMap.erase]; split <;> simp [SMap.find, ih, *]

theorem SMap.find_erase_ne (m : SMap α) {k j : Nat} (h : j ≠ k) : SMap.find (SMap.erase m k) j = SMap.find m j := by
  induction m with
  | nil => rfl
  | cons x r ih =>
    obtain ⟨i, w⟩ := x
    simp only [SMap.erase]
    split
    · subst_vars; simp [SMap.find, Ne.symm h, ih]
    · simp only [SMap.find, ih]

@[simp] theorem SMap.get_put_self (m : SMap α) (k : Nat) (v d : α) : SMap.get (SMap.put m k v) k d = v := by
  simp [SMap.get_find]

theorem SMap.get_put_ne (m : SMap α) {k j : Nat} (v d : α) (h : j ≠ k) : SMap.get (SMap.put m k v) j d = SMap.get m j d := by
  simp [SMap.get_find, SMap.find_put_ne m v h]

@[simp] theorem SMap.get_erase_self (m : SMap α) (k : Nat) (d : α) : SMap.get (SMap.erase m k) k d = d := by
  simp [SMap.get_find]

theorem SMap.get_erase_ne (m : SMap α) {k j : Nat} (d : α) (h : j ≠ k) : SMap.get (SMap.erase m k) j d = SMap.get m j d := by
  simp [SMap.get_find, SMap.find_erase_ne m h]

/-- What was written reads back. -/
@[simp] theorem SMap.get_set_self [DecidableEq α] (m : SMap α) (k : Nat) (v d : α) : SMap.get (SMap.set m k v d) k d = v := by
  simp only [SMap.set]; split <;> simp [*]

/-- A write leaves every other key alone. -/
theorem SMap.get_set_ne [DecidableEq α] (m : SMap α) {k j : Nat} (v d e : α) (h : j ≠ k) :
    SMap.get (SMap.set m k v d) j e = SMap.get m j e := by
  simp only [SMap.set]; split
  · exact SMap.get_erase_ne m e h
  · exact SMap.get_put_ne m v e h

@[simp] theorem SMap.get_modify_self [DecidableEq α] (m : SMap α) (k : Nat) (d : α) (f : α → α) :
    SMap.get (SMap.modify m k d f) k d = f (SMap.get m k d) := by simp [SMap.modify]

theorem SMap.get_modify_ne [DecidableEq α] (m : SMap α) {k j : Nat} (d e : α) (f : α → α) (h : j ≠ k) :
    SMap.get (SMap.modify m k d f) j e = SMap.get m j e := by simp [SMap.modify, SMap.get_set_ne m _ d e h]

/-- What one write does to any key. -/
theorem SMap.get_set [DecidableEq α] (m : SMap α) (k j : Nat) (v d : α) :
    SMap.get (SMap.set m k v d) j d = if j = k then v else SMap.get m j d := by
  split
  · subst_vars; simp
  · exact SMap.get_set_ne m v d d ‹_›

theorem SMap.get_modify [DecidableEq α] (m : SMap α) (k j : Nat) (d : α) (f : α → α) :
    SMap.get (SMap.modify m k d f) j d = if j = k then f (SMap.get m k d) else SMap.get m j d := by
  simp [SMap.modify, SMap.get_set]

/-! ### The canonical form -/

theorem SMap.wfFrom_mono [DecidableEq α] {d : α} {m : SMap α} {a b : Nat} (h : a ≤ b) (w : SMap.wfFrom b d m = true) :
    SMap.wfFrom a d m = true := by
  cases m with
  | nil => rfl
  | cons x r => obtain ⟨k, v⟩ := x; simp only [SMap.wfFrom, Bool.and_eq_true, decide_eq_true_eq] at *; exact ⟨⟨by omega, w.1.2⟩, w.2⟩

theorem SMap.wfFrom_put [DecidableEq α] {d v : α} {m : SMap α} {lo k : Nat} (hk : lo ≤ k) (hv : v ≠ d)
    (w : SMap.wfFrom lo d m = true) : SMap.wfFrom lo d (SMap.put m k v) = true := by
  induction m generalizing lo with
  | nil => simp [SMap.put, SMap.wfFrom, hk, hv]
  | cons x r ih =>
    obtain ⟨j, u⟩ := x
    simp only [SMap.wfFrom, Bool.and_eq_true, decide_eq_true_eq] at w
    simp only [SMap.put]
    split
    · subst_vars; simp [SMap.wfFrom, hk, hv, w.2]
    · split
      · simp only [SMap.wfFrom, Bool.and_eq_true, decide_eq_true_eq]
        exact ⟨⟨hk, by simp [hv]⟩, ⟨⟨by omega, w.1.2⟩, w.2⟩⟩
      · simp only [SMap.wfFrom, Bool.and_eq_true, decide_eq_true_eq]
        exact ⟨w.1, ih (by omega) w.2⟩

theorem SMap.wfFrom_erase [DecidableEq α] {d : α} {m : SMap α} {lo k : Nat} (w : SMap.wfFrom lo d m = true) :
    SMap.wfFrom lo d (SMap.erase m k) = true := by
  induction m generalizing lo with
  | nil => rfl
  | cons x r ih =>
    obtain ⟨j, u⟩ := x
    simp only [SMap.wfFrom, Bool.and_eq_true, decide_eq_true_eq] at w
    simp only [SMap.erase]
    split
    · exact ih (SMap.wfFrom_mono (by omega) w.2)
    · simp only [SMap.wfFrom, Bool.and_eq_true, decide_eq_true_eq]; exact ⟨w.1, ih w.2⟩

theorem SMap.wf_set [DecidableEq α] {d v : α} {m : SMap α} {k : Nat} (w : SMap.wf d m = true) :
    SMap.wf d (SMap.set m k v d) = true := by
  simp only [SMap.wf, SMap.set] at *
  split
  · exact SMap.wfFrom_erase w
  · exact SMap.wfFrom_put (by omega) ‹_› w

theorem SMap.wf_modify [DecidableEq α] {d : α} {m : SMap α} {k : Nat} {f : α → α} (w : SMap.wf d m = true) :
    SMap.wf d (SMap.modify m k d f) = true := SMap.wf_set w

theorem SMap.wfFrom_filter [DecidableEq α] {d : α} {m : SMap α} {lo : Nat} (p : Nat × α → Bool) (w : SMap.wfFrom lo d m = true) :
    SMap.wfFrom lo d (m.filter p) = true := by
  induction m generalizing lo with
  | nil => rfl
  | cons x r ih =>
    obtain ⟨j, u⟩ := x
    simp only [SMap.wfFrom, Bool.and_eq_true, decide_eq_true_eq] at w
    simp only [List.filter_cons]
    split
    · simp only [SMap.wfFrom, Bool.and_eq_true, decide_eq_true_eq]; exact ⟨w.1, ih w.2⟩
    · exact ih (SMap.wfFrom_mono (by omega) w.2)

theorem SMap.wf_filter [DecidableEq α] {d : α} {m : SMap α} (p : Nat × α → Bool) (w : SMap.wf d m = true) :
    SMap.wf d (m.filter p) = true := SMap.wfFrom_filter p w

/-- Writing bytes keeps the Cask's canonical form. -/
theorem wf_setBytes {m : List Host.Cell} {a : Nat} (b : List Byte) (w : SMap.wf 0 m = true) :
    SMap.wf 0 (setBytes m a b) = true := by
  induction b generalizing m a with
  | nil => exact w
  | cons x r ih => exact ih (SMap.wf_set w)

/-- A byte outside the bytes written reads as before. -/
theorem byteAt_setBytes_ne {m : List Host.Cell} {a j : Nat} (b : List Byte) (h : j < a ∨ a + b.length ≤ j) :
    byteAt (setBytes m a b) j = byteAt m j := by
  induction b generalizing m a with
  | nil => rfl
  | cons x r ih =>
    simp only [setBytes, List.length_cons] at *
    rw [ih (by omega)]
    exact SMap.get_set_ne m x 0 0 (by omega)

/-- A byte written reads back. -/
theorem byteAt_setBytes {m : List Host.Cell} {a i : Nat} {b : List Byte} (h : i < b.length) :
    byteAt (setBytes m a b) (a + i) = b[i] := by
  induction b generalizing m a i with
  | nil => simp at h
  | cons x r ih =>
    cases i with
    | zero =>
      simp only [setBytes, Nat.add_zero, List.getElem_cons_zero]
      rw [byteAt_setBytes_ne r (by omega)]
      simp [byteAt]
    | succ n =>
      simp only [setBytes, List.getElem_cons_succ]
      have := ih (m := SMap.set m a x 0) (a := a + 1) (i := n) (by simpa using h)
      rw [← this]; congr 1; omega

/-- What putBytes leaves at an address outside the bytes put. -/
theorem find_putBytes_ne {m : List Host.Cell} {a j : Nat} (b : List Byte) (h : j < a ∨ a + b.length ≤ j) :
    SMap.find (putBytes m a b) j = SMap.find m j := by
  induction b generalizing m a with
  | nil => rfl
  | cons x r ih =>
    simp only [putBytes, List.length_cons] at *
    rw [ih (by omega)]
    exact SMap.find_put_ne m x (by omega)

/-- What putBytes puts at an address. -/
theorem find_putBytes {m : List Host.Cell} {a i : Nat} {b : List Byte} (h : i < b.length) :
    SMap.find (putBytes m a b) (a + i) = some b[i] := by
  induction b generalizing m a i with
  | nil => simp at h
  | cons x r ih =>
    cases i with
    | zero =>
      simp only [putBytes, Nat.add_zero, List.getElem_cons_zero]
      rw [find_putBytes_ne r (by omega)]
      simp
    | succ n =>
      simp only [putBytes, List.getElem_cons_succ]
      have := ih (m := SMap.put m a x) (a := a + 1) (i := n) (by simpa using h)
      rw [← this]; congr 1; omega

end Sys2Proof.Machine
end

