-- ==== Sys2Proof/Laws/Bits.lean ====
section
/-! SUPPORT. Laws of bit fields and of stored register words: what was written to a field reads back, and every other field and
register stays. -/
namespace Sys2Proof.Machine

/-! ### Fields -/

/-- A number is its part above a field, the field, and its part below. -/
theorem nat_fields (v lo w : Nat) : v = v / 2^(lo+w) * 2^(lo+w) + fld v lo w * 2^lo + v % 2^lo ∧ fld v lo w < 2^w := by
  unfold fld
  rw [Nat.shiftRight_eq_div_pow]
  have h1 := Nat.div_add_mod v (2^lo)
  have h2 := Nat.div_add_mod (v / 2^lo) (2^w)
  rw [Nat.div_div_eq_div_mul, ← Nat.pow_add] at h2
  refine ⟨?_, Nat.mod_lt _ (Nat.two_pow_pos w)⟩
  have e : 2^(lo+w) = 2^lo * 2^w := Nat.pow_add ..
  have : v / 2^(lo+w) * 2^(lo+w) + (v/2^lo % 2^w) * 2^lo = (v/2^lo) * 2^lo := by
    conv => rhs; rw [← h2]
    rw [Nat.add_mul, e, Nat.mul_comm (2^w), Nat.mul_assoc, Nat.mul_comm (2^w)]
  rw [this, Nat.mul_comm]; exact h1.symm

/-- What replacing a field makes of a number. -/
theorem putFld_eq (v lo w x : Nat) : putFld v lo w x = v / 2^(lo+w) * 2^(lo+w) + (x % 2^w) * 2^lo + v % 2^lo := by
  have h := (nat_fields v lo w).1
  unfold putFld
  rw [Nat.shiftLeft_eq, Nat.shiftLeft_eq]
  generalize v / 2^(lo+w) * 2^(lo+w) = A at *
  generalize fld v lo w * 2^lo = B at *
  generalize v % 2^lo = C at *
  generalize (x % 2^w) * 2^lo = D at *
  omega

/-- The field replaced reads as the value put. -/
theorem fld_put_self (v lo w x : Nat) : fld (putFld v lo w x) lo w = x % 2^w := by
  rw [putFld_eq]; unfold fld; rw [Nat.shiftRight_eq_div_pow]
  have hc : v % 2^lo < 2^lo := Nat.mod_lt _ (Nat.two_pow_pos lo)
  have e : v / 2^(lo+w) * 2^(lo+w) + (x % 2^w) * 2^lo + v % 2^lo = 2^lo * (2^w * (v / 2^(lo+w)) + x % 2^w) + v % 2^lo := by
    rw [Nat.pow_add]; simp [Nat.mul_add, Nat.mul_comm, Nat.mul_assoc]
  rw [e, Nat.mul_add_div (Nat.two_pow_pos lo), Nat.div_eq_of_lt hc, Nat.add_zero, Nat.mul_add_mod, Nat.mod_mod]

/-- A field apart from the one replaced reads as before. -/
theorem fld_put_other (v lo w x lo' w' : Nat) (h : lo' + w' ≤ lo ∨ lo + w ≤ lo') : fld (putFld v lo w x) lo' w' = fld v lo' w' := by
  have hm : (putFld v lo w x) % 2^lo = v % 2^lo := by
    rw [putFld_eq]
    have e : v / 2^(lo+w) * 2^(lo+w) + (x % 2^w) * 2^lo + v % 2^lo = 2^lo * (2^w * (v / 2^(lo+w)) + x % 2^w) + v % 2^lo := by
      rw [Nat.pow_add]; simp [Nat.mul_add, Nat.mul_comm, Nat.mul_assoc]
    rw [e, Nat.mul_add_mod, Nat.mod_mod]
  have hd : (putFld v lo w x) / 2^(lo+w) = v / 2^(lo+w) := by
    rw [putFld_eq]
    have hx : x % 2^w < 2^w := Nat.mod_lt _ (Nat.two_pow_pos w)
    have hc : v % 2^lo < 2^lo := Nat.mod_lt _ (Nat.two_pow_pos lo)
    have : (x % 2^w) * 2^lo + v % 2^lo < 2^(lo+w) := by
      have : (x % 2^w + 1) * 2^lo ≤ 2^w * 2^lo := Nat.mul_le_mul_right _ hx
      rw [Nat.pow_add, Nat.mul_comm (2^lo)]; rw [Nat.add_mul] at this; omega
    rw [Nat.add_assoc, Nat.mul_comm, Nat.mul_add_div (Nat.two_pow_pos _), Nat.div_eq_of_lt this, Nat.add_zero]
  unfold fld; rw [Nat.shiftRight_eq_div_pow, Nat.shiftRight_eq_div_pow]
  rcases h with h | h
  · obtain ⟨d, rfl⟩ : ∃ d, lo = lo' + w' + d := ⟨lo - (lo'+w'), by omega⟩
    have key (u : Nat) : u / 2^lo' % 2^w' = (u % 2^(lo'+w'+d)) / 2^lo' % 2^w' := by
      rw [Nat.add_assoc, Nat.pow_add, Nat.mod_mul_right_div_self, Nat.pow_add, Nat.mod_mul_right_mod]
    rw [key, hm, ← key]
  · obtain ⟨d, rfl⟩ : ∃ d, lo' = lo + w + d := ⟨lo' - (lo+w), by omega⟩
    rw [Nat.pow_add, ← Nat.div_div_eq_div_mul, hd, Nat.div_div_eq_div_mul]

/-- A replaced field that lies inside a width keeps the number inside it. -/
theorem putFld_lt (v lo w x n : Nat) (hv : v < 2^n) (h : lo + w ≤ n) : putFld v lo w x < 2^n := by
  rw [putFld_eq]
  have hx : x % 2^w < 2^w := Nat.mod_lt _ (Nat.two_pow_pos w)
  have hc : v % 2^lo < 2^lo := Nat.mod_lt _ (Nat.two_pow_pos lo)
  have h1 : (x % 2^w) * 2^lo + v % 2^lo < 2^(lo+w) := by
    have : (x % 2^w + 1) * 2^lo ≤ 2^w * 2^lo := Nat.mul_le_mul_right _ hx
    rw [Nat.pow_add, Nat.mul_comm (2^lo)]; rw [Nat.add_mul] at this; omega
  obtain ⟨d, rfl⟩ : ∃ d, n = lo + w + d := ⟨n - (lo+w), by omega⟩
  have h2 : v / 2^(lo+w) < 2^d := by
    rw [Nat.div_lt_iff_lt_mul (Nat.two_pow_pos _), ← Nat.pow_add, Nat.add_comm d]; exact hv
  have : (v / 2^(lo+w) + 1) * 2^(lo+w) ≤ 2^d * 2^(lo+w) := Nat.mul_le_mul_right _ h2
  rw [Nat.pow_add 2 (lo+w) d, Nat.mul_comm (2^(lo+w))]; rw [Nat.add_mul] at this; omega

/-! ### Register words -/

/-- A reset word has 32 bits. -/
theorem Reg.resetWord_lt (r : Reg) (last : Nat) : r.resetWord last < 2 ^ 32 := by
  have h (c : Prop) [Decidable c] (a b : Nat) (ha : a < 2 ^ 32) (hb : b < 2 ^ 32) : (if c then a else b) < 2 ^ 32 := by
    split <;> assumption
  cases r <;> simp only [Reg.resetWord, Reg.fields, Reg.roFields, List.append_nil, List.nil_append, List.foldl_cons, List.foldl_nil,
    Nat.zero_add, Nat.shiftLeft_zero] <;> first | decide | (repeat' split <;> decide) | exact h _ _ _ (by decide) (by decide)

/-- A stored register word has 32 bits. -/
theorem State.reg_lt (s : State) (r : Reg) (ix : List Nat) : s.reg r ix < 2 ^ 32 := by
  unfold State.reg
  split
  · exact BitVec.isLt _
  · exact r.resetWord_lt _

/-- A register word stored reads back. -/
@[simp] theorem State.reg_setReg (s : State) (r : Reg) (ix : List Nat) (v : Nat) : (s.setReg r ix v).reg r ix = v % 2 ^ 32 := by
  have h := r.resetWord_lt (ix.getLastD 0)
  unfold State.reg State.setReg SMap.set
  by_cases e : BitVec.ofNat 32 v = BitVec.ofNat 32 (r.resetWord (ix.getLastD 0))
  · have k := congrArg BitVec.toNat e
    simp only [BitVec.toNat_ofNat] at k
    simp only [if_pos e, SMap.find_erase_self]
    omega
  · simp only [if_neg e, SMap.find_put_self, BitVec.toNat_ofNat]

/-- Storing a register word leaves every other address alone. -/
theorem State.find_setReg_ne (s : State) (r : Reg) (ix : List Nat) (v b : Nat) (h : b ≠ r.addr ix) :
    SMap.find (s.setReg r ix v).regs b = SMap.find s.regs b := by
  simp only [State.setReg, SMap.set]
  split
  · exact SMap.find_erase_ne _ h
  · exact SMap.find_put_ne _ _ h

/-- A field written reads back. -/
theorem State.rf_setRf_self (s : State) (r : Reg) (ix : List Nat) (lo w x : Nat) (h : lo + w ≤ 32) :
    (s.setRf r ix lo w x).rf r ix lo w = x % 2 ^ w := by
  simp only [State.rf, State.setRf, State.reg_setReg]
  rw [Nat.mod_eq_of_lt (putFld_lt _ _ _ _ 32 (s.reg_lt r ix) h), fld_put_self]

/-- A field apart from the one written reads as before. -/
theorem State.rf_setRf_other (s : State) (r : Reg) (ix : List Nat) (lo w x lo' w' : Nat) (h : lo + w ≤ 32)
    (k : lo' + w' ≤ lo ∨ lo + w ≤ lo') : (s.setRf r ix lo w x).rf r ix lo' w' = s.rf r ix lo' w' := by
  simp only [State.rf, State.setRf, State.reg_setReg]
  rw [Nat.mod_eq_of_lt (putFld_lt _ _ _ _ 32 (s.reg_lt r ix) h), fld_put_other _ _ _ _ _ _ k]

/-- A CRC of width `w` stays below 2^w. -/
theorem crcBits_lt (w p : Nat) (hp : p < 2 ^ w) (l : List Bool) : ∀ c, c < 2 ^ w → crcBits w p c l < 2 ^ w := by
  induction l with
  | nil => intro c h; exact h
  | cons b l ih =>
    intro c _
    refine ih _ ?_
    have m : c * 2 % 2 ^ w < 2 ^ w := Nat.mod_lt _ (Nat.two_pow_pos w)
    unfold crcBit
    dsimp only
    split
    · exact Nat.xor_lt_two_pow m hp
    · exact m

/-- The bytes of a number read back as the number. -/
theorem leNat_leBytes (n : Nat) : ∀ v, leNat (leBytes n v) = v % 256 ^ n := by
  induction n with
  | zero => intro v; simp [leBytes, leNat, Nat.mod_one]
  | succ n ih =>
    intro v
    have e : 256 ^ (n + 1) = 256 * 256 ^ n := by rw [Nat.pow_succ, Nat.mul_comm]
    rw [e, Nat.mod_mul]
    simp only [leBytes, leNat, ih, BitVec.toNat_ofNat]

end Sys2Proof.Machine
end

