-- ==== Sys2Proof/Laws/Fixed.lean ====
section
/-! SUPPORT. What each shared operation keeps: the queue of commands, the time unit and the fuses
(`State.fixed`). One lemma per operation; the few operations that change one of these have none here. -/
-- One theorem after another: many at once take more threads than the memory limit has stacks for.
set_option Elab.async false
namespace Sys2Proof.Machine
open Sys2Proof

/-- A record update of other fields. -/
@[simp] theorem fixed_mk (s : State) v_freeCtr v_regs v_shadow v_stage64 v_stageTm v_fracLatch v_pageShadow v_ctrs v_rst v_clk v_pins v_hif v_rings v_err v_ports v_queues v_pols v_tmShapeEn v_tmPolEn v_tmPend v_netBase v_sampleStart v_sampleWin v_bwStart v_bwWin v_home v_cache v_cacheFill v_tables v_chan v_lookups v_hostRecs v_loads v_tblWait v_sheaves v_groups v_doms v_held v_nextFid v_waiting v_flying v_streams v_reseq v_s1 v_s2 v_s1count v_arriving v_lanesIn v_arrivals v_floors v_plans v_loadQ v_mashIn v_respIn v_pitchIn v_svcSeq v_tuns v_arrays v_kstreams v_lasers v_rings1 v_engines v_meshes v_bundles v_dirs v_pitch v_pitchAcks v_pitchDoms v_stageLeft v_expulsions v_launches v_tap v_blockRst v_nvLasers v_nvSecond v_pwr v_out v_strikes :
    State.fixed (State.mk s.pending v_freeCtr v_regs v_shadow v_stage64 v_stageTm v_fracLatch v_pageShadow v_ctrs v_rst v_clk v_pins s.time v_hif v_rings v_err v_ports v_queues v_pols v_tmShapeEn v_tmPolEn v_tmPend v_netBase v_sampleStart v_sampleWin v_bwStart v_bwWin v_home v_cache v_cacheFill v_tables v_chan v_lookups v_hostRecs v_loads v_tblWait v_sheaves v_groups v_doms v_held v_nextFid v_waiting v_flying v_streams v_reseq v_s1 v_s2 v_s1count v_arriving v_lanesIn v_arrivals v_floors v_plans v_loadQ v_mashIn v_respIn v_pitchIn v_svcSeq v_tuns v_arrays v_kstreams v_lasers v_rings1 v_engines v_meshes v_bundles v_dirs v_pitch v_pitchAcks v_pitchDoms s.cask v_stageLeft v_expulsions v_launches v_tap v_blockRst v_nvLasers v_nvSecond s.sec v_pwr v_out v_strikes) = s.fixed := rfl

/-- The same where the security engine changes beside its fuses. -/
@[simp] theorem fixed_mk_sec (s : State) v_freeCtr v_regs v_shadow v_stage64 v_stageTm v_fracLatch v_pageShadow v_ctrs v_rst v_clk v_pins v_hif v_rings v_err v_ports v_queues v_pols v_tmShapeEn v_tmPolEn v_tmPend v_netBase v_sampleStart v_sampleWin v_bwStart v_bwWin v_home v_cache v_cacheFill v_tables v_chan v_lookups v_hostRecs v_loads v_tblWait v_sheaves v_groups v_doms v_held v_nextFid v_waiting v_flying v_streams v_reseq v_s1 v_s2 v_s1count v_arriving v_lanesIn v_arrivals v_floors v_plans v_loadQ v_mashIn v_respIn v_pitchIn v_svcSeq v_tuns v_arrays v_kstreams v_lasers v_rings1 v_engines v_meshes v_bundles v_dirs v_pitch v_pitchAcks v_pitchDoms v_stageLeft v_expulsions v_launches v_tap v_blockRst v_nvLasers v_nvSecond v_pwr v_out v_strikes c_bankA c_bankB c_idKey c_hasCert c_lcState c_bootBank c_runBank c_nextBank c_fallback c_bootFail c_stagedValid c_running c_trial c_recovered c_nonce c_nonceDrawn c_recovErr c_staging c_activating c_reportSeq c_wdRestarts c_fuseSvnShown c_revokedShown c_ownerShown :
    State.fixed (State.mk s.pending v_freeCtr v_regs v_shadow v_stage64 v_stageTm v_fracLatch v_pageShadow v_ctrs v_rst v_clk v_pins s.time v_hif v_rings v_err v_ports v_queues v_pols v_tmShapeEn v_tmPolEn v_tmPend v_netBase v_sampleStart v_sampleWin v_bwStart v_bwWin v_home v_cache v_cacheFill v_tables v_chan v_lookups v_hostRecs v_loads v_tblWait v_sheaves v_groups v_doms v_held v_nextFid v_waiting v_flying v_streams v_reseq v_s1 v_s2 v_s1count v_arriving v_lanesIn v_arrivals v_floors v_plans v_loadQ v_mashIn v_respIn v_pitchIn v_svcSeq v_tuns v_arrays v_kstreams v_lasers v_rings1 v_engines v_meshes v_bundles v_dirs v_pitch v_pitchAcks v_pitchDoms s.cask v_stageLeft v_expulsions v_launches v_tap v_blockRst v_nvLasers v_nvSecond (SecSt.mk s.sec.fuses c_bankA c_bankB c_idKey c_hasCert c_lcState c_bootBank c_runBank c_nextBank c_fallback c_bootFail c_stagedValid c_running c_trial c_recovered c_nonce c_nonceDrawn c_recovErr c_staging c_activating c_reportSeq c_wdRestarts c_fuseSvnShown c_revokedShown c_ownerShown) v_pwr v_out v_strikes) = s.fixed := rfl

/-- A choice between two states. -/
@[simp] theorem fixed_ite (c : Prop) [Decidable c] (a b : State) : (if c then a else b).fixed = if c then a.fixed else b.fixed :=
  apply_ite _ _ _ _

/-- A fold of an operation that keeps them. -/
@[simp] theorem foldl_fixed {β : Type} (g : State → β → State) (l : List β) (s : State)
    (h : ∀ s x, (g s x).fixed = s.fixed) : (l.foldl g s).fixed = s.fixed := by
  induction l generalizing s with
  | nil => rfl
  | cons x r ih => rw [List.foldl_cons, ih, h]

/-- The same with a value carried beside the state. -/
@[simp] theorem foldl_fixed_fst {β γ : Type} (g : State × γ → β → State × γ) (l : List β) (s : State × γ)
    (h : ∀ s x, (g s x).1.fixed = s.1.fixed) : (l.foldl g s).1.fixed = s.1.fixed := by
  induction l generalizing s with
  | nil => rfl
  | cons x r ih => rw [List.foldl_cons, ih, h]

@[simp] theorem State.setReg_fixed (s : State) (r : Reg) (ix : List Nat) (v : Nat) :
    (State.setReg s r ix v).fixed = s.fixed := by
  unfold State.setReg
  repeat' (first | with_reducible rfl | (simp [*]; done) | split | (refine (foldl_fixed _ _ _ ?_).trans ?_ <;> intros) | (refine (foldl_fixed_fst _ _ _ ?_).trans ?_ <;> intros) | simp [*])

@[simp] theorem State.setRf_fixed (s : State) (r : Reg) (ix : List Nat) (lo : Nat) (w : Nat) (x : Nat) :
    (State.setRf s r ix lo w x).fixed = s.fixed := by
  unfold State.setRf
  repeat' (first | with_reducible rfl | (simp [*]; done) | split | (refine (foldl_fixed _ _ _ ?_).trans ?_ <;> intros) | (refine (foldl_fixed_fst _ _ _ ?_).trans ?_ <;> intros) | simp [*])

@[simp] theorem State.updPort_fixed (s : State) (p : Nat) (f : PortSt → PortSt) :
    (State.updPort s p f).fixed = s.fixed := by
  unfold State.updPort
  repeat' (first | with_reducible rfl | (simp [*]; done) | split | (refine (foldl_fixed _ _ _ ?_).trans ?_ <;> intros) | (refine (foldl_fixed_fst _ _ _ ?_).trans ?_ <;> intros) | simp [*])

@[simp] theorem State.updRing_fixed (s : State) (r : Nat) (f : RingSt → RingSt) :
    (State.updRing s r f).fixed = s.fixed := by
  unfold State.updRing
  repeat' (first | with_reducible rfl | (simp [*]; done) | split | (refine (foldl_fixed _ _ _ ?_).trans ?_ <;> intros) | (refine (foldl_fixed_fst _ _ _ ?_).trans ?_ <;> intros) | simp [*])

@[simp] theorem State.updQueue_fixed (s : State) (p : Nat) (n : Nat) (f : QueueSt → QueueSt) :
    (State.updQueue s p n f).fixed = s.fixed := by
  unfold State.updQueue
  repeat' (first | with_reducible rfl | (simp [*]; done) | split | (refine (foldl_fixed _ _ _ ?_).trans ?_ <;> intros) | (refine (foldl_fixed_fst _ _ _ ?_).trans ?_ <;> intros) | simp [*])

@[simp] theorem State.updPol_fixed (s : State) (p : Nat) (t : Nat) (f : PolSt → PolSt) :
    (State.updPol s p t f).fixed = s.fixed := by
  unfold State.updPol
  repeat' (first | with_reducible rfl | (simp [*]; done) | split | (refine (foldl_fixed _ _ _ ?_).trans ?_ <;> intros) | (refine (foldl_fixed_fst _ _ _ ?_).trans ?_ <;> intros) | simp [*])

@[simp] theorem State.updTable_fixed (s : State) (q : Nat) (f : TableSt → TableSt) :
    (State.updTable s q f).fixed = s.fixed := by
  unfold State.updTable
  repeat' (first | with_reducible rfl | (simp [*]; done) | split | (refine (foldl_fixed _ _ _ ?_).trans ?_ <;> intros) | (refine (foldl_fixed_fst _ _ _ ?_).trans ?_ <;> intros) | simp [*])

@[simp] theorem State.updFloor_fixed (s : State) (q : Nat) (f : FloorSt → FloorSt) :
    (State.updFloor s q f).fixed = s.fixed := by
  unfold State.updFloor
  repeat' (first | with_reducible rfl | (simp [*]; done) | split | (refine (foldl_fixed _ _ _ ?_).trans ?_ <;> intros) | (refine (foldl_fixed_fst _ _ _ ?_).trans ?_ <;> intros) | simp [*])

@[simp] theorem State.updArray_fixed (s : State) (k : Nat) (f : ArraySt → ArraySt) :
    (State.updArray s k f).fixed = s.fixed := by
  unfold State.updArray
  repeat' (first | with_reducible rfl | (simp [*]; done) | split | (refine (foldl_fixed _ _ _ ?_).trans ?_ <;> intros) | (refine (foldl_fixed_fst _ _ _ ?_).trans ?_ <;> intros) | simp [*])

@[simp] theorem State.updEngine_fixed (s : State) (o : Nat) (f : EngineSt → EngineSt) :
    (State.updEngine s o f).fixed = s.fixed := by
  unfold State.updEngine
  repeat' (first | with_reducible rfl | (simp [*]; done) | split | (refine (foldl_fixed _ _ _ ?_).trans ?_ <;> intros) | (refine (foldl_fixed_fst _ _ _ ?_).trans ?_ <;> intros) | simp [*])

@[simp] theorem State.updLaser_fixed (s : State) (o : Nat) (n : Nat) (f : Laser → Laser) :
    (State.updLaser s o n f).fixed = s.fixed := by
  unfold State.updLaser
  repeat' (first | with_reducible rfl | (simp [*]; done) | split | (refine (foldl_fixed _ _ _ ?_).trans ?_ <;> intros) | (refine (foldl_fixed_fst _ _ _ ?_).trans ?_ <;> intros) | simp [*])

@[simp] theorem State.updMesh_fixed (s : State) (g : Nat) (f : MeshSt → MeshSt) :
    (State.updMesh s g f).fixed = s.fixed := by
  unfold State.updMesh
  repeat' (first | with_reducible rfl | (simp [*]; done) | split | (refine (foldl_fixed _ _ _ ?_).trans ?_ <;> intros) | (refine (foldl_fixed_fst _ _ _ ?_).trans ?_ <;> intros) | simp [*])

@[simp] theorem State.updBundle_fixed (s : State) (x : Nat) (y : Nat) (b : Nat) (f : BundleSt → BundleSt) :
    (State.updBundle s x y b f).fixed = s.fixed := by
  unfold State.updBundle
  repeat' (first | with_reducible rfl | (simp [*]; done) | split | (refine (foldl_fixed _ _ _ ?_).trans ?_ <;> intros) | (refine (foldl_fixed_fst _ _ _ ?_).trans ?_ <;> intros) | simp [*])

@[simp] theorem State.updDir_fixed (s : State) (x : Nat) (y : Nat) (f : DirSt → DirSt) :
    (State.updDir s x y f).fixed = s.fixed := by
  unfold State.updDir
  repeat' (first | with_reducible rfl | (simp [*]; done) | split | (refine (foldl_fixed _ _ _ ?_).trans ?_ <;> intros) | (refine (foldl_fixed_fst _ _ _ ?_).trans ?_ <;> intros) | simp [*])

@[simp] theorem State.updMicroRing_fixed (s : State) (r : RingId) (f : MicroRing → MicroRing) :
    (State.updMicroRing s r f).fixed = s.fixed := by
  unfold State.updMicroRing
  repeat' (first | with_reducible rfl | (simp [*]; done) | split | (refine (foldl_fixed _ _ _ ?_).trans ?_ <;> intros) | (refine (foldl_fixed_fst _ _ _ ?_).trans ?_ <;> intros) | simp [*])

@[simp] theorem State.updPitch_fixed (s : State) (k : Nat) (f : PitchImg → PitchImg) :
    (State.updPitch s k f).fixed = s.fixed := by
  unfold State.updPitch
  repeat' (first | with_reducible rfl | (simp [*]; done) | split | (refine (foldl_fixed _ _ _ ?_).trans ?_ <;> intros) | (refine (foldl_fixed_fst _ _ _ ?_).trans ?_ <;> intros) | simp [*])

@[simp] theorem State.updTun_fixed (s : State) (k : Nat) (f : TunSt → TunSt) :
    (State.updTun s k f).fixed = s.fixed := by
  unfold State.updTun
  repeat' (first | with_reducible rfl | (simp [*]; done) | split | (refine (foldl_fixed _ _ _ ?_).trans ?_ <;> intros) | (refine (foldl_fixed_fst _ _ _ ?_).trans ?_ <;> intros) | simp [*])

@[simp] theorem State.updKstream_fixed (s : State) (k : Nat) (f : KStream → KStream) :
    (State.updKstream s k f).fixed = s.fixed := by
  unfold State.updKstream
  repeat' (first | with_reducible rfl | (simp [*]; done) | split | (refine (foldl_fixed _ _ _ ?_).trans ?_ <;> intros) | (refine (foldl_fixed_fst _ _ _ ?_).trans ?_ <;> intros) | simp [*])

@[simp] theorem State.fresh_fixed (s : State) :
    (State.fresh s).2.fixed = s.fixed := by
  unfold State.fresh
  repeat' (first | with_reducible rfl | (simp [*]; done) | split | (refine (foldl_fixed _ _ _ ?_).trans ?_ <;> intros) | (refine (foldl_fixed_fst _ _ _ ?_).trans ?_ <;> intros) | simp [*])

@[simp] theorem State.count_fixed (s : State) (g : Nat) (i : Nat) (n : Nat) :
    (State.count s g i n).fixed = s.fixed := by
  unfold State.count
  repeat' (first | with_reducible rfl | (simp [*]; done) | split | (refine (foldl_fixed _ _ _ ?_).trans ?_ <;> intros) | (refine (foldl_fixed_fst _ _ _ ?_).trans ?_ <;> intros) | simp [*])

@[simp] theorem State.countPort_fixed (s : State) (p : Nat) (i : Nat) :
    (State.countPort s p i).fixed = s.fixed := by
  unfold State.countPort
  repeat' (first | with_reducible rfl | (simp [*]; done) | split | (refine (foldl_fixed _ _ _ ?_).trans ?_ <;> intros) | (refine (foldl_fixed_fst _ _ _ ?_).trans ?_ <;> intros) | simp [*])

@[simp] theorem State.countQuad_fixed (s : State) (q : Nat) (i : Nat) :
    (State.countQuad s q i).fixed = s.fixed := by
  unfold State.countQuad
  repeat' (first | with_reducible rfl | (simp [*]; done) | split | (refine (foldl_fixed _ _ _ ?_).trans ?_ <;> intros) | (refine (foldl_fixed_fst _ _ _ ?_).trans ?_ <;> intros) | simp [*])

@[simp] theorem State.countDev_fixed (s : State) (i : Nat) :
    (State.countDev s i).fixed = s.fixed := by
  unfold State.countDev
  repeat' (first | with_reducible rfl | (simp [*]; done) | split | (refine (foldl_fixed _ _ _ ?_).trans ?_ <;> intros) | (refine (foldl_fixed_fst _ _ _ ?_).trans ?_ <;> intros) | simp [*])

@[simp] theorem State.ignoredWrite_fixed (s : State) :
    (State.ignoredWrite s).fixed = s.fixed := by
  unfold State.ignoredWrite
  repeat' (first | with_reducible rfl | (simp [*]; done) | split | (refine (foldl_fixed _ _ _ ?_).trans ?_ <;> intros) | (refine (foldl_fixed_fst _ _ _ ?_).trans ?_ <;> intros) | simp [*])

@[simp] theorem State.writeBack_fixed (s : State) (r : Nat) :
    (State.writeBack s r).fixed = s.fixed := by
  unfold State.writeBack
  repeat' (first | with_reducible rfl | (simp [*]; done) | split | (refine (foldl_fixed _ _ _ ?_).trans ?_ <;> intros) | (refine (foldl_fixed_fst _ _ _ ?_).trans ?_ <;> intros) | simp [*])

@[simp] theorem State.sendVector_fixed (s : State) (v : Nat) :
    (State.sendVector s v).fixed = s.fixed := by
  unfold State.sendVector
  repeat' (first | with_reducible rfl | (simp [*]; done) | split | (refine (foldl_fixed _ _ _ ?_).trans ?_ <;> intros) | (refine (foldl_fixed_fst _ _ _ ?_).trans ?_ <;> intros) | simp [*])

@[simp] theorem State.fireRing_fixed (s : State) (r : Nat) :
    (State.fireRing s r).fixed = s.fixed := by
  unfold State.fireRing
  repeat' (first | with_reducible rfl | (simp [*]; done) | split | (refine (foldl_fixed _ _ _ ?_).trans ?_ <;> intros) | (refine (foldl_fixed_fst _ _ _ ?_).trans ?_ <;> intros) | simp [*])

@[simp] theorem State.judgeIrq_fixed (s : State) (r : Nat) (irqNow : Bool) :
    (State.judgeIrq s r irqNow).fixed = s.fixed := by
  unfold State.judgeIrq
  repeat' (first | with_reducible rfl | (simp [*]; done) | split | (refine (foldl_fixed _ _ _ ?_).trans ?_ <;> intros) | (refine (foldl_fixed_fst _ _ _ ?_).trans ?_ <;> intros) | simp [*])

@[simp] theorem State.putEntryNow_fixed (s : State) (r : Nat) (k : Nat) (bytes : List Byte) (irqNow : Bool) :
    (State.putEntryNow s r k bytes irqNow).fixed = s.fixed := by
  unfold State.putEntryNow
  repeat' (first | with_reducible rfl | (simp [*]; done) | split | (refine (foldl_fixed _ _ _ ?_).trans ?_ <;> intros) | (refine (foldl_fixed_fst _ _ _ ?_).trans ?_ <;> intros) | simp [*])

@[simp] theorem State.putEntry_fixed (s : State) (r : Nat) (bytes : List Byte) (irqNow : Bool) :
    (State.putEntry s r bytes irqNow).fixed = s.fixed := by
  unfold State.putEntry
  repeat' (first | with_reducible rfl | (simp [*]; done) | split | (refine (foldl_fixed _ _ _ ?_).trans ?_ <;> intros) | (refine (foldl_fixed_fst _ _ _ ?_).trans ?_ <;> intros) | simp [*])

@[simp] theorem State.eventBytes_fixed (s : State) (e : List Byte) :
    (State.eventBytes s e).fixed = s.fixed := by
  unfold State.eventBytes
  repeat' (first | with_reducible rfl | (simp [*]; done) | split | (refine (foldl_fixed _ _ _ ?_).trans ?_ <;> intros) | (refine (foldl_fixed_fst _ _ _ ?_).trans ?_ <;> intros) | simp [*])

@[simp] theorem State.event_fixed (s : State) (code : Nat) (ps : List (Nat × List Byte)) :
    (State.event s code ps).fixed = s.fixed := by
  unfold State.event
  repeat' (first | with_reducible rfl | (simp [*]; done) | split | (refine (foldl_fixed _ _ _ ?_).trans ?_ <;> intros) | (refine (foldl_fixed_fst _ _ _ ?_).trans ?_ <;> intros) | simp [*])

@[simp] theorem State.eventsLostNow_fixed (s : State) :
    (State.eventsLostNow s).fixed = s.fixed := by
  unfold State.eventsLostNow
  repeat' (first | with_reducible rfl | (simp [*]; done) | split | (refine (foldl_fixed _ _ _ ?_).trans ?_ <;> intros) | (refine (foldl_fixed_fst _ _ _ ?_).trans ?_ <;> intros) | simp [*])

@[simp] theorem State.portEvent_fixed (s : State) (p : Nat) (action : Nat) (step : Nat) (mask : BitVec 8) :
    (State.portEvent s p action step mask).fixed = s.fixed := by
  unfold State.portEvent
  repeat' (first | with_reducible rfl | (simp [*]; done) | split | (refine (foldl_fixed _ _ _ ?_).trans ?_ <;> intros) | (refine (foldl_fixed_fst _ _ _ ?_).trans ?_ <;> intros) | simp [*])

@[simp] theorem State.record_fixed (s : State) (d : Detected) :
    (State.record s d).fixed = s.fixed := by
  unfold State.record
  repeat' (first | with_reducible rfl | (simp [*]; done) | split | (refine (foldl_fixed _ _ _ ?_).trans ?_ <;> intros) | (refine (foldl_fixed_fst _ _ _ ?_).trans ?_ <;> intros) | simp [*])

@[simp] theorem State.error_fixed (s : State) (cls : Byte) (sev : Byte) (quad : Byte) (detail : List Byte) :
    (State.error s cls sev quad detail).fixed = s.fixed := by
  unfold State.error
  repeat' (first | with_reducible rfl | (simp [*]; done) | split | (refine (foldl_fixed _ _ _ ?_).trans ?_ <;> intros) | (refine (foldl_fixed_fst _ _ _ ?_).trans ?_ <;> intros) | simp [*])

@[simp] theorem State.takeErrors_fixed (s : State) :
    (State.takeErrors s).fixed = s.fixed := by
  unfold State.takeErrors
  repeat' (first | with_reducible rfl | (simp [*]; done) | split | (refine (foldl_fixed _ _ _ ?_).trans ?_ <;> intros) | (refine (foldl_fixed_fst _ _ _ ?_).trans ?_ <;> intros) | simp [*])

@[simp] theorem State.errorAt_fixed (s : State) (cls : Byte) (sev : Byte) (quad : Byte) (ps : List (Nat × List Byte)) :
    (State.errorAt s cls sev quad ps).fixed = s.fixed := by
  unfold State.errorAt
  repeat' (first | with_reducible rfl | (simp [*]; done) | split | (refine (foldl_fixed _ _ _ ?_).trans ?_ <;> intros) | (refine (foldl_fixed_fst _ _ _ ?_).trans ?_ <;> intros) | simp [*])

@[simp] theorem State.completeAs_fixed (s : State) (ref : CmdRef) (st : Status) (more : Bool) (result : List Byte) :
    (State.completeAs s ref st more result).fixed = s.fixed := by
  unfold State.completeAs
  repeat' (first | with_reducible rfl | (simp [*]; done) | split | (refine (foldl_fixed _ _ _ ?_).trans ?_ <;> intros) | (refine (foldl_fixed_fst _ _ _ ?_).trans ?_ <;> intros) | simp [*])

@[simp] theorem State.complete_fixed (s : State) (ref : CmdRef) (st : Status) (result : List Byte) :
    (State.complete s ref st result).fixed = s.fixed := by
  unfold State.complete
  repeat' (first | with_reducible rfl | (simp [*]; done) | split | (refine (foldl_fixed _ _ _ ?_).trans ?_ <;> intros) | (refine (foldl_fixed_fst _ _ _ ?_).trans ?_ <;> intros) | simp [*])

@[simp] theorem State.succeed_fixed (s : State) (ref : CmdRef) :
    (State.succeed s ref).fixed = s.fixed := by
  unfold State.succeed
  repeat' (first | with_reducible rfl | (simp [*]; done) | split | (refine (foldl_fixed _ _ _ ?_).trans ?_ <;> intros) | (refine (foldl_fixed_fst _ _ _ ?_).trans ?_ <;> intros) | simp [*])

@[simp] theorem State.refuse_fixed (s : State) (ref : CmdRef) (c : Cause) (detail : Nat) :
    (State.refuse s ref c detail).fixed = s.fixed := by
  unfold State.refuse
  repeat' (first | with_reducible rfl | (simp [*]; done) | split | (refine (foldl_fixed _ _ _ ?_).trans ?_ <;> intros) | (refine (foldl_fixed_fst _ _ _ ?_).trans ?_ <;> intros) | simp [*])

@[simp] theorem State.dmaError_fixed (s : State) (ref : CmdRef) (addr : Nat) :
    (State.dmaError s ref addr).fixed = s.fixed := by
  unfold State.dmaError
  repeat' (first | with_reducible rfl | (simp [*]; done) | split | (refine (foldl_fixed _ _ _ ?_).trans ?_ <;> intros) | (refine (foldl_fixed_fst _ _ _ ?_).trans ?_ <;> intros) | simp [*])

@[simp] theorem State.withCmd_fixed (s : State) (c : CmdRing) (op : Nat) (sub : List Byte → Bool) (k : State → List Byte → CmdRef → State) (hk : ∀ s x1 x2, (k s x1 x2).fixed = s.fixed) :
    (State.withCmd s c op sub k).fixed = s.fixed := by
  unfold State.withCmd
  repeat' (first | with_reducible rfl | (simp [*]; done) | split | (refine (foldl_fixed _ _ _ ?_).trans ?_ <;> intros) | (refine (foldl_fixed_fst _ _ _ ?_).trans ?_ <;> intros) | simp [*])

@[simp] theorem State.withRead_fixed (s : State) (c : CmdRing) (op : Nat) (sub : List Byte → Bool) (addr : List Byte → Nat) (rd : DmaRead) (k : State → List Byte → CmdRef → List Byte → State) (hk : ∀ s x1 x2 x3, (k s x1 x2 x3).fixed = s.fixed) :
    (State.withRead s c op sub addr rd k).fixed = s.fixed := by
  unfold State.withRead
  repeat' (first | with_reducible rfl | (simp [*]; done) | split | (refine (foldl_fixed _ _ _ ?_).trans ?_ <;> intros) | (refine (foldl_fixed_fst _ _ _ ?_).trans ?_ <;> intros) | simp [*])

@[simp] theorem State.hostWrite_fixed (s : State) (a : Nat) (b : List Byte) :
    (State.hostWrite s a b).fixed = s.fixed := by
  unfold State.hostWrite
  repeat' (first | with_reducible rfl | (simp [*]; done) | split | (refine (foldl_fixed _ _ _ ?_).trans ?_ <;> intros) | (refine (foldl_fixed_fst _ _ _ ?_).trans ?_ <;> intros) | simp [*])

@[simp] theorem State.reply_fixed (s : State) (r : Reply) :
    (State.reply s r).fixed = s.fixed := by
  unfold State.reply
  repeat' (first | with_reducible rfl | (simp [*]; done) | split | (refine (foldl_fixed _ _ _ ?_).trans ?_ <;> intros) | (refine (foldl_fixed_fst _ _ _ ?_).trans ?_ <;> intros) | simp [*])

@[simp] theorem State.host_fixed (s : State) (k : State → State) (hk : ∀ s, (k s).fixed = s.fixed) :
    (State.host s k).fixed = s.fixed := by
  unfold State.host
  repeat' (first | with_reducible rfl | (simp [*]; done) | split | (refine (foldl_fixed _ _ _ ?_).trans ?_ <;> intros) | (refine (foldl_fixed_fst _ _ _ ?_).trans ?_ <;> intros) | simp [*])

@[simp] theorem State.setWay_fixed (s : State) (h : Nat) (b : Nat) (w : Nat) (e : Entry) :
    (State.setWay s h b w e).fixed = s.fixed := by
  unfold State.setWay
  repeat' (first | with_reducible rfl | (simp [*]; done) | split | (refine (foldl_fixed _ _ _ ?_).trans ?_ <;> intros) | (refine (foldl_fixed_fst _ _ _ ?_).trans ?_ <;> intros) | simp [*])

@[simp] theorem State.parityRecord_fixed (s : State) (q : Nat) (cache : Bool) (place : Nat) (way : Nat) (static : Bool) :
    (State.parityRecord s q cache place way static).fixed = s.fixed := by
  unfold State.parityRecord
  repeat' (first | with_reducible rfl | (simp [*]; done) | split | (refine (foldl_fixed _ _ _ ?_).trans ?_ <;> intros) | (refine (foldl_fixed_fst _ _ _ ?_).trans ?_ <;> intros) | simp [*])

@[simp] theorem State.setChan_fixed (s : State) (h : Nat) (q : Nat) (l : List TblMsg) :
    (State.setChan s h q l).fixed = s.fixed := by
  unfold State.setChan
  repeat' (first | with_reducible rfl | (simp [*]; done) | split | (refine (foldl_fixed _ _ _ ?_).trans ?_ <;> intros) | (refine (foldl_fixed_fst _ _ _ ?_).trans ?_ <;> intros) | simp [*])

@[simp] theorem State.postMsg_fixed (s : State) (x y : Nat) (m : XMsg) :
    (State.postMsg s x y m).fixed = s.fixed := by
  unfold State.postMsg
  repeat' (first | with_reducible rfl | (simp [*]; done) | split | (refine (foldl_fixed _ _ _ ?_).trans ?_ <;> intros) | (refine (foldl_fixed_fst _ _ _ ?_).trans ?_ <;> intros) | simp [*])

@[simp] theorem State.send_fixed (s : State) (h : Nat) (q : Nat) (m : TblMsg) :
    (State.send s h q m).fixed = s.fixed := by
  unfold State.send
  repeat' (first | with_reducible rfl | (simp [*]; done) | split | (refine (foldl_fixed _ _ _ ?_).trans ?_ <;> intros) | (refine (foldl_fixed_fst _ _ _ ?_).trans ?_ <;> intros) | simp [*])

@[simp] theorem State.invalidateAll_fixed (s : State) (h : Nat) (key : W64) (cmd : Option CmdRef) :
    (State.invalidateAll s h key cmd).fixed = s.fixed := by
  unfold State.invalidateAll
  repeat' (first | with_reducible rfl | (simp [*]; done) | split | (refine (foldl_fixed _ _ _ ?_).trans ?_ <;> intros) | (refine (foldl_fixed_fst _ _ _ ?_).trans ?_ <;> intros) | simp [*])

@[simp] theorem State.readWay_fixed (s : State) (h : Nat) (b : Nat) (w : Nat) : (State.readWay s h b w).1.fixed = s.fixed := by
  simp only [State.readWay]
  generalize s.way h b w = e
  by_cases hp : parityOk e = true
  · simp only [hp, if_true]
  · simp only [hp]; simp

@[simp] theorem State.readBucket_fixed (s : State) (h : Nat) (b : Nat) (p : Entry → Bool) :
    (State.readBucket s h b p).1.fixed = s.fixed := by
  unfold State.readBucket
  repeat' (first | with_reducible rfl | (simp [*]; done) | split | (refine (foldl_fixed _ _ _ ?_).trans ?_ <;> intros) | (refine (foldl_fixed_fst _ _ _ ?_).trans ?_ <;> intros) | simp [*])

@[simp] theorem State.homeFind_fixed (s : State) (h : Nat) (key : W64) :
    (State.homeFind s h key).1.fixed = s.fixed := by
  unfold State.homeFind
  repeat' (first | with_reducible rfl | (simp [*]; done) | split | (refine (foldl_fixed _ _ _ ?_).trans ?_ <;> intros) | (refine (foldl_fixed_fst _ _ _ ?_).trans ?_ <;> intros) | simp [*])

@[simp] theorem State.homeEntry_fixed (s : State) (q : Nat) (key : W64) :
    (State.homeEntry s q key).1.fixed = s.fixed := by
  unfold State.homeEntry
  repeat' (first | with_reducible rfl | (simp [*]; done) | split | (refine (foldl_fixed _ _ _ ?_).trans ?_ <;> intros) | (refine (foldl_fixed_fst _ _ _ ?_).trans ?_ <;> intros) | simp [*])

@[simp] theorem State.noteChange_fixed (s : State) (h : Nat) (key : W64) (r : Nat) :
    (State.noteChange s h key r).fixed = s.fixed := by
  unfold State.noteChange
  repeat' (first | with_reducible rfl | (simp [*]; done) | split | (refine (foldl_fixed _ _ _ ?_).trans ?_ <;> intros) | (refine (foldl_fixed_fst _ _ _ ?_).trans ?_ <;> intros) | simp [*])

@[simp] theorem State.freeWay_fixed (s : State) (h : Nat) (b : Nat) :
    (State.freeWay s h b).1.fixed = s.fixed := by
  unfold State.freeWay
  repeat' (first | with_reducible rfl | (simp [*]; done) | split | (refine (foldl_fixed _ _ _ ?_).trans ?_ <;> intros) | (refine (foldl_fixed_fst _ _ _ ?_).trans ?_ <;> intros) | simp [*])

@[simp] theorem State.pathFrom_fixed (s : State) (h k m b : Nat) (path : List (Nat × Nat × Entry)) :
    (State.pathFrom s h k m b path).1.fixed = s.fixed := by
  induction k generalizing s m b path with
  | zero => rfl
  | succ n ih =>
    simp only [State.pathFrom]
    split
    · rfl
    · split <;> simp [ih]

@[simp] theorem State.place_fixed (s : State) (h : Nat) (b : Nat) (w : Nat) (e : Entry) :
    (State.place s h b w e).fixed = s.fixed := by
  unfold State.place
  repeat' (first | with_reducible rfl | (simp [*]; done) | split | (refine (foldl_fixed _ _ _ ?_).trans ?_ <;> intros) | (refine (foldl_fixed_fst _ _ _ ?_).trans ?_ <;> intros) | simp [*])

@[simp] theorem State.applyMoves_fixed (s : State) (h : Nat) (cmd : Option CmdRef) (l : List (Nat × Nat × Entry)) (b w : Nat) (e : Entry) :
    (State.applyMoves s h cmd l b w e).fixed = s.fixed := by
  induction l generalizing s b w e with
  | nil => simp [State.applyMoves]
  | cons x r ih => obtain ⟨vb, vw, v⟩ := x; simp [State.applyMoves, ih]

@[simp] theorem State.insertEntry_fixed (s : State) (h : Nat) (e : Entry) (cmd : Option CmdRef) :
    (State.insertEntry s h e cmd).1.fixed = s.fixed := by
  unfold State.insertEntry
  repeat' (first | with_reducible rfl | (simp [*]; done) | split | (refine (foldl_fixed _ _ _ ?_).trans ?_ <;> intros) | (refine (foldl_fixed_fst _ _ _ ?_).trans ?_ <;> intros) | simp [*])

@[simp] theorem State.insertFailed_fixed (s : State) (h : Nat) (key : W64) :
    (State.insertFailed s h key).fixed = s.fixed := by
  unfold State.insertFailed
  repeat' (first | with_reducible rfl | (simp [*]; done) | split | (refine (foldl_fixed _ _ _ ?_).trans ?_ <;> intros) | (refine (foldl_fixed_fst _ _ _ ?_).trans ?_ <;> intros) | simp [*])

@[simp] theorem State.removeAt_fixed (s : State) (h : Nat) (b : Nat) (w : Nat) (cmd : Option CmdRef) :
    (State.removeAt s h b w cmd).fixed = s.fixed := by
  unfold State.removeAt
  repeat' (first | with_reducible rfl | (simp [*]; done) | split | (refine (foldl_fixed _ _ _ ?_).trans ?_ <;> intros) | (refine (foldl_fixed_fst _ _ _ ?_).trans ?_ <;> intros) | simp [*])

@[simp] theorem State.cacheFind_fixed (s : State) (q : Nat) (key : W64) :
    (State.cacheFind s q key).1.fixed = s.fixed := by
  unfold State.cacheFind
  repeat' (first | with_reducible rfl | (simp [*]; done) | split | (refine (foldl_fixed _ _ _ ?_).trans ?_ <;> intros) | (refine (foldl_fixed_fst _ _ _ ?_).trans ?_ <;> intros) | simp [*])

@[simp] theorem State.cacheInstall_fixed (s : State) (q : Nat) (e : Entry) :
    (State.cacheInstall s q e).fixed = s.fixed := by
  unfold State.cacheInstall
  repeat' (first | with_reducible rfl | (simp [*]; done) | split | (refine (foldl_fixed _ _ _ ?_).trans ?_ <;> intros) | (refine (foldl_fixed_fst _ _ _ ?_).trans ?_ <;> intros) | simp [*])

@[simp] theorem State.cacheDrop_fixed (s : State) (q : Nat) (key : W64) :
    (State.cacheDrop s q key).fixed = s.fixed := by
  unfold State.cacheDrop
  repeat' (first | with_reducible rfl | (simp [*]; done) | split | (refine (foldl_fixed _ _ _ ?_).trans ?_ <;> intros) | (refine (foldl_fixed_fst _ _ _ ?_).trans ?_ <;> intros) | simp [*])

@[simp] theorem State.cacheRearm_fixed (s : State) (q : Nat) (key : W64) :
    (State.cacheRearm s q key).fixed = s.fixed := by
  unfold State.cacheRearm
  repeat' (first | with_reducible rfl | (simp [*]; done) | split | (refine (foldl_fixed _ _ _ ?_).trans ?_ <;> intros) | (refine (foldl_fixed_fst _ _ _ ?_).trans ?_ <;> intros) | simp [*])

@[simp] theorem State.cacheClear_fixed (s : State) (q : Nat) :
    (State.cacheClear s q).fixed = s.fixed := by
  unfold State.cacheClear
  repeat' (first | with_reducible rfl | (simp [*]; done) | split | (refine (foldl_fixed _ _ _ ?_).trans ?_ <;> intros) | (refine (foldl_fixed_fst _ _ _ ?_).trans ?_ <;> intros) | simp [*])

@[simp] theorem State.cacheUnhome_fixed (s : State) (q h : Nat) :
    (State.cacheUnhome s q h).fixed = s.fixed := by
  unfold State.cacheUnhome
  repeat' (first | with_reducible rfl | (simp [*]; done) | split | (refine (foldl_fixed _ _ _ ?_).trans ?_ <;> intros) | (refine (foldl_fixed_fst _ _ _ ?_).trans ?_ <;> intros) | simp [*])

@[simp] theorem State.askHome_fixed (s : State) (h : Nat) (q : Nat) (key : W64) :
    (State.askHome s h q key).fixed = s.fixed := by
  unfold State.askHome
  repeat' (first | with_reducible rfl | (simp [*]; done) | split | (refine (foldl_fixed _ _ _ ?_).trans ?_ <;> intros) | (refine (foldl_fixed_fst _ _ _ ?_).trans ?_ <;> intros) | simp [*])

@[simp] theorem State.answerHome_fixed (s : State) (h q : Nat) (key : W64) :
    (State.answerHome s h q key).fixed = s.fixed := by
  unfold State.answerHome
  repeat' (first | with_reducible rfl | (simp [*]; done) | split | (refine (foldl_fixed _ _ _ ?_).trans ?_ <;> intros) | (refine (foldl_fixed_fst _ _ _ ?_).trans ?_ <;> intros) | simp [*])

@[simp] theorem State.lookup_fixed (s : State) (q : Nat) (key : W64) :
    (State.lookup s q key).1.fixed = s.fixed := by
  unfold State.lookup
  repeat' (first | with_reducible rfl | (simp [*]; done) | split | (refine (foldl_fixed _ _ _ ?_).trans ?_ <;> intros) | (refine (foldl_fixed_fst _ _ _ ?_).trans ?_ <;> intros) | simp [*])

@[simp] theorem State.refreshHome_fixed (s : State) (h : Nat) (key : W64) :
    (State.refreshHome s h key).fixed = s.fixed := by
  unfold State.refreshHome
  repeat' (first | with_reducible rfl | (simp [*]; done) | split | (refine (foldl_fixed _ _ _ ?_).trans ?_ <;> intros) | (refine (foldl_fixed_fst _ _ _ ?_).trans ?_ <;> intros) | simp [*])

@[simp] theorem State.settleLearn_fixed (s : State) (q : Nat) :
    (State.settleLearn s q).fixed = s.fixed := by
  unfold State.settleLearn
  repeat' (first | with_reducible rfl | (simp [*]; done) | split | (refine (foldl_fixed _ _ _ ?_).trans ?_ <;> intros) | (refine (foldl_fixed_fst _ _ _ ?_).trans ?_ <;> intros) | simp [*])

@[simp] theorem State.learnArrive_fixed (s : State) (h : Nat) (r : LearnReq) :
    (State.learnArrive s h r).fixed = s.fixed := by
  unfold State.learnArrive
  repeat' (first | with_reducible rfl | (simp [*]; done) | split | (refine (foldl_fixed _ _ _ ?_).trans ?_ <;> intros) | (refine (foldl_fixed_fst _ _ _ ?_).trans ?_ <;> intros) | simp [*])

@[simp] theorem State.learnRequest_fixed (s : State) (p : Nat) (key : W64) (sheaf : Nat) (move : Bool) :
    (State.learnRequest s p key sheaf move).fixed = s.fixed := by
  unfold State.learnRequest
  repeat' (first | with_reducible rfl | (simp [*]; done) | split | (refine (foldl_fixed _ _ _ ?_).trans ?_ <;> intros) | (refine (foldl_fixed_fst _ _ _ ?_).trans ?_ <;> intros) | simp [*])

@[simp] theorem State.sourceFind_fixed (s : State) (q : Nat) (key : W64) :
    (State.sourceFind s q key).1.fixed = s.fixed := by
  unfold State.sourceFind
  repeat' (first | with_reducible rfl | (simp [*]; done) | split | (refine (foldl_fixed _ _ _ ?_).trans ?_ <;> intros) | (refine (foldl_fixed_fst _ _ _ ?_).trans ?_ <;> intros) | simp [*])

@[simp] theorem State.refresh_fixed (s : State) (q : Nat) (key : W64) :
    (State.refresh s q key).fixed = s.fixed := by
  unfold State.refresh
  repeat' (first | with_reducible rfl | (simp [*]; done) | split | (refine (foldl_fixed _ _ _ ?_).trans ?_ <;> intros) | (refine (foldl_fixed_fst _ _ _ ?_).trans ?_ <;> intros) | simp [*])

@[simp] theorem State.learnFrom_fixed (s : State) (p : Nat) (key : W64) (sheaf : Nat) :
    (State.learnFrom s p key sheaf).fixed = s.fixed := by
  unfold State.learnFrom
  repeat' (first | with_reducible rfl | (simp [*]; done) | split | (refine (foldl_fixed _ _ _ ?_).trans ?_ <;> intros) | (refine (foldl_fixed_fst _ _ _ ?_).trans ?_ <;> intros) | simp [*])

@[simp] theorem State.tblSettle_fixed (s : State) :
    (State.tblSettle s).fixed = s.fixed := by
  unfold State.tblSettle
  repeat' (first | with_reducible rfl | (simp [*]; done) | split | (refine (foldl_fixed _ _ _ ?_).trans ?_ <;> intros) | (refine (foldl_fixed_fst _ _ _ ?_).trans ?_ <;> intros) | simp [*])

@[simp] theorem State.launchMissed_fixed (s : State) (l : Launch) (cause : Nat) :
    (State.launchMissed s l cause).fixed = s.fixed := by
  unfold State.launchMissed
  repeat' (first | with_reducible rfl | (simp [*]; done) | split | (refine (foldl_fixed _ _ _ ?_).trans ?_ <;> intros) | (refine (foldl_fixed_fst _ _ _ ?_).trans ?_ <;> intros) | simp [*])

@[simp] theorem State.timeEvent_fixed (s : State) (d : BitVec 1) (st : DomState) (auto : Bool) :
    (State.timeEvent s d st auto).fixed = s.fixed := by
  unfold State.timeEvent
  repeat' (first | with_reducible rfl | (simp [*]; done) | split | (refine (foldl_fixed _ _ _ ?_).trans ?_ <;> intros) | (refine (foldl_fixed_fst _ _ _ ?_).trans ?_ <;> intros) | simp [*])

@[simp] theorem State.stageTap_fixed (s : State) (q : Nat) (r : TapRec) :
    (State.stageTap s q r).fixed = s.fixed := by
  unfold State.stageTap
  repeat' (first | with_reducible rfl | (simp [*]; done) | split | (refine (foldl_fixed _ _ _ ?_).trans ?_ <;> intros) | (refine (foldl_fixed_fst _ _ _ ?_).trans ?_ <;> intros) | simp [*])

@[simp] theorem State.watch_fixed (s : State) (pt : Point) (p : Nat) (f : Frame) (ovdu : Bool) (own : Bool) (queue : Nat) (dropIdx : Nat) :
    (State.watch s pt p f ovdu own queue dropIdx).fixed = s.fixed := by
  unfold State.watch
  repeat' (first | with_reducible rfl | (simp [*]; done) | split | (refine (foldl_fixed _ _ _ ?_).trans ?_ <;> intros) | (refine (foldl_fixed_fst _ _ _ ?_).trans ?_ <;> intros) | simp [*])

@[simp] theorem State.sample_fixed (s : State) (p : Nat) (f : Frame) (ovdu : Bool) :
    (State.sample s p f ovdu).fixed = s.fixed := by
  unfold State.sample
  repeat' (first | with_reducible rfl | (simp [*]; done) | split | (refine (foldl_fixed _ _ _ ?_).trans ?_ <;> intros) | (refine (foldl_fixed_fst _ _ _ ?_).trans ?_ <;> intros) | simp [*])

@[simp] theorem State.tapBoundary_fixed (s : State) :
    (State.tapBoundary s).fixed = s.fixed := by
  unfold State.tapBoundary
  repeat' (first | with_reducible rfl | (simp [*]; done) | split | (refine (foldl_fixed _ _ _ ?_).trans ?_ <;> intros) | (refine (foldl_fixed_fst _ _ _ ?_).trans ?_ <;> intros) | simp [*])

@[simp] theorem State.stopEnds_fixed (s : State) :
    (State.stopEnds s).fixed = s.fixed := by
  unfold State.stopEnds
  repeat' (first | with_reducible rfl | (simp [*]; done) | split | (refine (foldl_fixed _ _ _ ?_).trans ?_ <;> intros) | (refine (foldl_fixed_fst _ _ _ ?_).trans ?_ <;> intros) | simp [*])

@[simp] theorem State.toNormal_fixed (s : State) :
    (State.toNormal s).fixed = s.fixed := by
  unfold State.toNormal
  repeat' (first | with_reducible rfl | (simp [*]; done) | split | (refine (foldl_fixed _ _ _ ?_).trans ?_ <;> intros) | (refine (foldl_fixed_fst _ _ _ ?_).trans ?_ <;> intros) | simp [*])

@[simp] theorem State.serviceStarts_fixed (s : State) :
    (State.serviceStarts s).fixed = s.fixed := by
  unfold State.serviceStarts
  repeat' (first | with_reducible rfl | (simp [*]; done) | split | (refine (foldl_fixed _ _ _ ?_).trans ?_ <;> intros) | (refine (foldl_fixed_fst _ _ _ ?_).trans ?_ <;> intros) | simp [*])

@[simp] theorem State.updStream_fixed (s : State) (st : StreamId) (f : StreamSt → StreamSt) :
    (State.updStream s st f).fixed = s.fixed := by
  unfold State.updStream
  repeat' (first | with_reducible rfl | (simp [*]; done) | split | (refine (foldl_fixed _ _ _ ?_).trans ?_ <;> intros) | (refine (foldl_fixed_fst _ _ _ ?_).trans ?_ <;> intros) | simp [*])

@[simp] theorem State.updReseq_fixed (s : State) (st : StreamId) (f : ReseqSt → ReseqSt) :
    (State.updReseq s st f).fixed = s.fixed := by
  unfold State.updReseq
  repeat' (first | with_reducible rfl | (simp [*]; done) | split | (refine (foldl_fixed _ _ _ ?_).trans ?_ <;> intros) | (refine (foldl_fixed_fst _ _ _ ?_).trans ?_ <;> intros) | simp [*])

@[simp] theorem State.floorRecord_fixed (s : State) (kind : Nat) (x : Nat) (y : Nat) :
    (State.floorRecord s kind x y).fixed = s.fixed := by
  unfold State.floorRecord
  repeat' (first | with_reducible rfl | (simp [*]; done) | split | (refine (foldl_fixed _ _ _ ?_).trans ?_ <;> intros) | (refine (foldl_fixed_fst _ _ _ ?_).trans ?_ <;> intros) | simp [*])

@[simp] theorem State.installWeights_fixed (s : State) (w : List (List Nat)) (trained : Nat → Nat → Bool) :
    (State.installWeights s w trained).fixed = s.fixed := by
  unfold State.installWeights
  repeat' (first | with_reducible rfl | (simp [*]; done) | split | (refine (foldl_fixed _ _ _ ?_).trans ?_ <;> intros) | (refine (foldl_fixed_fst _ _ _ ?_).trans ?_ <;> intros) | simp [*])

@[simp] theorem State.tellAll_fixed (s : State) (x : Nat) :
    (State.tellAll s x).fixed = s.fixed := by
  unfold State.tellAll
  repeat' (first | with_reducible rfl | (simp [*]; done) | split | (refine (foldl_fixed _ _ _ ?_).trans ?_ <;> intros) | (refine (foldl_fixed_fst _ _ _ ?_).trans ?_ <;> intros) | simp [*])

@[simp] theorem State.floorRecords_fixed (s : State) (w : List (List Nat)) :
    (State.floorRecords s w).fixed = s.fixed := by
  unfold State.floorRecords
  repeat' (first | with_reducible rfl | (simp [*]; done) | split | (refine (foldl_fixed _ _ _ ?_).trans ?_ <;> intros) | (refine (foldl_fixed_fst _ _ _ ?_).trans ?_ <;> intros) | simp [*])

@[simp] theorem State.reweight_fixed (s : State) (trained : Nat → Nat → Bool) :
    (State.reweight s trained).fixed = s.fixed := by
  unfold State.reweight
  repeat' (first | with_reducible rfl | (simp [*]; done) | split | (refine (foldl_fixed _ _ _ ?_).trans ?_ <;> intros) | (refine (foldl_fixed_fst _ _ _ ?_).trans ?_ <;> intros) | simp [*])

@[simp] theorem State.sendFlit_fixed (s : State) (x : Nat) (y : Nat) (c : FlitBody) :
    (State.sendFlit s x y c).fixed = s.fixed := by
  unfold State.sendFlit
  repeat' (first | with_reducible rfl | (simp [*]; done) | split | (refine (foldl_fixed _ _ _ ?_).trans ?_ <;> intros) | (refine (foldl_fixed_fst _ _ _ ?_).trans ?_ <;> intros) | simp [*])

@[simp] theorem State.sendLane_fixed (s : State) (x : Nat) (y : Nat) (c : Cell) :
    (State.sendLane s x y c).fixed = s.fixed := by
  unfold State.sendLane
  repeat' (first | with_reducible rfl | (simp [*]; done) | split | (refine (foldl_fixed _ _ _ ?_).trans ?_ <;> intros) | (refine (foldl_fixed_fst _ _ _ ?_).trans ?_ <;> intros) | simp [*])

@[simp] theorem State.startMsgs_fixed (s : State) (x : Nat) (y : Nat) :
    (State.startMsgs s x y).fixed = s.fixed := by
  unfold State.startMsgs
  repeat' (first | with_reducible rfl | (simp [*]; done) | split | (refine (foldl_fixed _ _ _ ?_).trans ?_ <;> intros) | (refine (foldl_fixed_fst _ _ _ ?_).trans ?_ <;> intros) | simp [*])

@[simp] theorem State.startAllMsgs_fixed (s : State) :
    (State.startAllMsgs s).fixed = s.fixed := by
  unfold State.startAllMsgs
  repeat' (first | with_reducible rfl | (simp [*]; done) | split | (refine (foldl_fixed _ _ _ ?_).trans ?_ <;> intros) | (refine (foldl_fixed_fst _ _ _ ?_).trans ?_ <;> intros) | simp [*])

@[simp] theorem State.setS1q_fixed (s : State) (x : Nat) (g : Nat) (y : Nat) (l : List Cell) :
    (State.setS1q s x g y l).fixed = s.fixed := by
  unfold State.setS1q
  repeat' (first | with_reducible rfl | (simp [*]; done) | split | (refine (foldl_fixed _ _ _ ?_).trans ?_ <;> intros) | (refine (foldl_fixed_fst _ _ _ ?_).trans ?_ <;> intros) | simp [*])

@[simp] theorem State.setS2q_fixed (s : State) (x : Nat) (y : Nat) (l : List Cell) :
    (State.setS2q s x y l).fixed = s.fixed := by
  unfold State.setS2q
  repeat' (first | with_reducible rfl | (simp [*]; done) | split | (refine (foldl_fixed _ _ _ ?_).trans ?_ <;> intros) | (refine (foldl_fixed_fst _ _ _ ?_).trans ?_ <;> intros) | simp [*])

@[simp] theorem State.toReseq_fixed (s : State) (c : Cell) :
    (State.toReseq s c).fixed = s.fixed := by
  unfold State.toReseq
  repeat' (first | with_reducible rfl | (simp [*]; done) | split | (refine (foldl_fixed _ _ _ ?_).trans ?_ <;> intros) | (refine (foldl_fixed_fst _ _ _ ?_).trans ?_ <;> intros) | simp [*])

@[simp] theorem State.noteLost_fixed (s : State) (c : Cell) :
    (State.noteLost s c).fixed = s.fixed := by
  unfold State.noteLost
  repeat' (first | with_reducible rfl | (simp [*]; done) | split | (refine (foldl_fixed _ _ _ ?_).trans ?_ <;> intros) | (refine (foldl_fixed_fst _ _ _ ?_).trans ?_ <;> intros) | simp [*])

@[simp] theorem State.toLane_fixed (s : State) (c : Cell) :
    (State.toLane s c).fixed = s.fixed := by
  unfold State.toLane
  repeat' (first | with_reducible rfl | (simp [*]; done) | split | (refine (foldl_fixed _ _ _ ?_).trans ?_ <;> intros) | (refine (foldl_fixed_fst _ _ _ ?_).trans ?_ <;> intros) | simp [*])

@[simp] theorem State.arrive_fixed (s : State) (from_ : Nat) (c : Cell) :
    (State.arrive s from_ c).fixed = s.fixed := by
  unfold State.arrive
  repeat' (first | with_reducible rfl | (simp [*]; done) | split | (refine (foldl_fixed _ _ _ ?_).trans ?_ <;> intros) | (refine (foldl_fixed_fst _ _ _ ?_).trans ?_ <;> intros) | simp [*])

@[simp] theorem State.settleArrivals_fixed (s : State) :
    (State.settleArrivals s).fixed = s.fixed := by
  unfold State.settleArrivals
  repeat' (first | with_reducible rfl | (simp [*]; done) | split | (refine (foldl_fixed _ _ _ ?_).trans ?_ <;> intros) | (refine (foldl_fixed_fst _ _ _ ?_).trans ?_ <;> intros) | simp [*])

@[simp] theorem State.toStage2_fixed (s : State) (from_ : Nat) (y : Nat) (c : Cell) :
    (State.toStage2 s from_ y c).fixed = s.fixed := by
  unfold State.toStage2
  repeat' (first | with_reducible rfl | (simp [*]; done) | split | (refine (foldl_fixed _ _ _ ?_).trans ?_ <;> intros) | (refine (foldl_fixed_fst _ _ _ ?_).trans ?_ <;> intros) | simp [*])

@[simp] theorem State.launchCell_fixed (s : State) (c : Cell) :
    (State.launchCell s c).fixed = s.fixed := by
  unfold State.launchCell
  repeat' (first | with_reducible rfl | (simp [*]; done) | split | (refine (foldl_fixed _ _ _ ?_).trans ?_ <;> intros) | (refine (foldl_fixed_fst _ _ _ ?_).trans ?_ <;> intros) | simp [*])

@[simp] theorem State.emitCell_fixed (s : State) (st : StreamId) (frags : List Frag) (used : Nat) (fstart : Option Nat) :
    (State.emitCell s st frags used fstart).fixed = s.fixed := by
  unfold State.emitCell
  repeat' (first | with_reducible rfl | (simp [*]; done) | split | (refine (foldl_fixed _ _ _ ?_).trans ?_ <;> intros) | (refine (foldl_fixed_fst _ _ _ ?_).trans ?_ <;> intros) | simp [*])

@[simp] theorem State.flushOpen_fixed (s : State) (st : StreamId) :
    (State.flushOpen s st).fixed = s.fixed := by
  unfold State.flushOpen
  repeat' (first | with_reducible rfl | (simp [*]; done) | split | (refine (foldl_fixed _ _ _ ?_).trans ?_ <;> intros) | (refine (foldl_fixed_fst _ _ _ ?_).trans ?_ <;> intros) | simp [*])

@[simp] theorem State.packBytes_fixed (s : State) (st : StreamId) (fid k n : Nat) (first : Bool) :
    (State.packBytes s st fid k n first).fixed = s.fixed := by
  induction k generalizing s n first with
  | zero => rfl
  | succ k ih =>
    simp only [State.packBytes]
    split
    · split <;> simp
    · rw [ih]; split <;> simp

@[simp] theorem State.pack_fixed (s : State) (st : StreamId) (fid : Nat) (n : Nat) (atOnce : Bool) :
    (State.pack s st fid n atOnce).fixed = s.fixed := by
  unfold State.pack
  repeat' (first | with_reducible rfl | (simp [*]; done) | split | (refine (foldl_fixed _ _ _ ?_).trans ?_ <;> intros) | (refine (foldl_fixed_fst _ _ _ ?_).trans ?_ <;> intros) | simp [*])

@[simp] theorem State.progress_fixed (s : State) (st : StreamId) :
    (State.progress s st).fixed = s.fixed := by
  unfold State.progress
  repeat' (first | with_reducible rfl | (simp [*]; done) | split | (refine (foldl_fixed _ _ _ ?_).trans ?_ <;> intros) | (refine (foldl_fixed_fst _ _ _ ?_).trans ?_ <;> intros) | simp [*])

@[simp] theorem State.report_fixed (s : State) (st : StreamId) :
    (State.report s st).fixed = s.fixed := by
  unfold State.report
  repeat' (first | with_reducible rfl | (simp [*]; done) | split | (refine (foldl_fixed _ _ _ ?_).trans ?_ <;> intros) | (refine (foldl_fixed_fst _ _ _ ?_).trans ?_ <;> intros) | simp [*])

@[simp] theorem State.freeIngress_fixed (s : State) (c : FrameCtx) :
    (State.freeIngress s c).fixed = s.fixed := by
  unfold State.freeIngress
  repeat' (first | with_reducible rfl | (simp [*]; done) | split | (refine (foldl_fixed _ _ _ ?_).trans ?_ <;> intros) | (refine (foldl_fixed_fst _ _ _ ?_).trans ?_ <;> intros) | simp [*])

@[simp] theorem State.charge_fixed (s : State) (p : Nat) (n : Nat) (cells : Nat) (region : Bool) :
    (State.charge s p n cells region).fixed = s.fixed := by
  unfold State.charge
  repeat' (first | with_reducible rfl | (simp [*]; done) | split | (refine (foldl_fixed _ _ _ ?_).trans ?_ <;> intros) | (refine (foldl_fixed_fst _ _ _ ?_).trans ?_ <;> intros) | simp [*])

@[simp] theorem State.freeGroup_fixed (s : State) (q : Nat) (fid : Nat) (cells : Nat) :
    (State.freeGroup s q fid cells).fixed = s.fixed := by
  unfold State.freeGroup
  repeat' (first | with_reducible rfl | (simp [*]; done) | split | (refine (foldl_fixed _ _ _ ?_).trans ?_ <;> intros) | (refine (foldl_fixed_fst _ _ _ ?_).trans ?_ <;> intros) | simp [*])

@[simp] theorem State.placeQueue_fixed (s : State) (p : Nat) (n : Nat) :
    (State.placeQueue s p n).fixed = s.fixed := by
  unfold State.placeQueue
  repeat' (first | with_reducible rfl | (simp [*]; done) | split | (refine (foldl_fixed _ _ _ ?_).trans ?_ <;> intros) | (refine (foldl_fixed_fst _ _ _ ?_).trans ?_ <;> intros) | simp [*])

@[simp] theorem State.replaceQueue_fixed (s : State) (p : Nat) (n : Nat) :
    (State.replaceQueue s p n).fixed = s.fixed := by
  unfold State.replaceQueue
  repeat' (first | with_reducible rfl | (simp [*]; done) | split | (refine (foldl_fixed _ _ _ ?_).trans ?_ <;> intros) | (refine (foldl_fixed_fst _ _ _ ?_).trans ?_ <;> intros) | simp [*])

@[simp] theorem State.shaperSend_fixed (s : State) (p : Nat) (n : Nat) (c : Nat) :
    (State.shaperSend s p n c).fixed = s.fixed := by
  unfold State.shaperSend
  repeat' (first | with_reducible rfl | (simp [*]; done) | split | (refine (foldl_fixed _ _ _ ?_).trans ?_ <;> intros) | (refine (foldl_fixed_fst _ _ _ ?_).trans ?_ <;> intros) | simp [*])

@[simp] theorem State.enqueue_fixed (s : State) (p : Nat) (n : Nat) (e : QEntry) :
    (State.enqueue s p n e).fixed = s.fixed := by
  unfold State.enqueue
  repeat' (first | with_reducible rfl | (simp [*]; done) | split | (refine (foldl_fixed _ _ _ ?_).trans ?_ <;> intros) | (refine (foldl_fixed_fst _ _ _ ?_).trans ?_ <;> intros) | simp [*])

@[simp] theorem State.pitchAnswer_fixed (s : State) (y : Nat) (c : FrameCtx) :
    (State.pitchAnswer s y c).fixed = s.fixed := by
  unfold State.pitchAnswer
  repeat' (first | with_reducible rfl | (simp [*]; done) | split | (refine (foldl_fixed _ _ _ ?_).trans ?_ <;> intros) | (refine (foldl_fixed_fst _ _ _ ?_).trans ?_ <;> intros) | simp [*])

@[simp] theorem State.handOver_fixed (s : State) (c : FrameCtx) (target : Target) :
    (State.handOver s c target).fixed = s.fixed := by
  unfold State.handOver
  repeat' (first | with_reducible rfl | (simp [*]; done) | split | (refine (foldl_fixed _ _ _ ?_).trans ?_ <;> intros) | (refine (foldl_fixed_fst _ _ _ ?_).trans ?_ <;> intros) | simp [*])

@[simp] theorem State.setDomRec_fixed (s : State) (r : DomRec) :
    (State.setDomRec s r).fixed = s.fixed := by
  unfold State.setDomRec
  repeat' (first | with_reducible rfl | (simp [*]; done) | split | (refine (foldl_fixed _ _ _ ?_).trans ?_ <;> intros) | (refine (foldl_fixed_fst _ _ _ ?_).trans ?_ <;> intros) | simp [*])

@[simp] theorem State.needRec_fixed (s : State) (q : Nat) (d : Domain) (x : W32) :
    (State.needRec s q d x).1.fixed = s.fixed := by
  unfold State.needRec
  repeat' (first | with_reducible rfl | (simp [*]; done) | split | (refine (foldl_fixed _ _ _ ?_).trans ?_ <;> intros) | (refine (foldl_fixed_fst _ _ _ ?_).trans ?_ <;> intros) | simp [*])

@[simp] theorem State.enqueueWait_fixed (s : State) (w : Waiting) :
    (State.enqueueWait s w).fixed = s.fixed := by
  unfold State.enqueueWait
  repeat' (first | with_reducible rfl | (simp [*]; done) | split | (refine (foldl_fixed _ _ _ ?_).trans ?_ <;> intros) | (refine (foldl_fixed_fst _ _ _ ?_).trans ?_ <;> intros) | simp [*])

@[simp] theorem State.releaseHeld_fixed (s : State) (h : Held) :
    (State.releaseHeld s h).fixed = s.fixed := by
  unfold State.releaseHeld
  repeat' (first | with_reducible rfl | (simp [*]; done) | split | (refine (foldl_fixed _ _ _ ?_).trans ?_ <;> intros) | (refine (foldl_fixed_fst _ _ _ ?_).trans ?_ <;> intros) | simp [*])

@[simp] theorem State.releaseFences_fixed (s : State) (q : Nat) (d : Domain) :
    (State.releaseFences s q d).fixed = s.fixed := by
  unfold State.releaseFences
  repeat' (first | with_reducible rfl | (simp [*]; done) | split | (refine (foldl_fixed _ _ _ ?_).trans ?_ <;> intros) | (refine (foldl_fixed_fst _ _ _ ?_).trans ?_ <;> intros) | simp [*])

@[simp] theorem State.depart_fixed (s : State) (q : Nat) (f : Frame) :
    (State.depart s q f).fixed = s.fixed := by
  unfold State.depart
  repeat' (first | with_reducible rfl | (simp [*]; done) | split | (refine (foldl_fixed _ _ _ ?_).trans ?_ <;> intros) | (refine (foldl_fixed_fst _ _ _ ?_).trans ?_ <;> intros) | simp [*])

@[simp] theorem State.domQuads_fixed (s : State) (q : Nat) (f : Frame) :
    (State.domQuads s q f).1.fixed = s.fixed := by
  unfold State.domQuads
  repeat' (first | with_reducible rfl | (simp [*]; done) | split | (refine (foldl_fixed _ _ _ ?_).trans ?_ <;> intros) | (refine (foldl_fixed_fst _ _ _ ?_).trans ?_ <;> intros) | simp [*])

@[simp] theorem State.departDropped_fixed (s : State) (q : Nat) (f : Frame) :
    (State.departDropped s q f).fixed = s.fixed := by
  unfold State.departDropped
  repeat' (first | with_reducible rfl | (simp [*]; done) | split | (refine (foldl_fixed _ _ _ ?_).trans ?_ <;> intros) | (refine (foldl_fixed_fst _ _ _ ?_).trans ?_ <;> intros) | simp [*])

@[simp] theorem State.departCopy_fixed (s : State) (q : Nat) (fid : Nat) (f : Frame) :
    (State.departCopy s q fid f).fixed = s.fixed := by
  unfold State.departCopy
  repeat' (first | with_reducible rfl | (simp [*]; done) | split | (refine (foldl_fixed _ _ _ ?_).trans ?_ <;> intros) | (refine (foldl_fixed_fst _ _ _ ?_).trans ?_ <;> intros) | simp [*])

@[simp] theorem State.departEntry_fixed (s : State) (q : Nat) (e : QEntry) :
    (State.departEntry s q e).fixed = s.fixed := by
  unfold State.departEntry
  repeat' (first | with_reducible rfl | (simp [*]; done) | split | (refine (foldl_fixed _ _ _ ?_).trans ?_ <;> intros) | (refine (foldl_fixed_fst _ _ _ ?_).trans ?_ <;> intros) | simp [*])

@[simp] theorem State.fenceOr_fixed (s : State) (q : Nat) (w : Waiting) (copy : Option (Copy × Nat)) (pass : State → State) (hpass : ∀ s, (pass s).fixed = s.fixed) :
    (State.fenceOr s q w copy pass).1.fixed = s.fixed := by
  unfold State.fenceOr
  repeat' (first | with_reducible rfl | (simp [*]; done) | split | (refine (foldl_fixed _ _ _ ?_).trans ?_ <;> intros) | (refine (foldl_fixed_fst _ _ _ ?_).trans ?_ <;> intros) | simp [*])

@[simp] theorem State.routeEntry_fixed (s : State) (c : FrameCtx) (ovdu : Bool) (vid : Nat) (e : Entry) :
    (State.routeEntry s c ovdu vid e).1.fixed = s.fixed := by
  unfold State.routeEntry
  repeat' (first | with_reducible rfl | (simp [*]; done) | split | (refine (foldl_fixed _ _ _ ?_).trans ?_ <;> intros) | (refine (foldl_fixed_fst _ _ _ ?_).trans ?_ <;> intros) | simp [*])

@[simp] theorem State.routeService_fixed (place : Placer) (s : State) (c : FrameCtx) :
    (State.routeService place s c).1.fixed = s.fixed := by
  unfold State.routeService
  repeat' (first | with_reducible rfl | (simp [*]; done) | split | (refine (foldl_fixed _ _ _ ?_).trans ?_ <;> intros) | (refine (foldl_fixed_fst _ _ _ ?_).trans ?_ <;> intros) | simp [*])

@[simp] theorem State.memberFind_fixed (s : State) (q : Nat) (key : W64) :
    (State.memberFind s q key).1.fixed = s.fixed := by
  unfold State.memberFind
  repeat' (first | with_reducible rfl | (simp [*]; done) | split | (refine (foldl_fixed _ _ _ ?_).trans ?_ <;> intros) | (refine (foldl_fixed_fst _ _ _ ?_).trans ?_ <;> intros) | simp [*])

@[simp] theorem State.resolveMembers_fixed (s : State) (q : Nat) (src : Nat) (job : Nat) (members : List Nat) :
    (State.resolveMembers s q src job members).1.fixed = s.fixed := by
  unfold State.resolveMembers
  repeat' (first | with_reducible rfl | (simp [*]; done) | split | (refine (foldl_fixed _ _ _ ?_).trans ?_ <;> intros) | (refine (foldl_fixed_fst _ _ _ ?_).trans ?_ <;> intros) | simp [*])

@[simp] theorem State.routeGroup_fixed (s : State) (c : FrameCtx) :
    (State.routeGroup s c).1.fixed = s.fixed := by
  unfold State.routeGroup
  repeat' (first | with_reducible rfl | (simp [*]; done) | split | (refine (foldl_fixed _ _ _ ?_).trans ?_ <;> intros) | (refine (foldl_fixed_fst _ _ _ ?_).trans ?_ <;> intros) | simp [*])

@[simp] theorem State.flood_fixed (s : State) (c : FrameCtx) (vid : Nat) :
    (State.flood s c vid).1.fixed = s.fixed := by
  unfold State.flood
  repeat' (first | with_reducible rfl | (simp [*]; done) | split | (refine (foldl_fixed _ _ _ ?_).trans ?_ <;> intros) | (refine (foldl_fixed_fst _ _ _ ?_).trans ?_ <;> intros) | simp [*])

@[simp] theorem State.awaitReply_fixed (s : State) (q : Nat) (key : W64) (c : FrameCtx) :
    (State.awaitReply s q key c).fixed = s.fixed := by
  unfold State.awaitReply
  repeat' (first | with_reducible rfl | (simp [*]; done) | split | (refine (foldl_fixed _ _ _ ?_).trans ?_ <;> intros) | (refine (foldl_fixed_fst _ _ _ ?_).trans ?_ <;> intros) | simp [*])

@[simp] theorem State.route_fixed (place : Placer) (s : State) (c : FrameCtx) :
    (State.route place s c).1.fixed = s.fixed := by
  unfold State.route
  repeat' (first | with_reducible rfl | (simp [*]; done) | split | (refine (foldl_fixed _ _ _ ?_).trans ?_ <;> intros) | (refine (foldl_fixed_fst _ _ _ ?_).trans ?_ <;> intros) | simp [*])

@[simp] theorem State.ownDrop_fixed (s : State) (q : Nat) (f : Frame) :
    (State.ownDrop s q f).fixed = s.fixed := by
  unfold State.ownDrop
  repeat' (first | with_reducible rfl | (simp [*]; done) | split | (refine (foldl_fixed _ _ _ ?_).trans ?_ <;> intros) | (refine (foldl_fixed_fst _ _ _ ?_).trans ?_ <;> intros) | simp [*])

@[simp] theorem State.ownLost_fixed (s : State) (q : Nat) (c : FrameCtx) :
    (State.ownLost s q c).fixed = s.fixed := by
  unfold State.ownLost
  repeat' (first | with_reducible rfl | (simp [*]; done) | split | (refine (foldl_fixed _ _ _ ?_).trans ?_ <;> intros) | (refine (foldl_fixed_fst _ _ _ ?_).trans ?_ <;> intros) | simp [*])

@[simp] theorem State.sendOwn_fixed (place : Placer) (s : State) (q : Nat) (f : Frame) (result : Option (Nat × Nat × Nat)) (outcome : Option Nat) :
    (State.sendOwn place s q f result outcome).1.fixed = s.fixed := by
  unfold State.sendOwn
  repeat' (first | with_reducible rfl | (simp [*]; done) | split | (refine (foldl_fixed _ _ _ ?_).trans ?_ <;> intros) | (refine (foldl_fixed_fst _ _ _ ?_).trans ?_ <;> intros) | simp [*])

@[simp] theorem State.nack_fixed (place : Placer) (s : State) (p : Nat) (q : Nat) (f : Frame) (reason : Nat) (detail : Nat) :
    (State.nack place s p q f reason detail).fixed = s.fixed := by
  unfold State.nack
  repeat' (first | with_reducible rfl | (simp [*]; done) | split | (refine (foldl_fixed _ _ _ ?_).trans ?_ <;> intros) | (refine (foldl_fixed_fst _ _ _ ?_).trans ?_ <;> intros) | simp [*])

@[simp] theorem State.dropFrame_fixed (place : Placer) (s : State) (c : FrameCtx) (q : Nat) (idx : Nat) (answer : Option (Nat × Nat)) :
    (State.dropFrame place s c q idx answer).fixed = s.fixed := by
  unfold State.dropFrame
  repeat' (first | with_reducible rfl | (simp [*]; done) | split | (refine (foldl_fixed _ _ _ ?_).trans ?_ <;> intros) | (refine (foldl_fixed_fst _ _ _ ?_).trans ?_ <;> intros) | simp [*])

@[simp] theorem State.watchFence_fixed (s : State) (q p : Nat) (f : Frame) :
    (State.watchFence s q p f).fixed = s.fixed := by
  unfold State.watchFence
  repeat' (first | with_reducible rfl | (simp [*]; done) | split | (refine (foldl_fixed _ _ _ ?_).trans ?_ <;> intros) | (refine (foldl_fixed_fst _ _ _ ?_).trans ?_ <;> intros) | simp [*])

@[simp] theorem State.settleRoute_fixed (place : Placer) (c : FrameCtx) (r : State × Route) :
    (State.settleRoute place c r).fixed = r.1.fixed := by
  unfold State.settleRoute
  repeat' (first | with_reducible rfl | (simp [*]; done) | split | (refine (foldl_fixed _ _ _ ?_).trans ?_ <;> intros) | (refine (foldl_fixed_fst _ _ _ ?_).trans ?_ <;> intros) | simp [*])

@[simp] theorem State.drrSettle_fixed (s : State) (p : Nat) (n : Nat) :
    (State.drrSettle s p n).fixed = s.fixed := by
  unfold State.drrSettle
  repeat' (first | with_reducible rfl | (simp [*]; done) | split | (refine (foldl_fixed _ _ _ ?_).trans ?_ <;> intros) | (refine (foldl_fixed_fst _ _ _ ?_).trans ?_ <;> intros) | simp [*])

@[simp] theorem State.leaveQueue_fixed (s : State) (p : Nat) (n : Nat) (e : QEntry) :
    (State.leaveQueue s p n e).fixed = s.fixed := by
  unfold State.leaveQueue
  repeat' (first | with_reducible rfl | (simp [*]; done) | split | (refine (foldl_fixed _ _ _ ?_).trans ?_ <;> intros) | (refine (foldl_fixed_fst _ _ _ ?_).trans ?_ <;> intros) | simp [*])

@[simp] theorem State.queueCount_fixed (s : State) (p : Nat) (n : Nat) (j : Nat) (f : Frame) (src : IngressSrc) :
    (State.queueCount s p n j f src).fixed = s.fixed := by
  unfold State.queueCount
  repeat' (first | with_reducible rfl | (simp [*]; done) | split | (refine (foldl_fixed _ _ _ ?_).trans ?_ <;> intros) | (refine (foldl_fixed_fst _ _ _ ?_).trans ?_ <;> intros) | simp [*])

@[simp] theorem State.queueDrop_fixed (s : State) (p : Nat) (n : Nat) (j : Nat) (f : Frame) (src : IngressSrc) :
    (State.queueDrop s p n j f src).fixed = s.fixed := by
  unfold State.queueDrop
  repeat' (first | with_reducible rfl | (simp [*]; done) | split | (refine (foldl_fixed _ _ _ ?_).trans ?_ <;> intros) | (refine (foldl_fixed_fst _ _ _ ?_).trans ?_ <;> intros) | simp [*])

@[simp] theorem State.poisonCount_fixed (s : State) (p n : Nat) (f : Frame) (src : IngressSrc) :
    (State.poisonCount s p n f src).fixed = s.fixed := by
  unfold State.poisonCount
  repeat' (first | with_reducible rfl | (simp [*]; done) | split | (refine (foldl_fixed _ _ _ ?_).trans ?_ <;> intros) | (refine (foldl_fixed_fst _ _ _ ?_).trans ?_ <;> intros) | simp [*])

@[simp] theorem State.dropEntry_fixed (s : State) (p : Nat) (n : Nat) (j : Nat) (e : QEntry) :
    (State.dropEntry s p n j e).fixed = s.fixed := by
  unfold State.dropEntry
  repeat' (first | with_reducible rfl | (simp [*]; done) | split | (refine (foldl_fixed _ _ _ ?_).trans ?_ <;> intros) | (refine (foldl_fixed_fst _ _ _ ?_).trans ?_ <;> intros) | simp [*])

@[simp] theorem State.dropWaiting_fixed (s : State) (c : FrameCtx) (p : Nat) (n : Nat) (j : Nat) :
    (State.dropWaiting s c p n j).fixed = s.fixed := by
  unfold State.dropWaiting
  repeat' (first | with_reducible rfl | (simp [*]; done) | split | (refine (foldl_fixed _ _ _ ?_).trans ?_ <;> intros) | (refine (foldl_fixed_fst _ _ _ ?_).trans ?_ <;> intros) | simp [*])

@[simp] theorem State.takeCopies_fixed (s : State) (q : Nat) (fid : Nat) (p : Copy → Bool) :
    (State.takeCopies s q fid p).fixed = s.fixed := by
  unfold State.takeCopies
  repeat' (first | with_reducible rfl | (simp [*]; done) | split | (refine (foldl_fixed _ _ _ ?_).trans ?_ <;> intros) | (refine (foldl_fixed_fst _ _ _ ?_).trans ?_ <;> intros) | simp [*])

@[simp] theorem State.flushCopies_fixed (s : State) (p : Nat) :
    (State.flushCopies s p).fixed = s.fixed := by
  unfold State.flushCopies
  repeat' (first | with_reducible rfl | (simp [*]; done) | split | (refine (foldl_fixed _ _ _ ?_).trans ?_ <;> intros) | (refine (foldl_fixed_fst _ _ _ ?_).trans ?_ <;> intros) | simp [*])

@[simp] theorem State.flushPort_fixed (s : State) (p : Nat) :
    (State.flushPort s p).fixed = s.fixed := by
  unfold State.flushPort
  repeat' (first | with_reducible rfl | (simp [*]; done) | split | (refine (foldl_fixed _ _ _ ?_).trans ?_ <;> intros) | (refine (foldl_fixed_fst _ _ _ ?_).trans ?_ <;> intros) | simp [*])

@[simp] theorem State.dousedAt_fixed (s : State) (o : Nat) :
    (State.dousedAt s o).fixed = s.fixed := by
  unfold State.dousedAt
  repeat' (first | with_reducible rfl | (simp [*]; done) | split | (refine (foldl_fixed _ _ _ ?_).trans ?_ <;> intros) | (refine (foldl_fixed_fst _ _ _ ?_).trans ?_ <;> intros) | simp [*])

@[simp] theorem State.takeWidth_fixed (s : State) (p : Nat) (masks : List (BitVec 8)) :
    (State.takeWidth s p masks).fixed = s.fixed := by
  unfold State.takeWidth
  repeat' (first | with_reducible rfl | (simp [*]; done) | split | (refine (foldl_fixed _ _ _ ?_).trans ?_ <;> intros) | (refine (foldl_fixed_fst _ _ _ ?_).trans ?_ <;> intros) | simp [*])

@[simp] theorem State.widthNow_fixed (s : State) (p : Nat) :
    (State.widthNow s p).fixed = s.fixed := by
  unfold State.widthNow
  repeat' (first | with_reducible rfl | (simp [*]; done) | split | (refine (foldl_fixed _ _ _ ?_).trans ?_ <;> intros) | (refine (foldl_fixed_fst _ _ _ ?_).trans ?_ <;> intros) | simp [*])

@[simp] theorem State.wireSend_fixed (s : State) (p vc : Nat) (f : Frame) (fcsOk own : Bool) (queue : Nat) :
    (State.wireSend s p vc f fcsOk own queue).fixed = s.fixed := by
  unfold State.wireSend
  repeat' (first | with_reducible rfl | (simp [*]; done) | split | (refine (foldl_fixed _ _ _ ?_).trans ?_ <;> intros) | (refine (foldl_fixed_fst _ _ _ ?_).trans ?_ <;> intros) | simp [*])

@[simp] theorem State.sendCtl_fixed (s : State) (p : Nat) (c : LinkCtl) :
    (State.sendCtl s p c).fixed = s.fixed := by
  unfold State.sendCtl
  repeat' (first | with_reducible rfl | (simp [*]; done) | split | (refine (foldl_fixed _ _ _ ?_).trans ?_ <;> intros) | (refine (foldl_fixed_fst _ _ _ ?_).trans ?_ <;> intros) | simp [*])

@[simp] theorem State.fillArray_fixed (s : State) (key : Nat) (a : Nat) :
    (State.fillArray s key a).fixed = s.fixed := by
  unfold State.fillArray
  repeat' (first | with_reducible rfl | (simp [*]; done) | split | (refine (foldl_fixed _ _ _ ?_).trans ?_ <;> intros) | (refine (foldl_fixed_fst _ _ _ ?_).trans ?_ <;> intros) | simp [*])

@[simp] theorem State.fillArrays_fixed (s : State) (key : Nat) :
    (State.fillArrays s key).fixed = s.fixed := by
  unfold State.fillArrays
  repeat' (first | with_reducible rfl | (simp [*]; done) | split | (refine (foldl_fixed _ _ _ ?_).trans ?_ <;> intros) | (refine (foldl_fixed_fst _ _ _ ?_).trans ?_ <;> intros) | simp [*])

@[simp] theorem State.takeKilnPart_fixed (s : State) (prog : KilnProg) (key : Nat) (x : KPart) :
    (State.takeKilnPart s prog key x).fixed = s.fixed := by
  unfold State.takeKilnPart
  repeat' (first | with_reducible rfl | (simp [*]; done) | split | (refine (foldl_fixed _ _ _ ?_).trans ?_ <;> intros) | (refine (foldl_fixed_fst _ _ _ ?_).trans ?_ <;> intros) | simp [*])

@[simp] theorem State.pumpStream_fixed (prog : KilnProg) (key n : Nat) (s : State) :
    (State.pumpStream prog key n s).fixed = s.fixed := by
  induction n generalizing s with
  | zero => simp [State.pumpStream]
  | succ n ih =>
    simp only [State.pumpStream]
    repeat' split
    all_goals simp [ih]

@[simp] theorem State.pump_fixed (s : State) (prog : KilnProg) (key : Nat) :
    (State.pump s prog key).fixed = s.fixed := by
  unfold State.pump
  repeat' (first | with_reducible rfl | (simp [*]; done) | split | (refine (foldl_fixed _ _ _ ?_).trans ?_ <;> intros) | (refine (foldl_fixed_fst _ _ _ ?_).trans ?_ <;> intros) | simp [*])

@[simp] theorem State.unassign_fixed (s : State) (key : Nat) :
    (State.unassign s key).fixed = s.fixed := by
  unfold State.unassign
  repeat' (first | with_reducible rfl | (simp [*]; done) | split | (refine (foldl_fixed _ _ _ ?_).trans ?_ <;> intros) | (refine (foldl_fixed_fst _ _ _ ?_).trans ?_ <;> intros) | simp [*])

@[simp] theorem State.updPlan_fixed (s : State) (slot : Nat) (f : Plan → Plan) :
    (State.updPlan s slot f).fixed = s.fixed := by
  unfold State.updPlan
  repeat' (first | with_reducible rfl | (simp [*]; done) | split | (refine (foldl_fixed _ _ _ ?_).trans ?_ <;> intros) | (refine (foldl_fixed_fst _ _ _ ?_).trans ?_ <;> intros) | simp [*])

@[simp] theorem State.updInst_fixed (s : State) (slot : Nat) (n : Nat) (f : Inst → Inst) :
    (State.updInst s slot n f).fixed = s.fixed := by
  unfold State.updInst
  repeat' (first | with_reducible rfl | (simp [*]; done) | split | (refine (foldl_fixed _ _ _ ?_).trans ?_ <;> intros) | (refine (foldl_fixed_fst _ _ _ ?_).trans ?_ <;> intros) | simp [*])

@[simp] theorem State.updChunk_fixed (s : State) (slot : Nat) (n : Nat) (c : Nat) (f : Chunk → Chunk) :
    (State.updChunk s slot n c f).fixed = s.fixed := by
  unfold State.updChunk
  repeat' (first | with_reducible rfl | (simp [*]; done) | split | (refine (foldl_fixed _ _ _ ?_).trans ?_ <;> intros) | (refine (foldl_fixed_fst _ _ _ ?_).trans ?_ <;> intros) | simp [*])

@[simp] theorem State.arithFlags_fixed (s : State) (slot : Nat) (n : Nat) (fl : Nat) :
    (State.arithFlags s slot n fl).fixed = s.fixed := by
  unfold State.arithFlags
  repeat' (first | with_reducible rfl | (simp [*]; done) | split | (refine (foldl_fixed _ _ _ ?_).trans ?_ <;> intros) | (refine (foldl_fixed_fst _ _ _ ?_).trans ?_ <;> intros) | simp [*])

@[simp] theorem State.nextSeq_fixed (s : State) (d : Domain) :
    (State.nextSeq s d).1.fixed = s.fixed := by
  unfold State.nextSeq
  repeat' (first | with_reducible rfl | (simp [*]; done) | split | (refine (foldl_fixed _ _ _ ?_).trans ?_ <;> intros) | (refine (foldl_fixed_fst _ _ _ ?_).trans ?_ <;> intros) | simp [*])

@[simp] theorem State.sendUni_fixed (s : State) (q : Nat) (h : Hdr) (payload : List Byte) (result : Option (Nat × Nat × Nat)) (outcome : Option Nat) :
    (State.sendUni s q h payload result outcome).1.fixed = s.fixed := by
  unfold State.sendUni
  repeat' (first | with_reducible rfl | (simp [*]; done) | split | (refine (foldl_fixed _ _ _ ?_).trans ?_ <;> intros) | (refine (foldl_fixed_fst _ _ _ ?_).trans ?_ <;> intros) | simp [*])

@[simp] theorem State.sendLine_fixed (s : State) (q : Nat) (h : Hdr) (payload : List Byte) (members : List Nat) (result : Option (Nat × Nat × Nat)) (outcome : Option Nat) :
    (State.sendLine s q h payload members result outcome).1.fixed = s.fixed := by
  unfold State.sendLine
  repeat' (first | with_reducible rfl | (simp [*]; done) | split | (refine (foldl_fixed _ _ _ ?_).trans ?_ <;> intros) | (refine (foldl_fixed_fst _ _ _ ?_).trans ?_ <;> intros) | simp [*])

@[simp] theorem State.sendAck_fixed (s : State) (q : Nat) (req : Frame) (seq : W32) (ecn : Bool) :
    (State.sendAck s q req seq ecn).fixed = s.fixed := by
  unfold State.sendAck
  repeat' (first | with_reducible rfl | (simp [*]; done) | split | (refine (foldl_fixed _ _ _ ?_).trans ?_ <;> intros) | (refine (foldl_fixed_fst _ _ _ ?_).trans ?_ <;> intros) | simp [*])

@[simp] theorem State.openReq_fixed (s : State) (slot : Nat) (q : Nat) (dst : Nat) (status : Bool) (seqs : List W32) :
    (State.openReq s slot q dst status seqs).fixed = s.fixed := by
  unfold State.openReq
  repeat' (first | with_reducible rfl | (simp [*]; done) | split | (refine (foldl_fixed _ _ _ ?_).trans ?_ <;> intros) | (refine (foldl_fixed_fst _ _ _ ?_).trans ?_ <;> intros) | simp [*])

/-- Sending pieces keeps them where sending one does. -/
theorem sendPieces_fixed (go : State → Nat × List Byte → Bool → State × W32) (s : State) (pieces : List (Nat × List Byte))
    (h : ∀ s x b, (go s x b).1.fixed = s.fixed) : (sendPieces go s pieces).1.fixed = s.fixed := by
  unfold sendPieces
  exact foldl_fixed_fst _ _ _ fun s x => h _ _ _

@[simp] theorem State.sendRing_fixed (s : State) (p : Plan) (n : Nat) (q : Nat) (phase : Nat) (pieces : List (Nat × List Byte)) :
    (State.sendRing s p n q phase pieces).fixed = s.fixed := by
  unfold State.sendRing
  repeat' (first | with_reducible rfl | (simp [*]; done) | split | (refine (foldl_fixed _ _ _ ?_).trans ?_ <;> intros) | (refine (foldl_fixed_fst _ _ _ ?_).trans ?_ <;> intros) | simp [*])

@[simp] theorem State.outcomeFailed_fixed (s : State) (q : Nat) :
    (State.outcomeFailed s q).fixed = s.fixed := by
  unfold State.outcomeFailed
  repeat' (first | with_reducible rfl | (simp [*]; done) | split | (refine (foldl_fixed _ _ _ ?_).trans ?_ <;> intros) | (refine (foldl_fixed_fst _ _ _ ?_).trans ?_ <;> intros) | simp [*])

@[simp] theorem State.statusTo_fixed (s : State) (p : Plan) (n : Nat) (i : Nat) (pieces : List (Nat × List Byte)) :
    (State.statusTo s p n i pieces).fixed = s.fixed := by
  unfold State.statusTo
  repeat' (first | with_reducible rfl | (simp [*]; done) | split | (refine (foldl_fixed _ _ _ ?_).trans ?_ <;> intros) | (refine (foldl_fixed_fst _ _ _ ?_).trans ?_ <;> intros) | simp [*])

@[simp] theorem State.statusLine_fixed (s : State) (p : Plan) (n : Nat) (k : Nat) (pieces : List (Nat × List Byte)) :
    (State.statusLine s p n k pieces).fixed = s.fixed := by
  unfold State.statusLine
  repeat' (first | with_reducible rfl | (simp [*]; done) | split | (refine (foldl_fixed _ _ _ ?_).trans ?_ <;> intros) | (refine (foldl_fixed_fst _ _ _ ?_).trans ?_ <;> intros) | simp [*])

@[simp] theorem State.writeOutcome_fixed (s : State) (slot : Nat) (n : Nat) (o : Outcome) :
    (State.writeOutcome s slot n o).fixed = s.fixed := by
  unfold State.writeOutcome
  repeat' (first | with_reducible rfl | (simp [*]; done) | split | (refine (foldl_fixed _ _ _ ?_).trans ?_ <;> intros) | (refine (foldl_fixed_fst _ _ _ ?_).trans ?_ <;> intros) | simp [*])

@[simp] theorem State.meshOpen_fixed (s : State) (slot : Nat) (n : Nat) :
    (State.meshOpen s slot n).fixed = s.fixed := by
  unfold State.meshOpen
  repeat' (first | with_reducible rfl | (simp [*]; done) | split | (refine (foldl_fixed _ _ _ ?_).trans ?_ <;> intros) | (refine (foldl_fixed_fst _ _ _ ?_).trans ?_ <;> intros) | simp [*])

@[simp] theorem State.meshEnd_fixed (s : State) (slot : Nat) (n : Option Nat) :
    (State.meshEnd s slot n).fixed = s.fixed := by
  unfold State.meshEnd
  repeat' (first | with_reducible rfl | (simp [*]; done) | split | (refine (foldl_fixed _ _ _ ?_).trans ?_ <;> intros) | (refine (foldl_fixed_fst _ _ _ ?_).trans ?_ <;> intros) | simp [*])

@[simp] theorem State.dropWork_fixed (s : State) (slot : Nat) (n : Nat) :
    (State.dropWork s slot n).fixed = s.fixed := by
  unfold State.dropWork
  repeat' (first | with_reducible rfl | (simp [*]; done) | split | (refine (foldl_fixed _ _ _ ?_).trans ?_ <;> intros) | (refine (foldl_fixed_fst _ _ _ ?_).trans ?_ <;> intros) | simp [*])

@[simp] theorem State.endInst_fixed (s : State) (slot : Nat) (n : Nat) (o : Outcome) :
    (State.endInst s slot n o).fixed = s.fixed := by
  unfold State.endInst
  repeat' (first | with_reducible rfl | (simp [*]; done) | split | (refine (foldl_fixed _ _ _ ?_).trans ?_ <;> intros) | (refine (foldl_fixed_fst _ _ _ ?_).trans ?_ <;> intros) | simp [*])

@[simp] theorem State.settleInst_fixed (s : State) (slot : Nat) (n : Nat) :
    (State.settleInst s slot n).fixed = s.fixed := by
  unfold State.settleInst
  repeat' (first | with_reducible rfl | (simp [*]; done) | split | (refine (foldl_fixed _ _ _ ?_).trans ?_ <;> intros) | (refine (foldl_fixed_fst _ _ _ ?_).trans ?_ <;> intros) | simp [*])

@[simp] theorem State.loseReceiver_fixed (s : State) (slot : Nat) (n : Nat) (r : Nat) :
    (State.loseReceiver s slot n r).fixed = s.fixed := by
  unfold State.loseReceiver
  repeat' (first | with_reducible rfl | (simp [*]; done) | split | (refine (foldl_fixed _ _ _ ?_).trans ?_ <;> intros) | (refine (foldl_fixed_fst _ _ _ ?_).trans ?_ <;> intros) | simp [*])

@[simp] theorem State.settleChunk_fixed (s : State) (slot : Nat) (n : Nat) (c : Nat) :
    (State.settleChunk s slot n c).fixed = s.fixed := by
  unfold State.settleChunk
  repeat' (first | with_reducible rfl | (simp [*]; done) | split | (refine (foldl_fixed _ _ _ ?_).trans ?_ <;> intros) | (refine (foldl_fixed_fst _ _ _ ?_).trans ?_ <;> intros) | simp [*])

@[simp] theorem State.settleChunks_fixed (s : State) (slot : Nat) (n : Nat) :
    (State.settleChunks s slot n).fixed = s.fixed := by
  unfold State.settleChunks
  repeat' (first | with_reducible rfl | (simp [*]; done) | split | (refine (foldl_fixed _ _ _ ?_).trans ?_ <;> intros) | (refine (foldl_fixed_fst _ _ _ ?_).trans ?_ <;> intros) | simp [*])

@[simp] theorem State.fencedReceiver_fixed (s : State) (rc : Nat × Nat × Nat) (eid : Nat) :
    (State.fencedReceiver s rc eid).fixed = s.fixed := by
  unfold State.fencedReceiver
  repeat' (first | with_reducible rfl | (simp [*]; done) | split | (refine (foldl_fixed _ _ _ ?_).trans ?_ <;> intros) | (refine (foldl_fixed_fst _ _ _ ?_).trans ?_ <;> intros) | simp [*])

@[simp] theorem State.stageResult_fixed (s : State) (slot : Nat) (n : Nat) (c : Nat) (q : Nat) (bytes : List Byte) :
    (State.stageResult s slot n c q bytes).fixed = s.fixed := by
  unfold State.stageResult
  repeat' (first | with_reducible rfl | (simp [*]; done) | split | (refine (foldl_fixed _ _ _ ?_).trans ?_ <;> intros) | (refine (foldl_fixed_fst _ _ _ ?_).trans ?_ <;> intros) | simp [*])

@[simp] theorem State.deliver_fixed (s : State) (slot : Nat) (n : Nat) (c : Nat) :
    (State.deliver s slot n c).fixed = s.fixed := by
  unfold State.deliver
  repeat' (first | with_reducible rfl | (simp [*]; done) | split | (refine (foldl_fixed _ _ _ ?_).trans ?_ <;> intros) | (refine (foldl_fixed_fst _ _ _ ?_).trans ?_ <;> intros) | simp [*])

@[simp] theorem State.sendAgain_fixed (s : State) (q : Nat) (h : Hdr) (seq : W32) (payload : List Byte) (result : Option (Nat × Nat × Nat)) :
    (State.sendAgain s q h seq payload result).fixed = s.fixed := by
  unfold State.sendAgain
  repeat' (first | with_reducible rfl | (simp [*]; done) | split | (refine (foldl_fixed _ _ _ ?_).trans ?_ <;> intros) | (refine (foldl_fixed_fst _ _ _ ?_).trans ?_ <;> intros) | simp [*])

@[simp] theorem State.resend_fixed (s : State) (slot : Nat) (n : Nat) (c : Nat) (r : Nat) :
    (State.resend s slot n c r).fixed = s.fixed := by
  unfold State.resend
  repeat' (first | with_reducible rfl | (simp [*]; done) | split | (refine (foldl_fixed _ _ _ ?_).trans ?_ <;> intros) | (refine (foldl_fixed_fst _ _ _ ?_).trans ?_ <;> intros) | simp [*])

@[simp] theorem State.advanceChunk_fixed (s : State) (slot : Nat) (n : Nat) (c : Nat) :
    (State.advanceChunk s slot n c).fixed = s.fixed := by
  unfold State.advanceChunk
  repeat' (first | with_reducible rfl | (simp [*]; done) | split | (refine (foldl_fixed _ _ _ ?_).trans ?_ <;> intros) | (refine (foldl_fixed_fst _ _ _ ?_).trans ?_ <;> intros) | simp [*])

@[simp] theorem State.openChunk_fixed (s : State) (slot : Nat) (n : Nat) (c : Nat) :
    (State.openChunk s slot n c).fixed = s.fixed := by
  unfold State.openChunk
  repeat' (first | with_reducible rfl | (simp [*]; done) | split | (refine (foldl_fixed _ _ _ ?_).trans ?_ <;> intros) | (refine (foldl_fixed_fst _ _ _ ?_).trans ?_ <;> intros) | simp [*])

@[simp] theorem State.openInst_fixed (s : State) (slot : Nat) (n : Nat) :
    (State.openInst s slot n).fixed = s.fixed := by
  unfold State.openInst
  repeat' (first | with_reducible rfl | (simp [*]; done) | split | (refine (foldl_fixed _ _ _ ?_).trans ?_ <;> intros) | (refine (foldl_fixed_fst _ _ _ ?_).trans ?_ <;> intros) | simp [*])

@[simp] theorem State.admitTo_fixed (s : State) (w : Waiting) (p : Nat) (n : Nat) (cells : Nat) (faulty : Bool) :
    (State.admitTo s w p n cells faulty).fixed = s.fixed := by
  unfold State.admitTo
  repeat' (first | with_reducible rfl | (simp [*]; done) | split | (refine (foldl_fixed _ _ _ ?_).trans ?_ <;> intros) | (refine (foldl_fixed_fst _ _ _ ?_).trans ?_ <;> intros) | simp [*])

@[simp] theorem State.pitchPut_fixed (s : State) (q : Nat) (f : Frame) (held : Bool) :
    (State.pitchPut s q f held).fixed = s.fixed := by
  unfold State.pitchPut
  repeat' (first | with_reducible rfl | (simp [*]; done) | split | (refine (foldl_fixed _ _ _ ?_).trans ?_ <;> intros) | (refine (foldl_fixed_fst _ _ _ ?_).trans ?_ <;> intros) | simp [*])

@[simp] theorem State.pitchCopyGone_fixed (s : State) (fid : Nat) :
    (State.pitchCopyGone s fid).fixed = s.fixed := by
  unfold State.pitchCopyGone
  repeat' (first | with_reducible rfl | (simp [*]; done) | split | (refine (foldl_fixed _ _ _ ?_).trans ?_ <;> intros) | (refine (foldl_fixed_fst _ _ _ ?_).trans ?_ <;> intros) | simp [*])

@[simp] theorem State.yellowDrop_fixed (s : State) (c : FrameCtx) :
    (State.yellowDrop s c).fixed = s.fixed := by
  unfold State.yellowDrop
  repeat' (first | with_reducible rfl | (simp [*]; done) | split | (refine (foldl_fixed _ _ _ ?_).trans ?_ <;> intros) | (refine (foldl_fixed_fst _ _ _ ?_).trans ?_ <;> intros) | simp [*])

@[simp] theorem State.copyDone_fixed (s : State) (q : Nat) (item : ReplItem) (charged : Bool) :
    (State.copyDone s q item charged).fixed = s.fixed := by
  unfold State.copyDone
  repeat' (first | with_reducible rfl | (simp [*]; done) | split | (refine (foldl_fixed _ _ _ ?_).trans ?_ <;> intros) | (refine (foldl_fixed_fst _ _ _ ?_).trans ?_ <;> intros) | simp [*])

@[simp] theorem State.copyLost_fixed (s : State) (q : Nat) (item : ReplItem) (k : State → State) (hk : ∀ s, (k s).fixed = s.fixed) :
    (State.copyLost s q item k).fixed = s.fixed := by
  unfold State.copyLost
  repeat' (first | with_reducible rfl | (simp [*]; done) | split | (refine (foldl_fixed _ _ _ ?_).trans ?_ <;> intros) | (refine (foldl_fixed_fst _ _ _ ?_).trans ?_ <;> intros) | simp [*])

@[simp] theorem State.copyDrop_fixed (s : State) (q : Nat) (idx : Nat) (c : FrameCtx) :
    (State.copyDrop s q idx c).fixed = s.fixed := by
  unfold State.copyDrop
  repeat' (first | with_reducible rfl | (simp [*]; done) | split | (refine (foldl_fixed _ _ _ ?_).trans ?_ <;> intros) | (refine (foldl_fixed_fst _ _ _ ?_).trans ?_ <;> intros) | simp [*])

/-- A copy that the replicator makes leaves them alone. -/
theorem State.replicate_fixed {s t : State} {q : Nat} {item : ReplItem} (h : s.replicate q item = some t) : t.fixed = s.fixed := by
  unfold State.replicate at h
  simp only at h
  repeat' split at h
  all_goals first | (cases h; done) | (simp only [Option.some.injEq] at h; subst h; simp; done) | skip

@[simp] theorem State.replicateFirst_fixed (s : State) (q : Nat) (l : List ReplItem) :
    (s.replicateFirst q l).fixed = s.fixed := by
  induction l with
  | nil => rfl
  | cons x r ih =>
    simp only [State.replicateFirst]
    split
    · exact State.replicate_fixed ‹_›
    · exact ih

@[simp] theorem State.fencedAt_fixed (s : State) (q : Nat) (eid : Nat) :
    (State.fencedAt s q eid).1.fixed = s.fixed := by
  unfold State.fencedAt
  repeat' (first | with_reducible rfl | (simp [*]; done) | split | (refine (foldl_fixed _ _ _ ?_).trans ?_ <;> intros) | (refine (foldl_fixed_fst _ _ _ ?_).trans ?_ <;> intros) | simp [*])

@[simp] theorem State.fencedOf_fixed (s : State) (q : Nat) (ms : List W32) :
    (State.fencedOf s q ms).1.fixed = s.fixed := by
  unfold State.fencedOf
  repeat' (first | with_reducible rfl | (simp [*]; done) | split | (refine (foldl_fixed _ _ _ ?_).trans ?_ <;> intros) | (refine (foldl_fixed_fst _ _ _ ?_).trans ?_ <;> intros) | simp [*])

@[simp] theorem State.headFenced_fixed (s : State) (q : Nat) (e : QEntry) :
    (State.headFenced s q e).1.fixed = s.fixed := by
  unfold State.headFenced
  repeat' (first | with_reducible rfl | (simp [*]; done) | split | (refine (foldl_fixed _ _ _ ?_).trans ?_ <;> intros) | (refine (foldl_fixed_fst _ _ _ ?_).trans ?_ <;> intros) | simp [*])

@[simp] theorem State.cleanHead_fixed (p n k : Nat) (s : State) : (State.cleanHead p n k s).fixed = s.fixed := by
  induction k generalizing s with
  | zero => rfl
  | succ k ih =>
    simp only [State.cleanHead]
    split
    · rfl
    · split
      · simp [ih]
      · split
        · rw [ih]; split <;> simp
        · simp

@[simp] theorem State.reportFenced_fixed (s : State) (q : Nat) (e : QEntry) :
    (State.reportFenced s q e).fixed = s.fixed := by
  unfold State.reportFenced
  repeat' (first | with_reducible rfl | (simp [*]; done) | split | (refine (foldl_fixed _ _ _ ?_).trans ?_ <;> intros) | (refine (foldl_fixed_fst _ _ _ ?_).trans ?_ <;> intros) | simp [*])

@[simp] theorem State.sendHead_fixed (s : State) (p : Nat) (n : Nat) (late : Bool) (drr : DrrSt) :
    (State.sendHead s p n late drr).fixed = s.fixed := by
  unfold State.sendHead
  repeat' (first | with_reducible rfl | (simp [*]; done) | split | (refine (foldl_fixed _ _ _ ?_).trans ?_ <;> intros) | (refine (foldl_fixed_fst _ _ _ ?_).trans ?_ <;> intros) | simp [*])

@[simp] theorem State.shaperBoundary_fixed (s : State) (p : Nat) (n : Nat) :
    (State.shaperBoundary s p n).fixed = s.fixed := by
  unfold State.shaperBoundary
  repeat' (first | with_reducible rfl | (simp [*]; done) | split | (refine (foldl_fixed _ _ _ ?_).trans ?_ <;> intros) | (refine (foldl_fixed_fst _ _ _ ?_).trans ?_ <;> intros) | simp [*])

@[simp] theorem State.sampleEnd_fixed (s : State) (q : Nat) :
    (State.sampleEnd s q).fixed = s.fixed := by
  unfold State.sampleEnd
  repeat' (first | with_reducible rfl | (simp [*]; done) | split | (refine (foldl_fixed _ _ _ ?_).trans ?_ <;> intros) | (refine (foldl_fixed_fst _ _ _ ?_).trans ?_ <;> intros) | simp [*])

@[simp] theorem State.setCtr_fixed (s : State) (g : Nat) (i : Nat) (v : Nat) :
    (State.setCtr s g i v).fixed = s.fixed := by
  unfold State.setCtr
  repeat' (first | with_reducible rfl | (simp [*]; done) | split | (refine (foldl_fixed _ _ _ ?_).trans ?_ <;> intros) | (refine (foldl_fixed_fst _ _ _ ?_).trans ?_ <;> intros) | simp [*])

@[simp] theorem State.bandwidthEnd_fixed (s : State) :
    (State.bandwidthEnd s).fixed = s.fixed := by
  unfold State.bandwidthEnd
  repeat' (first | with_reducible rfl | (simp [*]; done) | split | (refine (foldl_fixed _ _ _ ?_).trans ?_ <;> intros) | (refine (foldl_fixed_fst _ _ _ ?_).trans ?_ <;> intros) | simp [*])

@[simp] theorem State.tmBoundary_fixed (s : State) (q : Nat) :
    (State.tmBoundary s q).fixed = s.fixed := by
  unfold State.tmBoundary
  repeat' (first | with_reducible rfl | (simp [*]; done) | split | (refine (foldl_fixed _ _ _ ?_).trans ?_ <;> intros) | (refine (foldl_fixed_fst _ _ _ ?_).trans ?_ <;> intros) | simp [*])

@[simp] theorem State.updFlying_fixed (s : State) (fid : Nat) (f : Flying → Flying) :
    (State.updFlying s fid f).fixed = s.fixed := by
  unfold State.updFlying
  repeat' (first | with_reducible rfl | (simp [*]; done) | split | (refine (foldl_fixed _ _ _ ?_).trans ?_ <;> intros) | (refine (foldl_fixed_fst _ _ _ ?_).trans ?_ <;> intros) | simp [*])

@[simp] theorem State.dropFlown_fixed (s : State) (f : Flying) (p : Nat) :
    (State.dropFlown s f p).fixed = s.fixed := by
  unfold State.dropFlown
  repeat' (first | with_reducible rfl | (simp [*]; done) | split | (refine (foldl_fixed _ _ _ ?_).trans ?_ <;> intros) | (refine (foldl_fixed_fst _ _ _ ?_).trans ?_ <;> intros) | simp [*])

@[simp] theorem State.unicastFrag_fixed (s : State) (f : Flying) (p : Nat) (last bad : Bool) :
    (State.unicastFrag s f p last bad).fixed = s.fixed := by
  unfold State.unicastFrag
  repeat' (first | with_reducible rfl | (simp [*]; done) | split | (refine (foldl_fixed _ _ _ ?_).trans ?_ <;> intros) | (refine (foldl_fixed_fst _ _ _ ?_).trans ?_ <;> intros) | simp [*])

@[simp] theorem State.watchLost_fixed (s : State) (f : Flying) :
    (State.watchLost s f).fixed = s.fixed := by
  unfold State.watchLost
  repeat' (first | with_reducible rfl | (simp [*]; done) | split | (refine (foldl_fixed _ _ _ ?_).trans ?_ <;> intros) | (refine (foldl_fixed_fst _ _ _ ?_).trans ?_ <;> intros) | simp [*])

@[simp] theorem State.releaseFrag_fixed (s : State) (st : StreamId) (g : Frag) :
    (State.releaseFrag s st g).fixed = s.fixed := by
  unfold State.releaseFrag
  repeat' (first | with_reducible rfl | (simp [*]; done) | split | (refine (foldl_fixed _ _ _ ?_).trans ?_ <;> intros) | (refine (foldl_fixed_fst _ _ _ ?_).trans ?_ <;> intros) | simp [*])

@[simp] theorem State.releaseRun_fixed (st : StreamId) (k : Nat) (s : State) : (State.releaseRun st k s).fixed = s.fixed := by
  induction k generalizing s with
  | zero => rfl
  | succ k ih =>
    simp only [State.releaseRun]
    split
    · rfl
    · rw [ih]; simp

@[simp] theorem State.loseFrame_fixed (s : State) (st : StreamId) (fid : Nat) :
    (State.loseFrame s st fid).fixed = s.fixed := by
  unfold State.loseFrame
  repeat' (first | with_reducible rfl | (simp [*]; done) | split | (refine (foldl_fixed _ _ _ ?_).trans ?_ <;> intros) | (refine (foldl_fixed_fst _ _ _ ?_).trans ?_ <;> intros) | simp [*])

@[simp] theorem State.discardFlit_fixed (s : State) (x y b : Nat) (empty : Bool) :
    (State.discardFlit s x y b empty).fixed = s.fixed := by
  unfold State.discardFlit
  repeat' (first | with_reducible rfl | (simp [*]; done) | split | (refine (foldl_fixed _ _ _ ?_).trans ?_ <;> intros) | (refine (foldl_fixed_fst _ _ _ ?_).trans ?_ <;> intros) | simp [*])

@[simp] theorem State.loseFlight_fixed (s : State) (x y b : Nat) :
    (State.loseFlight s x y b).fixed = s.fixed := by
  unfold State.loseFlight
  repeat' (first | with_reducible rfl | (simp [*]; done) | split | (refine (foldl_fixed _ _ _ ?_).trans ?_ <;> intros) | (refine (foldl_fixed_fst _ _ _ ?_).trans ?_ <;> intros) | simp [*])

@[simp] theorem State.takeMsg_fixed (s : State) (x y : Nat) (m : XMsg) :
    (State.takeMsg s x y m).fixed = s.fixed := by
  unfold State.takeMsg
  repeat' (first | with_reducible rfl | (simp [*]; done) | split | (refine (foldl_fixed _ _ _ ?_).trans ?_ <;> intros) | (refine (foldl_fixed_fst _ _ _ ?_).trans ?_ <;> intros) | simp [*])

@[simp] theorem State.takeMsgs_fixed (s : State) (x y : Nat) (ms : List XMsg) :
    (State.takeMsgs s x y ms).fixed = s.fixed := by
  unfold State.takeMsgs
  repeat' (first | with_reducible rfl | (simp [*]; done) | split | (refine (foldl_fixed _ _ _ ?_).trans ?_ <;> intros) | (refine (foldl_fixed_fst _ _ _ ?_).trans ?_ <;> intros) | simp [*])

@[simp] theorem State.takeEarly_fixed (x y n : Nat) (s : State) : (State.takeEarly x y n s).fixed = s.fixed := by
  induction n generalizing s with
  | zero => rfl
  | succ n ih =>
    unfold State.takeEarly
    dsimp only
    split
    · rfl
    · rw [ih]; simp

@[simp] theorem State.msgArrive_fixed (s : State) (x y : Nat) (m : W16) (ms : List XMsg) :
    (State.msgArrive s x y m ms).fixed = s.fixed := by
  unfold State.msgArrive
  repeat' (first | with_reducible rfl | (simp [*]; done) | split | (refine (foldl_fixed _ _ _ ?_).trans ?_ <;> intros) | (refine (foldl_fixed_fst _ _ _ ?_).trans ?_ <;> intros) | simp [*])

@[simp] theorem State.landFlit_fixed (s : State) (x : Nat) (y : Nat) (b : Nat) :
    (State.landFlit s x y b).fixed = s.fixed := by
  unfold State.landFlit
  repeat' (first | with_reducible rfl | (simp [*]; done) | split | (refine (foldl_fixed _ _ _ ?_).trans ?_ <;> intros) | (refine (foldl_fixed_fst _ _ _ ?_).trans ?_ <;> intros) | simp [*])

@[simp] theorem State.replayFrom_fixed (s : State) (x : Nat) (y : Nat) (b : Nat) (slot : Nat) :
    (State.replayFrom s x y b slot).fixed = s.fixed := by
  unfold State.replayFrom
  repeat' (first | with_reducible rfl | (simp [*]; done) | split | (refine (foldl_fixed _ _ _ ?_).trans ?_ <;> intros) | (refine (foldl_fixed_fst _ _ _ ?_).trans ?_ <;> intros) | simp [*])

@[simp] theorem State.slotsLost_fixed (s : State) (x : Nat) (y : Nat) (b : Nat) :
    (State.slotsLost s x y b).fixed = s.fixed := by
  unfold State.slotsLost
  repeat' (first | with_reducible rfl | (simp [*]; done) | split | (refine (foldl_fixed _ _ _ ?_).trans ?_ <;> intros) | (refine (foldl_fixed_fst _ _ _ ?_).trans ?_ <;> intros) | simp [*])

@[simp] theorem State.replayAsked_fixed (s : State) (x y b slot : Nat) :
    (State.replayAsked s x y b slot).fixed = s.fixed := by
  unfold State.replayAsked
  repeat' (first | with_reducible rfl | (simp [*]; done) | split | (refine (foldl_fixed _ _ _ ?_).trans ?_ <;> intros) | (refine (foldl_fixed_fst _ _ _ ?_).trans ?_ <;> intros) | simp [*])

@[simp] theorem State.deliverFlit_fixed (s : State) (x : Nat) (y : Nat) (b : Nat) (w : WireFlit) :
    (State.deliverFlit s x y b w).fixed = s.fixed := by
  unfold State.deliverFlit
  repeat' (first | with_reducible rfl | (simp [*]; done) | split | (refine (foldl_fixed _ _ _ ?_).trans ?_ <;> intros) | (refine (foldl_fixed_fst _ _ _ ?_).trans ?_ <;> intros) | simp [*])

@[simp] theorem State.d2dEvent_fixed (s : State) (x : Nat) (y : Nat) (b : Nat) (flags : Nat) (wire : Nat) :
    (State.d2dEvent s x y b flags wire).fixed = s.fixed := by
  unfold State.d2dEvent
  repeat' (first | with_reducible rfl | (simp [*]; done) | split | (refine (foldl_fixed _ _ _ ?_).trans ?_ <;> intros) | (refine (foldl_fixed_fst _ _ _ ?_).trans ?_ <;> intros) | simp [*])

@[simp] theorem State.startQuiet_fixed (s : State) (x : Nat) (y : Nat) (b : Nat) :
    (State.startQuiet s x y b).fixed = s.fixed := by
  unfold State.startQuiet
  repeat' (first | with_reducible rfl | (simp [*]; done) | split | (refine (foldl_fixed _ _ _ ?_).trans ?_ <;> intros) | (refine (foldl_fixed_fst _ _ _ ?_).trans ?_ <;> intros) | simp [*])

@[simp] theorem State.nextQuiet_fixed (s : State) (x : Nat) (y : Nat) :
    (State.nextQuiet s x y).fixed = s.fixed := by
  unfold State.nextQuiet
  repeat' (first | with_reducible rfl | (simp [*]; done) | split | (refine (foldl_fixed _ _ _ ?_).trans ?_ <;> intros) | (refine (foldl_fixed_fst _ _ _ ?_).trans ?_ <;> intros) | simp [*])

@[simp] theorem State.openPart_fixed (s : State) (slot : Nat) (q : Nat) (dst : Nat) (x : W32) :
    (State.openPart s slot q dst x).fixed = s.fixed := by
  unfold State.openPart
  repeat' (first | with_reducible rfl | (simp [*]; done) | split | (refine (foldl_fixed _ _ _ ?_).trans ?_ <;> intros) | (refine (foldl_fixed_fst _ _ _ ?_).trans ?_ <;> intros) | simp [*])

@[simp] theorem State.sendCodedParts_fixed (s : State) (p : Plan) (key : Nat) (n : Nat) (c : Nat) (q : Nat) :
    (State.sendCodedParts s p key n c q).fixed = s.fixed := by
  unfold State.sendCodedParts
  repeat' (first | with_reducible rfl | (simp [*]; done) | split | (refine (foldl_fixed _ _ _ ?_).trans ?_ <;> intros) | (refine (foldl_fixed_fst _ _ _ ?_).trans ?_ <;> intros) | simp [*])

@[simp] theorem State.addKilnOutputs_fixed (s : State) (p : Plan) (t : Tile) (outs : List Nat) :
    (State.addKilnOutputs s p t outs).fixed = s.fixed := by
  unfold State.addKilnOutputs
  repeat' (first | with_reducible rfl | (simp [*]; done) | split | (refine (foldl_fixed _ _ _ ?_).trans ?_ <;> intros) | (refine (foldl_fixed_fst _ _ _ ?_).trans ?_ <;> intros) | simp [*])

@[simp] theorem State.beginForced_fixed (s : State) (key : Nat) :
    (State.beginForced s key).fixed = s.fixed := by
  unfold State.beginForced
  repeat' (first | with_reducible rfl | (simp [*]; done) | split | (refine (foldl_fixed _ _ _ ?_).trans ?_ <;> intros) | (refine (foldl_fixed_fst _ _ _ ?_).trans ?_ <;> intros) | simp [*])

@[simp] theorem State.kilnReceive_fixed (s : State) (p : Plan) (q : Nat) (x : KPart) :
    (State.kilnReceive s p q x).fixed = s.fixed := by
  unfold State.kilnReceive
  repeat' (first | with_reducible rfl | (simp [*]; done) | split | (refine (foldl_fixed _ _ _ ?_).trans ?_ <;> intros) | (refine (foldl_fixed_fst _ _ _ ?_).trans ?_ <;> intros) | simp [*])

@[simp] theorem State.startTest_fixed (s : State) (key : Nat) (r : StartTest) :
    (State.startTest s key r).fixed = s.fixed := by
  unfold State.startTest
  repeat' (first | with_reducible rfl | (simp [*]; done) | split | (refine (foldl_fixed _ _ _ ?_).trans ?_ <;> intros) | (refine (foldl_fixed_fst _ _ _ ?_).trans ?_ <;> intros) | simp [*])

@[simp] theorem State.loadBanks_fixed (s : State) (key : Nat) (slot : Nat) :
    (State.loadBanks s key slot).fixed = s.fixed := by
  unfold State.loadBanks
  repeat' (first | with_reducible rfl | (simp [*]; done) | split | (refine (foldl_fixed _ _ _ ?_).trans ?_ <;> intros) | (refine (foldl_fixed_fst _ _ _ ?_).trans ?_ <;> intros) | simp [*])

@[simp] theorem State.kilnRecord_fixed (s : State) (kind : Nat) (key : Nat) (stream : Nat) (vector : Nat) (ns : W64) :
    (State.kilnRecord s kind key stream vector ns).fixed = s.fixed := by
  unfold State.kilnRecord
  repeat' (first | with_reducible rfl | (simp [*]; done) | split | (refine (foldl_fixed _ _ _ ?_).trans ?_ <;> intros) | (refine (foldl_fixed_fst _ _ _ ?_).trans ?_ <;> intros) | simp [*])

@[simp] theorem State.katFail_fixed (s : State) (key : Nat) (kind : Nat) (vector : Nat) (retest : StartTest) :
    (State.katFail s key kind vector retest).fixed = s.fixed := by
  unfold State.katFail
  repeat' (first | with_reducible rfl | (simp [*]; done) | split | (refine (foldl_fixed _ _ _ ?_).trans ?_ <;> intros) | (refine (foldl_fixed_fst _ _ _ ?_).trans ?_ <;> intros) | simp [*])

@[simp] theorem State.mashNack_fixed (s : State) (c : FrameCtx) (q : Nat) (check : Nat) (detail : Nat) :
    (State.mashNack s c q check detail).fixed = s.fixed := by
  unfold State.mashNack
  repeat' (first | with_reducible rfl | (simp [*]; done) | split | (refine (foldl_fixed _ _ _ ?_).trans ?_ <;> intros) | (refine (foldl_fixed_fst _ _ _ ?_).trans ?_ <;> intros) | simp [*])

@[simp] theorem State.mashNoWindow_fixed (s : State) (c : FrameCtx) :
    (State.mashNoWindow s c).fixed = s.fixed := by
  unfold State.mashNoWindow
  repeat' (first | with_reducible rfl | (simp [*]; done) | split | (refine (foldl_fixed _ _ _ ?_).trans ?_ <;> intros) | (refine (foldl_fixed_fst _ _ _ ?_).trans ?_ <;> intros) | simp [*])

@[simp] theorem State.mashOutcome_fixed (s : State) (c : FrameCtx) (check : Nat) :
    (State.mashOutcome s c check).fixed = s.fixed := by
  unfold State.mashOutcome
  repeat' (first | with_reducible rfl | (simp [*]; done) | split | (refine (foldl_fixed _ _ _ ?_).trans ?_ <;> intros) | (refine (foldl_fixed_fst _ _ _ ?_).trans ?_ <;> intros) | simp [*])

@[simp] theorem State.mashAckOnly_fixed (s : State) (c : FrameCtx) (check : Nat) :
    (State.mashAckOnly s c check).fixed = s.fixed := by
  unfold State.mashAckOnly
  repeat' (first | with_reducible rfl | (simp [*]; done) | split | (refine (foldl_fixed _ _ _ ?_).trans ?_ <;> intros) | (refine (foldl_fixed_fst _ _ _ ?_).trans ?_ <;> intros) | simp [*])

@[simp] theorem State.ackMsg_fixed (s : State) (q : Nat) (m : MsgSt) :
    (State.ackMsg s q m).fixed = s.fixed := by
  unfold State.ackMsg
  repeat' (first | with_reducible rfl | (simp [*]; done) | split | (refine (foldl_fixed _ _ _ ?_).trans ?_ <;> intros) | (refine (foldl_fixed_fst _ _ _ ?_).trans ?_ <;> intros) | simp [*])

@[simp] theorem State.ackContrib_fixed (s : State) (q : Nat) (m : MsgSt) :
    (State.ackContrib s q m).fixed = s.fixed := by
  unfold State.ackContrib
  repeat' (first | with_reducible rfl | (simp [*]; done) | split | (refine (foldl_fixed _ _ _ ?_).trans ?_ <;> intros) | (refine (foldl_fixed_fst _ _ _ ?_).trans ?_ <;> intros) | simp [*])

@[simp] theorem State.progressed_fixed (s : State) (slot : Nat) (n : Nat) :
    (State.progressed s slot n).fixed = s.fixed := by
  unfold State.progressed
  repeat' (first | with_reducible rfl | (simp [*]; done) | split | (refine (foldl_fixed _ _ _ ?_).trans ?_ <;> intros) | (refine (foldl_fixed_fst _ _ _ ?_).trans ?_ <;> intros) | simp [*])

@[simp] theorem State.heardFrom_fixed (s : State) (slot : Nat) (n : Nat) (k : Nat) :
    (State.heardFrom s slot n k).fixed = s.fixed := by
  unfold State.heardFrom
  repeat' (first | with_reducible rfl | (simp [*]; done) | split | (refine (foldl_fixed _ _ _ ?_).trans ?_ <;> intros) | (refine (foldl_fixed_fst _ _ _ ?_).trans ?_ <;> intros) | simp [*])

@[simp] theorem State.answerCount_fixed (s : State) (slot : Nat) (n : Nat) (k : Nat) :
    (State.answerCount s slot n k).fixed = s.fixed := by
  unfold State.answerCount
  repeat' (first | with_reducible rfl | (simp [*]; done) | split | (refine (foldl_fixed _ _ _ ?_).trans ?_ <;> intros) | (refine (foldl_fixed_fst _ _ _ ?_).trans ?_ <;> intros) | simp [*])

@[simp] theorem State.settleCounts_fixed (s : State) (slot : Nat) (n : Nat) :
    (State.settleCounts s slot n).fixed = s.fixed := by
  unfold State.settleCounts
  repeat' (first | with_reducible rfl | (simp [*]; done) | split | (refine (foldl_fixed _ _ _ ?_).trans ?_ <;> intros) | (refine (foldl_fixed_fst _ _ _ ?_).trans ?_ <;> intros) | simp [*])

@[simp] theorem State.toTun_fixed (s : State) (ch : Chunk) (w : Work) :
    (State.toTun s ch w).fixed = s.fixed := by
  unfold State.toTun
  repeat' (first | with_reducible rfl | (simp [*]; done) | split | (refine (foldl_fixed _ _ _ ?_).trans ?_ <;> intros) | (refine (foldl_fixed_fst _ _ _ ?_).trans ?_ <;> intros) | simp [*])

@[simp] theorem State.withChunk_fixed (s : State) (slot : Nat) (n : Nat) (c : Nat) :
    (State.withChunk s slot n c).fixed = s.fixed := by
  unfold State.withChunk
  repeat' (first | with_reducible rfl | (simp [*]; done) | split | (refine (foldl_fixed _ _ _ ?_).trans ?_ <;> intros) | (refine (foldl_fixed_fst _ _ _ ?_).trans ?_ <;> intros) | simp [*])

@[simp] theorem State.mashDup_fixed (s : State) (c : FrameCtx) (q : Nat) (added : Bool) :
    (State.mashDup s c q added).fixed = s.fixed := by
  unfold State.mashDup
  repeat' (first | with_reducible rfl | (simp [*]; done) | split | (refine (foldl_fixed _ _ _ ?_).trans ?_ <;> intros) | (refine (foldl_fixed_fst _ _ _ ?_).trans ?_ <;> intros) | simp [*])

@[simp] theorem State.takeContrib_fixed (s : State) (c : FrameCtx) (p : Plan) (q : Nat) (cNo : Nat) (k : Nat) :
    (State.takeContrib s c p q cNo k).fixed = s.fixed := by
  unfold State.takeContrib
  repeat' (first | with_reducible rfl | (simp [*]; done) | split | (refine (foldl_fixed _ _ _ ?_).trans ?_ <;> intros) | (refine (foldl_fixed_fst _ _ _ ?_).trans ?_ <;> intros) | simp [*])

@[simp] theorem State.takePartial_fixed (s : State) (c : FrameCtx) (p : Plan) (q : Nat) (cNo : Nat) (k : Nat) (kiln : Option (Nat × List W32)) :
    (State.takePartial s c p q cNo k kiln).fixed = s.fixed := by
  unfold State.takePartial
  repeat' (first | with_reducible rfl | (simp [*]; done) | split | (refine (foldl_fixed _ _ _ ?_).trans ?_ <;> intros) | (refine (foldl_fixed_fst _ _ _ ?_).trans ?_ <;> intros) | simp [*])

@[simp] theorem State.takeResult_fixed (s : State) (c : FrameCtx) (p : Plan) (q : Nat) (cNo : Nat) (k : Nat) :
    (State.takeResult s c p q cNo k).fixed = s.fixed := by
  unfold State.takeResult
  repeat' (first | with_reducible rfl | (simp [*]; done) | split | (refine (foldl_fixed _ _ _ ?_).trans ?_ <;> intros) | (refine (foldl_fixed_fst _ _ _ ?_).trans ?_ <;> intros) | simp [*])

@[simp] theorem State.takeCount_fixed (s : State) (c : FrameCtx) (p : Plan) (v : Nat) : (State.takeCount s c p v).fixed = s.fixed := by
  simp only [State.takeCount]
  split
  · simp
  · split
    · split
      · split <;> simp
      · simp
    · split
      · simp
      · split <;> simp

@[simp] theorem State.resolveTun_fixed (s : State) (key : Nat) :
    (State.resolveTun s key).fixed = s.fixed := by
  unfold State.resolveTun
  repeat' (first | with_reducible rfl | (simp [*]; done) | split | (refine (foldl_fixed _ _ _ ?_).trans ?_ <;> intros) | (refine (foldl_fixed_fst _ _ _ ?_).trans ?_ <;> intros) | simp [*])

@[simp] theorem State.retryReceiver_fixed (s : State) (slot : Nat) (n : Nat) (c : Nat) (r : Nat) :
    (State.retryReceiver s slot n c r).fixed = s.fixed := by
  unfold State.retryReceiver
  repeat' (first | with_reducible rfl | (simp [*]; done) | split | (refine (foldl_fixed _ _ _ ?_).trans ?_ <;> intros) | (refine (foldl_fixed_fst _ _ _ ?_).trans ?_ <;> intros) | simp [*])

@[simp] theorem State.takeAnswer_fixed (s : State) (p : Plan) (f : Frame) (op : Nat) :
    (State.takeAnswer s p f op).1.fixed = s.fixed := by
  unfold State.takeAnswer
  repeat' (first | with_reducible rfl | (simp [*]; done) | split | (refine (foldl_fixed _ _ _ ?_).trans ?_ <;> intros) | (refine (foldl_fixed_fst _ _ _ ?_).trans ?_ <;> intros) | simp [*])

@[simp] theorem State.takeResponse_fixed (s : State) (q : Nat) (op : Nat) :
    (State.takeResponse s q op).fixed = s.fixed := by
  unfold State.takeResponse
  repeat' (first | with_reducible rfl | (simp [*]; done) | split | (refine (foldl_fixed _ _ _ ?_).trans ?_ <;> intros) | (refine (foldl_fixed_fst _ _ _ ?_).trans ?_ <;> intros) | simp [*])

@[simp] theorem State.takeArrays_fixed (slot q k n : Nat) (s : State) (l : List Nat) :
    (State.takeArrays slot q k n s l).1.fixed = s.fixed := by
  induction n generalizing s l with
  | zero => rfl
  | succ n ih => simp only [State.takeArrays]; split <;> simp [ih]

@[simp] theorem State.openStream_fixed (s : State) (slot : Nat) (q : Nat) (n : Nat) (recv : Bool) :
    (State.openStream s slot q n recv).fixed = s.fixed := by
  unfold State.openStream
  repeat' (first | with_reducible rfl | (simp [*]; done) | split | (refine (foldl_fixed _ _ _ ?_).trans ?_ <;> intros) | (refine (foldl_fixed_fst _ _ _ ?_).trans ?_ <;> intros) | simp [*])

@[simp] theorem State.installPlan_fixed (s : State) (slot : Nat) (img : Image) (outBuf : Nat) (outLen : Nat) :
    (State.installPlan s slot img outBuf outLen).fixed = s.fixed := by
  unfold State.installPlan
  repeat' (first | with_reducible rfl | (simp [*]; done) | split | (refine (foldl_fixed _ _ _ ?_).trans ?_ <;> intros) | (refine (foldl_fixed_fst _ _ _ ?_).trans ?_ <;> intros) | simp [*])

@[simp] theorem State.abortAll_fixed (s : State) (slot : Nat) :
    (State.abortAll s slot).fixed = s.fixed := by
  unfold State.abortAll
  repeat' (first | with_reducible rfl | (simp [*]; done) | split | (refine (foldl_fixed _ _ _ ?_).trans ?_ <;> intros) | (refine (foldl_fixed_fst _ _ _ ?_).trans ?_ <;> intros) | simp [*])

@[simp] theorem State.releasePlan_fixed (s : State) (slot : Nat) :
    (State.releasePlan s slot).fixed = s.fixed := by
  unfold State.releasePlan
  repeat' (first | with_reducible rfl | (simp [*]; done) | split | (refine (foldl_fixed _ _ _ ?_).trans ?_ <;> intros) | (refine (foldl_fixed_fst _ _ _ ?_).trans ?_ <;> intros) | simp [*])

@[simp] theorem State.askRetry_fixed (s : State) (p : Nat) :
    (State.askRetry s p).fixed = s.fixed := by
  unfold State.askRetry
  repeat' (first | with_reducible rfl | (simp [*]; done) | split | (refine (foldl_fixed _ _ _ ?_).trans ?_ <;> intros) | (refine (foldl_fixed_fst _ _ _ ?_).trans ?_ <;> intros) | simp [*])

@[simp] theorem State.retryTake_fixed (s : State) (p : Nat) (rx : RxFrame) :
    (State.retryTake s p rx).1.fixed = s.fixed := by
  unfold State.retryTake
  repeat' (first | with_reducible rfl | (simp [*]; done) | split | (refine (foldl_fixed _ _ _ ?_).trans ?_ <;> intros) | (refine (foldl_fixed_fst _ _ _ ?_).trans ?_ <;> intros) | simp [*])

@[simp] theorem State.widthArrives_fixed (s : State) (p : Nat) (rx : RxFrame) :
    (State.widthArrives s p rx).fixed = s.fixed := by
  unfold State.widthArrives
  repeat' (first | with_reducible rfl | (simp [*]; done) | split | (refine (foldl_fixed _ _ _ ?_).trans ?_ <;> intros) | (refine (foldl_fixed_fst _ _ _ ?_).trans ?_ <;> intros) | simp [*])

@[simp] theorem State.police_fixed (s : State) (p : Nat) (f : Frame) :
    (State.police s p f).1.fixed = s.fixed := by
  unfold State.police
  repeat' (first | with_reducible rfl | (simp [*]; done) | split | (refine (foldl_fixed _ _ _ ?_).trans ?_ <;> intros) | (refine (foldl_fixed_fst _ _ _ ?_).trans ?_ <;> intros) | simp [*])

@[simp] theorem State.dropDamaged_fixed (s : State) (c : FrameCtx) (p : Nat) (check : Nat) :
    (State.dropDamaged s c p check).fixed = s.fixed := by
  unfold State.dropDamaged
  repeat' (first | with_reducible rfl | (simp [*]; done) | split | (refine (foldl_fixed _ _ _ ?_).trans ?_ <;> intros) | (refine (foldl_fixed_fst _ _ _ ?_).trans ?_ <;> intros) | simp [*])

@[simp] theorem State.learnSource_fixed (s : State) (p : Nat) (f : Frame) (ovdu : Bool) :
    (State.learnSource s p f ovdu).fixed = s.fixed := by
  unfold State.learnSource
  repeat' (first | with_reducible rfl | (simp [*]; done) | split | (refine (foldl_fixed _ _ _ ?_).trans ?_ <;> intros) | (refine (foldl_fixed_fst _ _ _ ?_).trans ?_ <;> intros) | simp [*])

@[simp] theorem State.lookupSlot_fixed (s : State) (q : Nat) (f : Frame) :
    (State.lookupSlot s q f).1.fixed = s.fixed := by
  unfold State.lookupSlot
  repeat' (first | with_reducible rfl | (simp [*]; done) | split | (refine (foldl_fixed _ _ _ ?_).trans ?_ <;> intros) | (refine (foldl_fixed_fst _ _ _ ?_).trans ?_ <;> intros) | simp [*])

@[simp] theorem State.lookedUp_fixed (s : State) (c : FrameCtx) (p : Nat) (ovdu : Bool) :
    (State.lookedUp s c p ovdu).fixed = s.fixed := by
  unfold State.lookedUp
  repeat' (first | with_reducible rfl | (simp [*]; done) | split | (refine (foldl_fixed _ _ _ ?_).trans ?_ <;> intros) | (refine (foldl_fixed_fst _ _ _ ?_).trans ?_ <;> intros) | simp [*])

@[simp] theorem State.forwardFrame_fixed (s : State) (c : FrameCtx) (p : Nat) (ovdu : Bool) :
    (State.forwardFrame s c p ovdu).fixed = s.fixed := by
  unfold State.forwardFrame
  repeat' (first | with_reducible rfl | (simp [*]; done) | split | (refine (foldl_fixed _ _ _ ?_).trans ?_ <;> intros) | (refine (foldl_fixed_fst _ _ _ ?_).trans ?_ <;> intros) | simp [*])

/-- Looking a frame up before its end. -/
theorem State.headRoute_fixed {s t : State} {c : FrameCtx} {p : Nat} {rx : RxFrame} {ovdu : Bool} {b : Nat} {w : Waiting}
    (h : s.headRoute c p rx ovdu b = some (t, w)) : t.fixed = s.fixed := by
  unfold State.headRoute at h
  simp only at h
  repeat' split at h
  all_goals first | (cases h; done) | (simp only [Option.some.injEq, Prod.mk.injEq] at h; obtain ⟨rfl, -⟩ := h; simp)

/-- A faulty frame in cut-through. -/
theorem State.cutFaulty_fixed {s t : State} {c : FrameCtx} {p : Nat} {rx : RxFrame} {ovdu : Bool} {b : Nat}
    (h : s.cutFaulty c p rx ovdu b = some t) : t.fixed = s.fixed := by
  unfold State.cutFaulty at h
  simp only at h
  repeat' split at h
  all_goals first | (cases h; done) | (simp only [Option.some.injEq] at h; subst h; simp [State.headRoute_fixed ‹_›])

@[simp] theorem State.cutFaulty_getD_fixed (s d : State) (c : FrameCtx) (p : Nat) (rx : RxFrame) (ovdu : Bool) (b : Nat)
    (h : d.fixed = s.fixed) : ((s.cutFaulty c p rx ovdu b).getD d).fixed = s.fixed := by
  cases k : s.cutFaulty c p rx ovdu b with
  | none => exact h
  | some t => exact State.cutFaulty_fixed k

@[simp] theorem State.takeLink_fixed (s : State) (p : Nat) (rx : RxFrame) :
    (State.takeLink s p rx).fixed = s.fixed := by
  unfold State.takeLink
  repeat' (first | with_reducible rfl | (simp [*]; done) | split | (refine (foldl_fixed _ _ _ ?_).trans ?_ <;> intros) | (refine (foldl_fixed_fst _ _ _ ?_).trans ?_ <;> intros) | simp [*])

@[simp] theorem State.linkSeen_fixed (s : State) (p : Nat) (rx : RxFrame) :
    (State.linkSeen s p rx).fixed = s.fixed := by
  unfold State.linkSeen
  repeat' (first | with_reducible rfl | (simp [*]; done) | split | (refine (foldl_fixed _ _ _ ?_).trans ?_ <;> intros) | (refine (foldl_fixed_fst _ _ _ ?_).trans ?_ <;> intros) | simp [*])

theorem State.endFault_fixed {s t : State} {c : FrameCtx} {p : Nat} {rx : RxFrame} {b : Nat} {a : Option (Nat × Nat)}
    (h : s.endFault c p rx b a = some t) : t.fixed = s.fixed := by
  unfold State.endFault at h
  obtain ⟨u, hu, rfl⟩ := Option.map_eq_some_iff.mp h
  rw [← State.cutFaulty_fixed hu]
  dsimp only
  repeat' split
  all_goals simp

@[simp] theorem State.endFault_getD_fixed (s d : State) (c : FrameCtx) (p : Nat) (rx : RxFrame) (b : Nat) (a : Option (Nat × Nat))
    (h : d.fixed = s.fixed) : ((s.endFault c p rx b a).getD d).fixed = s.fixed := by
  cases k : s.endFault c p rx b a with
  | none => exact h
  | some t => exact State.endFault_fixed k

@[simp] theorem State.checkFrame_fixed (s : State) (p : Port) (rx : RxFrame) :
    (State.checkFrame s p rx).fixed = s.fixed := by
  unfold State.checkFrame
  repeat' (first | with_reducible rfl | (simp [*]; done) | split | (refine (foldl_fixed _ _ _ ?_).trans ?_ <;> intros) | (refine (foldl_fixed_fst _ _ _ ?_).trans ?_ <;> intros) | simp [*])

@[simp] theorem State.discarded_fixed (s : State) (p : Port) (rx : RxFrame) (expected : Bool) :
    (State.discarded s p rx expected).fixed = s.fixed := by
  unfold State.discarded
  split
  · refine (State.cutFaulty_getD_fixed (State.mk ..) s _ _ _ _ _ ?_).trans ?_ <;> rfl
  · rfl

@[simp] theorem State.dropHeld_fixed (s : State) (h : Held) (reason : Nat) (detail : Nat) :
    (State.dropHeld s h reason detail).fixed = s.fixed := by
  unfold State.dropHeld
  repeat' (first | with_reducible rfl | (simp [*]; done) | split | (refine (foldl_fixed _ _ _ ?_).trans ?_ <;> intros) | (refine (foldl_fixed_fst _ _ _ ?_).trans ?_ <;> intros) | simp [*])

@[simp] theorem State.resumeLookup_fixed (s : State) (c : FrameCtx) (e : Option Entry) :
    (State.resumeLookup s c e).fixed = s.fixed := by
  unfold State.resumeLookup
  repeat' (first | with_reducible rfl | (simp [*]; done) | split | (refine (foldl_fixed _ _ _ ?_).trans ?_ <;> intros) | (refine (foldl_fixed_fst _ _ _ ?_).trans ?_ <;> intros) | simp [*])

@[simp] theorem State.applyMove_fixed (s : State) (h : Nat) (r : LearnReq) (b : Nat) (w : Nat) (e : Entry) :
    (State.applyMove s h r b w e).fixed = s.fixed := by
  unfold State.applyMove
  repeat' (first | with_reducible rfl | (simp [*]; done) | split | (refine (foldl_fixed _ _ _ ?_).trans ?_ <;> intros) | (refine (foldl_fixed_fst _ _ _ ?_).trans ?_ <;> intros) | simp [*])

@[simp] theorem State.applyLearn_fixed (s : State) (h : Nat) (r : LearnReq) :
    (State.applyLearn s h r).fixed = s.fixed := by
  unfold State.applyLearn
  repeat' (first | with_reducible rfl | (simp [*]; done) | split | (refine (foldl_fixed _ _ _ ?_).trans ?_ <;> intros) | (refine (foldl_fixed_fst _ _ _ ?_).trans ?_ <;> intros) | simp [*])

@[simp] theorem State.takeLearn_fixed (s : State) (h : Nat) (r : LearnReq) :
    (State.takeLearn s h r).fixed = s.fixed := by
  unfold State.takeLearn
  repeat' (first | with_reducible rfl | (simp [*]; done) | split | (refine (foldl_fixed _ _ _ ?_).trans ?_ <;> intros) | (refine (foldl_fixed_fst _ _ _ ?_).trans ?_ <;> intros) | simp [*])

@[simp] theorem State.rearmCopies_fixed (s : State) (h : Nat) (key : W64) :
    (State.rearmCopies s h key).fixed = s.fixed := by
  unfold State.rearmCopies
  repeat' (first | with_reducible rfl | (simp [*]; done) | split | (refine (foldl_fixed _ _ _ ?_).trans ?_ <;> intros) | (refine (foldl_fixed_fst _ _ _ ?_).trans ?_ <;> intros) | simp [*])

@[simp] theorem State.sweepWay_fixed (h : Nat) (b : Nat) (s : State) (w : Nat) :
    (State.sweepWay h b s w).fixed = s.fixed := by
  unfold State.sweepWay
  repeat' (first | with_reducible rfl | (simp [*]; done) | split | (refine (foldl_fixed _ _ _ ?_).trans ?_ <;> intros) | (refine (foldl_fixed_fst _ _ _ ?_).trans ?_ <;> intros) | simp [*])

@[simp] theorem State.unplaced_fixed (s : State) (h : Nat) (e : Entry) :
    (State.unplaced s h e).fixed = s.fixed := by
  unfold State.unplaced
  repeat' (first | with_reducible rfl | (simp [*]; done) | split | (refine (foldl_fixed _ _ _ ?_).trans ?_ <;> intros) | (refine (foldl_fixed_fst _ _ _ ?_).trans ?_ <;> intros) | simp [*])

@[simp] theorem State.rehashWay_fixed (h : Nat) (b : Nat) (s : State) (w : Nat) :
    (State.rehashWay h b s w).fixed = s.fixed := by
  unfold State.rehashWay
  repeat' (first | with_reducible rfl | (simp [*]; done) | split | (refine (foldl_fixed _ _ _ ?_).trans ?_ <;> intros) | (refine (foldl_fixed_fst _ _ _ ?_).trans ?_ <;> intros) | simp [*])

@[simp] theorem State.dropHeldFor_fixed (s : State) (eid : Nat) :
    (State.dropHeldFor s eid).fixed = s.fixed := by
  unfold State.dropHeldFor
  repeat' (first | with_reducible rfl | (simp [*]; done) | split | (refine (foldl_fixed _ _ _ ?_).trans ?_ <;> intros) | (refine (foldl_fixed_fst _ _ _ ?_).trans ?_ <;> intros) | simp [*])

@[simp] theorem State.applyRecord_fixed (s : State) (h : Nat) (e : Entry) (cmd : CmdRef) :
    (State.applyRecord s h e cmd).1.fixed = s.fixed := by
  unfold State.applyRecord
  repeat' (first | with_reducible rfl | (simp [*]; done) | split | (refine (foldl_fixed _ _ _ ?_).trans ?_ <;> intros) | (refine (foldl_fixed_fst _ _ _ ?_).trans ?_ <;> intros) | simp [*])

@[simp] theorem State.loadDone_fixed (s : State) (cmd : CmdRef) (lres : Nat) :
    (State.loadDone s cmd lres).fixed = s.fixed := by
  unfold State.loadDone
  repeat' (first | with_reducible rfl | (simp [*]; done) | split | (refine (foldl_fixed _ _ _ ?_).trans ?_ <;> intros) | (refine (foldl_fixed_fst _ _ _ ?_).trans ?_ <;> intros) | simp [*])

@[simp] theorem State.writeLres_fixed (s : State) (r : HostRec) (lres : Nat) :
    (State.writeLres s r lres).fixed = s.fixed := by
  unfold State.writeLres
  repeat' (first | with_reducible rfl | (simp [*]; done) | split | (refine (foldl_fixed _ _ _ ?_).trans ?_ <;> intros) | (refine (foldl_fixed_fst _ _ _ ?_).trans ?_ <;> intros) | simp [*])

@[simp] theorem State.takeRecord_fixed (s : State) (h : Nat) (r : HostRec) :
    (State.takeRecord s h r).fixed = s.fixed := by
  unfold State.takeRecord
  repeat' (first | with_reducible rfl | (simp [*]; done) | split | (refine (foldl_fixed _ _ _ ?_).trans ?_ <;> intros) | (refine (foldl_fixed_fst _ _ _ ?_).trans ?_ <;> intros) | simp [*])

@[simp] theorem State.giveUpRecords_fixed (s : State) (mine : HostRec → Bool) :
    (State.giveUpRecords s mine).fixed = s.fixed := by
  unfold State.giveUpRecords
  repeat' (first | with_reducible rfl | (simp [*]; done) | split | (refine (foldl_fixed _ _ _ ?_).trans ?_ <;> intros) | (refine (foldl_fixed_fst _ _ _ ?_).trans ?_ <;> intros) | simp [*])

@[simp] theorem State.dumpHome_fixed (s : State) (h : Nat) :
    (State.dumpHome s h).1.fixed = s.fixed := by
  unfold State.dumpHome
  repeat' (first | with_reducible rfl | (simp [*]; done) | split | (refine (foldl_fixed _ _ _ ?_).trans ?_ <;> intros) | (refine (foldl_fixed_fst _ _ _ ?_).trans ?_ <;> intros) | simp [*])

@[simp] theorem State.settleKey_fixed (s : State) (h : Nat) (key : W64) :
    (State.settleKey s h key).fixed = s.fixed := by
  unfold State.settleKey
  repeat' (first | with_reducible rfl | (simp [*]; done) | split | (refine (foldl_fixed _ _ _ ?_).trans ?_ <;> intros) | (refine (foldl_fixed_fst _ _ _ ?_).trans ?_ <;> intros) | simp [*])

@[simp] theorem State.unfence_fixed (s : State) (u : FenceUndo) :
    (State.unfence s u).fixed = s.fixed := by
  unfold State.unfence
  repeat' (first | with_reducible rfl | (simp [*]; done) | split | (refine (foldl_fixed _ _ _ ?_).trans ?_ <;> intros) | (refine (foldl_fixed_fst _ _ _ ?_).trans ?_ <;> intros) | simp [*])

@[simp] theorem State.sheafNamed_fixed (s : State) (k : Nat) :
    (State.sheafNamed s k).1.fixed = s.fixed := by
  unfold State.sheafNamed
  repeat' (first | with_reducible rfl | (simp [*]; done) | split | (refine (foldl_fixed _ _ _ ?_).trans ?_ <;> intros) | (refine (foldl_fixed_fst _ _ _ ?_).trans ?_ <;> intros) | simp [*])

@[simp] theorem State.trainEval_fixed (s : State) (p : Nat) :
    (State.trainEval s p).fixed = s.fixed := by
  unfold State.trainEval
  repeat' (first | with_reducible rfl | (simp [*]; done) | split | (refine (foldl_fixed _ _ _ ?_).trans ?_ <;> intros) | (refine (foldl_fixed_fst _ _ _ ?_).trans ?_ <;> intros) | simp [*])

@[simp] theorem State.lightEval_fixed (s : State) (p : Nat) :
    (State.lightEval s p).fixed = s.fixed := by
  unfold State.lightEval
  repeat' (first | with_reducible rfl | (simp [*]; done) | split | (refine (foldl_fixed _ _ _ ?_).trans ?_ <;> intros) | (refine (foldl_fixed_fst _ _ _ ?_).trans ?_ <;> intros) | simp [*])

@[simp] theorem State.goDown_fixed (s : State) (p : Nat) (flush : Bool) :
    (State.goDown s p flush).fixed = s.fixed := by
  unfold State.goDown
  repeat' (first | with_reducible rfl | (simp [*]; done) | split | (refine (foldl_fixed _ _ _ ?_).trans ?_ <;> intros) | (refine (foldl_fixed_fst _ _ _ ?_).trans ?_ <;> intros) | simp [*])

@[simp] theorem State.damp_fixed (s : State) (p : Nat) :
    (State.damp s p).fixed = s.fixed := by
  unfold State.damp
  repeat' (first | with_reducible rfl | (simp [*]; done) | split | (refine (foldl_fixed _ _ _ ?_).trans ?_ <;> intros) | (refine (foldl_fixed_fst _ _ _ ?_).trans ?_ <;> intros) | simp [*])

@[simp] theorem State.missLaunches_fixed (s : State) (p : Nat) (cause : Nat) :
    (State.missLaunches s p cause).fixed = s.fixed := by
  unfold State.missLaunches
  repeat' (first | with_reducible rfl | (simp [*]; done) | split | (refine (foldl_fixed _ _ _ ?_).trans ?_ <;> intros) | (refine (foldl_fixed_fst _ _ _ ?_).trans ?_ <;> intros) | simp [*])

@[simp] theorem State.dropLane_fixed (s : State) (p : Nat) (lane : Nat) :
    (State.dropLane s p lane).fixed = s.fixed := by
  unfold State.dropLane
  repeat' (first | with_reducible rfl | (simp [*]; done) | split | (refine (foldl_fixed _ _ _ ?_).trans ?_ <;> intros) | (refine (foldl_fixed_fst _ _ _ ?_).trans ?_ <;> intros) | simp [*])

@[simp] theorem State.flapPort_fixed (s : State) (p : Nat) :
    (State.flapPort s p).fixed = s.fixed := by
  unfold State.flapPort
  repeat' (first | with_reducible rfl | (simp [*]; done) | split | (refine (foldl_fixed _ _ _ ?_).trans ?_ <;> intros) | (refine (foldl_fixed_fst _ _ _ ?_).trans ?_ <;> intros) | simp [*])

@[simp] theorem State.pitchEvent_fixed (s : State) (k : Nat) (id : Nat) (cause : Nat) (n : Nat) :
    (State.pitchEvent s k id cause n).fixed = s.fixed := by
  unfold State.pitchEvent
  repeat' (first | with_reducible rfl | (simp [*]; done) | split | (refine (foldl_fixed _ _ _ ?_).trans ?_ <;> intros) | (refine (foldl_fixed_fst _ _ _ ?_).trans ?_ <;> intros) | simp [*])

@[simp] theorem State.freePitch_fixed (s : State) (k : Nat) (cause : Nat) :
    (State.freePitch s k cause).fixed = s.fixed := by
  unfold State.freePitch
  repeat' (first | with_reducible rfl | (simp [*]; done) | split | (refine (foldl_fixed _ _ _ ?_).trans ?_ <;> intros) | (refine (foldl_fixed_fst _ _ _ ?_).trans ?_ <;> intros) | simp [*])

@[simp] theorem State.pitchNack_fixed (s : State) (c : FrameCtx) (q : Nat) (idx : Nat) (reason : Nat) (detail : Nat) :
    (State.pitchNack s c q idx reason detail).fixed = s.fixed := by
  unfold State.pitchNack
  repeat' (first | with_reducible rfl | (simp [*]; done) | split | (refine (foldl_fixed _ _ _ ?_).trans ?_ <;> intros) | (refine (foldl_fixed_fst _ _ _ ?_).trans ?_ <;> intros) | simp [*])

@[simp] theorem State.atPitch_fixed (s : State) (q : Nat) (op : Nat) (k : State → FrameCtx → Nat → Nat → State) (hk : ∀ s x1 x2 x3, (k s x1 x2 x3).fixed = s.fixed) :
    (State.atPitch s q op k).fixed = s.fixed := by
  unfold State.atPitch
  repeat' (first | with_reducible rfl | (simp [*]; done) | split | (refine (foldl_fixed _ _ _ ?_).trans ?_ <;> intros) | (refine (foldl_fixed_fst _ _ _ ?_).trans ?_ <;> intros) | simp [*])

@[simp] theorem State.pitchCopies_fixed (s : State) (q : Nat) (x : PitchImg) (ch : Nat) (payload : List Byte) :
    (State.pitchCopies s q x ch payload).1.fixed = s.fixed := by
  unfold State.pitchCopies
  repeat' (first | with_reducible rfl | (simp [*]; done) | split | (refine (foldl_fixed _ _ _ ?_).trans ?_ <;> intros) | (refine (foldl_fixed_fst _ _ _ ?_).trans ?_ <;> intros) | simp [*])

@[simp] theorem State.ringEvent_fixed (s : State) (r : RingId) (f : MicroRing → MicroRing) :
    (State.ringEvent s r f).fixed = s.fixed := by
  unfold State.ringEvent
  repeat' (first | with_reducible rfl | (simp [*]; done) | split | (refine (foldl_fixed _ _ _ ?_).trans ?_ <;> intros) | (refine (foldl_fixed_fst _ _ _ ?_).trans ?_ <;> intros) | simp [*])

@[simp] theorem State.retireRing_fixed (s : State) (r : RingId) :
    (State.retireRing s r).fixed = s.fixed := by
  unfold State.retireRing
  repeat' (first | with_reducible rfl | (simp [*]; done) | split | (refine (foldl_fixed _ _ _ ?_).trans ?_ <;> intros) | (refine (foldl_fixed_fst _ _ _ ?_).trans ?_ <;> intros) | simp [*])

@[simp] theorem State.lockSeen_fixed (s : State) (r : RingId) (level : Int) :
    (State.lockSeen s r level).fixed = s.fixed := by
  unfold State.lockSeen
  repeat' (first | with_reducible rfl | (simp [*]; done) | split | (refine (foldl_fixed _ _ _ ?_).trans ?_ <;> intros) | (refine (foldl_fixed_fst _ _ _ ?_).trans ?_ <;> intros) | simp [*])

@[simp] theorem State.laserEvent_fixed (s : State) (o : Nat) (n : Nat) (channel : BitVec 4) (kind : Nat) :
    (State.laserEvent s o n channel kind).fixed = s.fixed := by
  unfold State.laserEvent
  repeat' (first | with_reducible rfl | (simp [*]; done) | split | (refine (foldl_fixed _ _ _ ?_).trans ?_ <;> intros) | (refine (foldl_fixed_fst _ _ _ ?_).trans ?_ <;> intros) | simp [*])

@[simp] theorem State.keepLaser_fixed (s : State) (o : Nat) (n : Nat) :
    (State.keepLaser s o n).fixed = s.fixed := by
  unfold State.keepLaser
  repeat' (first | with_reducible rfl | (simp [*]; done) | split | (refine (foldl_fixed _ _ _ ?_).trans ?_ <;> intros) | (refine (foldl_fixed_fst _ _ _ ?_).trans ?_ <;> intros) | simp [*])

@[simp] theorem State.handTo_fixed (s : State) (o : Nat) (n : Nat) (spare : Nat) (tries : Nat) :
    (State.handTo s o n spare tries).fixed = s.fixed := by
  unfold State.handTo
  repeat' (first | with_reducible rfl | (simp [*]; done) | split | (refine (foldl_fixed _ _ _ ?_).trans ?_ <;> intros) | (refine (foldl_fixed_fst _ _ _ ?_).trans ?_ <;> intros) | simp [*])

@[simp] theorem State.nextHandover_fixed (s : State) (o : Nat) :
    (State.nextHandover s o).fixed = s.fixed := by
  unfold State.nextHandover
  repeat' (first | with_reducible rfl | (simp [*]; done) | split | (refine (foldl_fixed _ _ _ ?_).trans ?_ <;> intros) | (refine (foldl_fixed_fst _ _ _ ?_).trans ?_ <;> intros) | simp [*])

@[simp] theorem State.retireChannel_fixed (s : State) (o : Nat) (n : Nat) (widths : Bool) :
    (State.retireChannel s o n widths).fixed = s.fixed := by
  unfold State.retireChannel
  repeat' (first | with_reducible rfl | (simp [*]; done) | split | (refine (foldl_fixed _ _ _ ?_).trans ?_ <;> intros) | (refine (foldl_fixed_fst _ _ _ ?_).trans ?_ <;> intros) | simp [*])

@[simp] theorem State.measure_fixed (s : State) (o : Nat) (n : Nat) (level : Int) :
    (State.measure s o n level).fixed = s.fixed := by
  unfold State.measure
  repeat' (first | with_reducible rfl | (simp [*]; done) | split | (refine (foldl_fixed _ _ _ ?_).trans ?_ <;> intros) | (refine (foldl_fixed_fst _ _ _ ?_).trans ?_ <;> intros) | simp [*])

@[simp] theorem State.limitCheck_fixed (s : State) (o : Nat) (n : Nat) :
    (State.limitCheck s o n).fixed = s.fixed := by
  unfold State.limitCheck
  repeat' (first | with_reducible rfl | (simp [*]; done) | split | (refine (foldl_fixed _ _ _ ?_).trans ?_ <;> intros) | (refine (foldl_fixed_fst _ _ _ ?_).trans ?_ <;> intros) | simp [*])

@[simp] theorem State.recalDue_fixed (s : State) (o : Nat) (m : Nat) (causes : BitVec 3) :
    (State.recalDue s o m causes).fixed = s.fixed := by
  unfold State.recalDue
  repeat' (first | with_reducible rfl | (simp [*]; done) | split | (refine (foldl_fixed _ _ _ ?_).trans ?_ <;> intros) | (refine (foldl_fixed_fst _ _ _ ?_).trans ?_ <;> intros) | simp [*])

@[simp] theorem State.handFails_fixed (s : State) (o : Nat) (h : Handover) :
    (State.handFails s o h).fixed = s.fixed := by
  unfold State.handFails
  repeat' (first | with_reducible rfl | (simp [*]; done) | split | (refine (foldl_fixed _ _ _ ?_).trans ?_ <;> intros) | (refine (foldl_fixed_fst _ _ _ ?_).trans ?_ <;> intros) | simp [*])

@[simp] theorem State.lasersOff_fixed (s : State) (o : Nat) :
    (State.lasersOff s o).fixed = s.fixed := by
  unfold State.lasersOff
  repeat' (first | with_reducible rfl | (simp [*]; done) | split | (refine (foldl_fixed _ _ _ ?_).trans ?_ <;> intros) | (refine (foldl_fixed_fst _ _ _ ?_).trans ?_ <;> intros) | simp [*])

@[simp] theorem State.lasersOn_fixed (s : State) (o : Nat) :
    (State.lasersOn s o).fixed = s.fixed := by
  unfold State.lasersOn
  repeat' (first | with_reducible rfl | (simp [*]; done) | split | (refine (foldl_fixed _ _ _ ?_).trans ?_ <;> intros) | (refine (foldl_fixed_fst _ _ _ ?_).trans ?_ <;> intros) | simp [*])

@[simp] theorem State.enginePorts_fixed (s : State) (o : Nat) :
    (State.enginePorts s o).fixed = s.fixed := by
  unfold State.enginePorts
  repeat' (first | with_reducible rfl | (simp [*]; done) | split | (refine (foldl_fixed _ _ _ ?_).trans ?_ <;> intros) | (refine (foldl_fixed_fst _ _ _ ?_).trans ?_ <;> intros) | simp [*])

@[simp] theorem State.groupPorts_fixed (s : State) (g : Nat) :
    (State.groupPorts s g).fixed = s.fixed := by
  unfold State.groupPorts
  repeat' (first | with_reducible rfl | (simp [*]; done) | split | (refine (foldl_fixed _ _ _ ?_).trans ?_ <;> intros) | (refine (foldl_fixed_fst _ _ _ ?_).trans ?_ <;> intros) | simp [*])

@[simp] theorem State.ringsDark_fixed (s : State) (g : Nat) :
    (State.ringsDark s g).fixed = s.fixed := by
  unfold State.ringsDark
  repeat' (first | with_reducible rfl | (simp [*]; done) | split | (refine (foldl_fixed _ _ _ ?_).trans ?_ <;> intros) | (refine (foldl_fixed_fst _ _ _ ?_).trans ?_ <;> intros) | simp [*])

@[simp] theorem State.meshTo_fixed (s : State) (g : Nat) (map : BitVec 24) (ref : Option CmdRef) :
    (State.meshTo s g map ref).fixed = s.fixed := by
  unfold State.meshTo
  repeat' (first | with_reducible rfl | (simp [*]; done) | split | (refine (foldl_fixed _ _ _ ?_).trans ?_ <;> intros) | (refine (foldl_fixed_fst _ _ _ ?_).trans ?_ <;> intros) | simp [*])

@[simp] theorem State.updPair_fixed (s : State) (x : Nat) (y : Nat) (b : Nat) (f : BundleSt → BundleSt) :
    (State.updPair s x y b f).fixed = s.fixed := by
  unfold State.updPair
  repeat' (first | with_reducible rfl | (simp [*]; done) | split | (refine (foldl_fixed _ _ _ ?_).trans ?_ <;> intros) | (refine (foldl_fixed_fst _ _ _ ?_).trans ?_ <;> intros) | simp [*])

@[simp] theorem State.quiesceTo_fixed (s : State) (d : List Byte) (ref : CmdRef) (q : Bool) :
    (State.quiesceTo s d ref q).fixed = s.fixed := by
  unfold State.quiesceTo
  repeat' (first | with_reducible rfl | (simp [*]; done) | split | (refine (foldl_fixed _ _ _ ?_).trans ?_ <;> intros) | (refine (foldl_fixed_fst _ _ _ ?_).trans ?_ <;> intros) | simp [*])

@[simp] theorem State.clearRegs_fixed (s : State) (r : Reach) :
    (State.clearRegs s r).fixed = s.fixed := by
  unfold State.clearRegs
  repeat' (first | with_reducible rfl | (simp [*]; done) | split | (refine (foldl_fixed _ _ _ ?_).trans ?_ <;> intros) | (refine (foldl_fixed_fst _ _ _ ?_).trans ?_ <;> intros) | simp [*])

@[simp] theorem State.dropStaged_fixed (s : State) (p : Nat → Bool) :
    (State.dropStaged s p).fixed = s.fixed := by
  unfold State.dropStaged
  repeat' (first | with_reducible rfl | (simp [*]; done) | split | (refine (foldl_fixed _ _ _ ?_).trans ?_ <;> intros) | (refine (foldl_fixed_fst _ _ _ ?_).trans ?_ <;> intros) | simp [*])

@[simp] theorem State.clearQuads_fixed (s : State) :
    (State.clearQuads s).fixed = s.fixed := by
  unfold State.clearQuads
  repeat' (first | with_reducible rfl | (simp [*]; done) | split | (refine (foldl_fixed _ _ _ ?_).trans ?_ <;> intros) | (refine (foldl_fixed_fst _ _ _ ?_).trans ?_ <;> intros) | simp [*])

@[simp] theorem State.clearCore_fixed (s : State) :
    (State.clearCore s).fixed = s.fixed := by
  unfold State.clearCore
  repeat' (first | with_reducible rfl | (simp [*]; done) | split | (refine (foldl_fixed _ _ _ ?_).trans ?_ <;> intros) | (refine (foldl_fixed_fst _ _ _ ?_).trans ?_ <;> intros) | simp [*])

@[simp] theorem State.startRelease_fixed (s : State) :
    (State.startRelease s).fixed = s.fixed := by
  unfold State.startRelease
  repeat' (first | with_reducible rfl | (simp [*]; done) | split | (refine (foldl_fixed _ _ _ ?_).trans ?_ <;> intros) | (refine (foldl_fixed_fst _ _ _ ?_).trans ?_ <;> intros) | simp [*])

@[simp] theorem State.sourceEnds_fixed (s : State) (k : RstSource) :
    (State.sourceEnds s k).fixed = s.fixed := by
  unfold State.sourceEnds
  repeat' (first | with_reducible rfl | (simp [*]; done) | split | (refine (foldl_fixed _ _ _ ?_).trans ?_ <;> intros) | (refine (foldl_fixed_fst _ _ _ ?_).trans ?_ <;> intros) | simp [*])

@[simp] theorem State.setBank_fixed (s : State) (b : BitVec 1) (x : FwBank) :
    (State.setBank s b x).fixed = s.fixed := by
  unfold State.setBank
  repeat' (first | with_reducible rfl | (simp [*]; done) | split | (refine (foldl_fixed _ _ _ ?_).trans ?_ <;> intros) | (refine (foldl_fixed_fst _ _ _ ?_).trans ?_ <;> intros) | simp [*])

@[simp] theorem State.bootRom_fixed (s : State) :
    (State.bootRom s).1.fixed = s.fixed := by
  unfold State.bootRom
  repeat' (first | with_reducible rfl | (simp [*]; done) | split | (refine (foldl_fixed _ _ _ ?_).trans ?_ <;> intros) | (refine (foldl_fixed_fst _ _ _ ?_).trans ?_ <;> intros) | simp [*])

@[simp] theorem State.firmwareEvent_fixed (s : State) (fallback : Bool) (ended : Nat) :
    (State.firmwareEvent s fallback ended).fixed = s.fixed := by
  unfold State.firmwareEvent
  repeat' (first | with_reducible rfl | (simp [*]; done) | split | (refine (foldl_fixed _ _ _ ?_).trans ?_ <;> intros) | (refine (foldl_fixed_fst _ _ _ ?_).trans ?_ <;> intros) | simp [*])

@[simp] theorem State.meshesNormal_fixed (s : State) :
    (State.meshesNormal s).fixed = s.fixed := by
  unfold State.meshesNormal
  repeat' (first | with_reducible rfl | (simp [*]; done) | split | (refine (foldl_fixed _ _ _ ?_).trans ?_ <;> intros) | (refine (foldl_fixed_fst _ _ _ ?_).trans ?_ <;> intros) | simp [*])

@[simp] theorem State.startWindows_fixed (s : State) :
    (State.startWindows s).fixed = s.fixed := by
  unfold State.startWindows
  repeat' (first | with_reducible rfl | (simp [*]; done) | split | (refine (foldl_fixed _ _ _ ?_).trans ?_ <;> intros) | (refine (foldl_fixed_fst _ _ _ ?_).trans ?_ <;> intros) | simp [*])

@[simp] theorem State.startAll_fixed (s : State) (obs : List (BitVec 10 × StartTest)) :
    (State.startAll s obs).fixed = s.fixed := by
  unfold State.startAll
  repeat' (first | with_reducible rfl | (simp [*]; done) | split | (refine (foldl_fixed _ _ _ ?_).trans ?_ <;> intros) | (refine (foldl_fixed_fst _ _ _ ?_).trans ?_ <;> intros) | simp [*])

@[simp] theorem State.mendNv_fixed (s : State) (o : Nat) (bad1 bad2 : Bool) :
    (State.mendNv s o bad1 bad2).fixed = s.fixed := by
  unfold State.mendNv
  repeat' (first | with_reducible rfl | (simp [*]; done) | split | (refine (foldl_fixed _ _ _ ?_).trans ?_ <;> intros) | (refine (foldl_fixed_fst _ _ _ ?_).trans ?_ <;> intros) | simp [*])

@[simp] theorem State.applyNv_fixed (s : State) (o : Nat) (bad1 bad2 : Bool) :
    (State.applyNv s o bad1 bad2).fixed = s.fixed := by
  unfold State.applyNv
  repeat' (first | with_reducible rfl | (simp [*]; done) | split | (refine (foldl_fixed _ _ _ ?_).trans ?_ <;> intros) | (refine (foldl_fixed_fst _ _ _ ?_).trans ?_ <;> intros) | simp [*])

@[simp] theorem State.applyRecordNv_fixed (s : State) (bad1 bad2 : BitVec 16) :
    (State.applyRecordNv s bad1 bad2).fixed = s.fixed := by
  unfold State.applyRecordNv
  repeat' (first | with_reducible rfl | (simp [*]; done) | split | (refine (foldl_fixed _ _ _ ?_).trans ?_ <;> intros) | (refine (foldl_fixed_fst _ _ _ ?_).trans ?_ <;> intros) | simp [*])

@[simp] theorem State.lightEngines_fixed (s : State) :
    (State.lightEngines s).fixed = s.fixed := by
  unfold State.lightEngines
  repeat' (first | with_reducible rfl | (simp [*]; done) | split | (refine (foldl_fixed _ _ _ ?_).trans ?_ <;> intros) | (refine (foldl_fixed_fst _ _ _ ?_).trans ?_ <;> intros) | simp [*])

@[simp] theorem State.releaseRecords_fixed (s : State) :
    (State.releaseRecords s).fixed = s.fixed := by
  unfold State.releaseRecords
  repeat' (first | with_reducible rfl | (simp [*]; done) | split | (refine (foldl_fixed _ _ _ ?_).trans ?_ <;> intros) | (refine (foldl_fixed_fst _ _ _ ?_).trans ?_ <;> intros) | simp [*])

@[simp] theorem State.endInterrupted_fixed (s : State) :
    (State.endInterrupted s).fixed = s.fixed := by
  unfold State.endInterrupted
  repeat' (first | with_reducible rfl | (simp [*]; done) | split | (refine (foldl_fixed _ _ _ ?_).trans ?_ <;> intros) | (refine (foldl_fixed_fst _ _ _ ?_).trans ?_ <;> intros) | simp [*])

@[simp] theorem State.tellPitch_fixed (s : State) :
    (State.tellPitch s).fixed = s.fixed := by
  unfold State.tellPitch
  repeat' (first | with_reducible rfl | (simp [*]; done) | split | (refine (foldl_fixed _ _ _ ?_).trans ?_ <;> intros) | (refine (foldl_fixed_fst _ _ _ ?_).trans ?_ <;> intros) | simp [*])

@[simp] theorem State.toStep_fixed (s : State) (n : Nat) :
    (State.toStep s n).fixed = s.fixed := by
  unfold State.toStep
  repeat' (first | with_reducible rfl | (simp [*]; done) | split | (refine (foldl_fixed _ _ _ ?_).trans ?_ <;> intros) | (refine (foldl_fixed_fst _ _ _ ?_).trans ?_ <;> intros) | simp [*])

@[simp] theorem State.drawNonce_fixed (s : State) :
    (State.drawNonce s).fixed = s.fixed := by
  unfold State.drawNonce
  repeat' (first | with_reducible rfl | (simp [*]; done) | split | (refine (foldl_fixed _ _ _ ?_).trans ?_ <;> intros) | (refine (foldl_fixed_fst _ _ _ ?_).trans ?_ <;> intros) | simp [*])

@[simp] theorem State.bootStep_fixed (s : State) :
    (State.bootStep s).fixed = s.fixed := by
  unfold State.bootStep
  repeat' (first | with_reducible rfl | (simp [*]; done) | split | (refine (foldl_fixed _ _ _ ?_).trans ?_ <;> intros) | (refine (foldl_fixed_fst _ _ _ ?_).trans ?_ <;> intros) | simp [*])

@[simp] theorem State.dropRegs_fixed (s : State) (p : Reg → List Nat → Bool) :
    (State.dropRegs s p).fixed = s.fixed := by
  unfold State.dropRegs
  repeat' (first | with_reducible rfl | (simp [*]; done) | split | (refine (foldl_fixed _ _ _ ?_).trans ?_ <;> intros) | (refine (foldl_fixed_fst _ _ _ ?_).trans ?_ <;> intros) | simp [*])

@[simp] theorem State.departElsewhere_fixed (s : State) (q : Nat) (t : Target) (f : Frame) :
    (State.departElsewhere s q t f).fixed = s.fixed := by
  unfold State.departElsewhere
  repeat' (first | with_reducible rfl | (simp [*]; done) | split | (refine (foldl_fixed _ _ _ ?_).trans ?_ <;> intros) | (refine (foldl_fixed_fst _ _ _ ?_).trans ?_ <;> intros) | simp [*])

@[simp] theorem State.loseTransit_fixed (s : State) (q : Nat) :
    (State.loseTransit s q).fixed = s.fixed := by
  unfold State.loseTransit
  repeat' (first | with_reducible rfl | (simp [*]; done) | split | (refine (foldl_fixed _ _ _ ?_).trans ?_ <;> intros) | (refine (foldl_fixed_fst _ _ _ ?_).trans ?_ <;> intros) | simp [*])

@[simp] theorem State.dropFloorFrames_fixed (s : State) (q : Nat) :
    (State.dropFloorFrames s q).fixed = s.fixed := by
  unfold State.dropFloorFrames
  repeat' (first | with_reducible rfl | (simp [*]; done) | split | (refine (foldl_fixed _ _ _ ?_).trans ?_ <;> intros) | (refine (foldl_fixed_fst _ _ _ ?_).trans ?_ <;> intros) | simp [*])

@[simp] theorem State.wipeQuad_fixed (s : State) (q : Nat) :
    (State.wipeQuad s q).fixed = s.fixed := by
  unfold State.wipeQuad
  repeat' (first | with_reducible rfl | (simp [*]; done) | split | (refine (foldl_fixed _ _ _ ?_).trans ?_ <;> intros) | (refine (foldl_fixed_fst _ _ _ ?_).trans ?_ <;> intros) | simp [*])

@[simp] theorem State.holdBundles_fixed (s : State) (q : Nat) :
    (State.holdBundles s q).fixed = s.fixed := by
  unfold State.holdBundles
  repeat' (first | with_reducible rfl | (simp [*]; done) | split | (refine (foldl_fixed _ _ _ ?_).trans ?_ <;> intros) | (refine (foldl_fixed_fst _ _ _ ?_).trans ?_ <;> intros) | simp [*])

@[simp] theorem State.missLookups_fixed (s : State) (q : Nat) :
    (State.missLookups s q).fixed = s.fixed := by
  unfold State.missLookups
  repeat' (first | with_reducible rfl | (simp [*]; done) | split | (refine (foldl_fixed _ _ _ ?_).trans ?_ <;> intros) | (refine (foldl_fixed_fst _ _ _ ?_).trans ?_ <;> intros) | simp [*])

@[simp] theorem State.dropRecords_fixed (s : State) (q : Nat) :
    (State.dropRecords s q).fixed = s.fixed := by
  unfold State.dropRecords
  repeat' (first | with_reducible rfl | (simp [*]; done) | split | (refine (foldl_fixed _ _ _ ?_).trans ?_ <;> intros) | (refine (foldl_fixed_fst _ _ _ ?_).trans ?_ <;> intros) | simp [*])

@[simp] theorem State.resetQuad_fixed (s : State) (q : Nat) :
    (State.resetQuad s q).fixed = s.fixed := by
  unfold State.resetQuad
  repeat' (first | with_reducible rfl | (simp [*]; done) | split | (refine (foldl_fixed _ _ _ ?_).trans ?_ <;> intros) | (refine (foldl_fixed_fst _ _ _ ?_).trans ?_ <;> intros) | simp [*])

@[simp] theorem State.resetPort_fixed (s : State) (p : Nat) :
    (State.resetPort s p).fixed = s.fixed := by
  unfold State.resetPort
  repeat' (first | with_reducible rfl | (simp [*]; done) | split | (refine (foldl_fixed _ _ _ ?_).trans ?_ <;> intros) | (refine (foldl_fixed_fst _ _ _ ?_).trans ?_ <;> intros) | simp [*])

@[simp] theorem State.blockClear_fixed (s : State) (ty : Nat) (ix : Nat) :
    (State.blockClear s ty ix).fixed = s.fixed := by
  unfold State.blockClear
  repeat' (first | with_reducible rfl | (simp [*]; done) | split | (refine (foldl_fixed _ _ _ ?_).trans ?_ <;> intros) | (refine (foldl_fixed_fst _ _ _ ?_).trans ?_ <;> intros) | simp [*])

@[simp] theorem State.freeQuad_fixed (s : State) (q : Nat) (obs : List (BitVec 10 × StartTest)) :
    (State.freeQuad s q obs).fixed = s.fixed := by
  unfold State.freeQuad
  repeat' (first | with_reducible rfl | (simp [*]; done) | split | (refine (foldl_fixed _ _ _ ?_).trans ?_ <;> intros) | (refine (foldl_fixed_fst _ _ _ ?_).trans ?_ <;> intros) | simp [*])

@[simp] theorem State.blockFree_fixed (s : State) (ty : Nat) (ix : Nat) (obs : List (BitVec 10 × StartTest)) :
    (State.blockFree s ty ix obs).fixed = s.fixed := by
  unfold State.blockFree
  repeat' (first | with_reducible rfl | (simp [*]; done) | split | (refine (foldl_fixed _ _ _ ?_).trans ?_ <;> intros) | (refine (foldl_fixed_fst _ _ _ ?_).trans ?_ <;> intros) | simp [*])

@[simp] theorem State.resetHif_fixed (s : State) :
    (State.resetHif s).fixed = s.fixed := by
  unfold State.resetHif
  repeat' (first | with_reducible rfl | (simp [*]; done) | split | (refine (foldl_fixed _ _ _ ?_).trans ?_ <;> intros) | (refine (foldl_fixed_fst _ _ _ ?_).trans ?_ <;> intros) | simp [*])

@[simp] theorem State.quadsReleased_fixed (s : State) :
    (State.quadsReleased s).fixed = s.fixed := by
  unfold State.quadsReleased
  repeat' (first | with_reducible rfl | (simp [*]; done) | split | (refine (foldl_fixed _ _ _ ?_).trans ?_ <;> intros) | (refine (foldl_fixed_fst _ _ _ ?_).trans ?_ <;> intros) | simp [*])

@[simp] theorem State.testsRun_fixed (s : State) (o : StepObs) :
    (State.testsRun s o).fixed = s.fixed := by
  unfold State.testsRun
  repeat' (first | with_reducible rfl | (simp [*]; done) | split | (refine (foldl_fixed _ _ _ ?_).trans ?_ <;> intros) | (refine (foldl_fixed_fst _ _ _ ?_).trans ?_ <;> intros) | simp [*])

@[simp] theorem State.unrehash_fixed (s : State) (h : Nat) :
    (State.unrehash s h).fixed = s.fixed := by
  unfold State.unrehash
  repeat' (first | with_reducible rfl | (simp [*]; done) | split | (refine (foldl_fixed _ _ _ ?_).trans ?_ <;> intros) | (refine (foldl_fixed_fst _ _ _ ?_).trans ?_ <;> intros) | simp [*])

@[simp] theorem State.undoWork_fixed (s : State) :
    (State.undoWork s).fixed = s.fixed := by
  unfold State.undoWork
  repeat' (first | with_reducible rfl | (simp [*]; done) | split | (refine (foldl_fixed _ _ _ ?_).trans ?_ <;> intros) | (refine (foldl_fixed_fst _ _ _ ?_).trans ?_ <;> intros) | simp [*])

@[simp] theorem State.endFetched_fixed (s : State) :
    (State.endFetched s).1.fixed = s.fixed := by
  unfold State.endFetched
  repeat' (first | with_reducible rfl | (simp [*]; done) | split | (refine (foldl_fixed _ _ _ ?_).trans ?_ <;> intros) | (refine (foldl_fixed_fst _ _ _ ?_).trans ?_ <;> intros) | simp [*])

@[simp] theorem State.firmwareRecord_fixed (s : State) (held : Bool) :
    (State.firmwareRecord s held).fixed = s.fixed := by
  unfold State.firmwareRecord
  repeat' (first | with_reducible rfl | (simp [*]; done) | split | (refine (foldl_fixed _ _ _ ?_).trans ?_ <;> intros) | (refine (foldl_fixed_fst _ _ _ ?_).trans ?_ <;> intros) | simp [*])

@[simp] theorem State.healthEvent_fixed (s : State) (p : Nat) (action : Nat) :
    (State.healthEvent s p action).fixed = s.fixed := by
  unfold State.healthEvent
  repeat' (first | with_reducible rfl | (simp [*]; done) | split | (refine (foldl_fixed _ _ _ ?_).trans ?_ <;> intros) | (refine (foldl_fixed_fst _ _ _ ?_).trans ?_ <;> intros) | simp [*])

@[simp] theorem State.expel_fixed (s : State) (p : Nat) :
    (State.expel s p).fixed = s.fixed := by
  unfold State.expel
  repeat' (first | with_reducible rfl | (simp [*]; done) | split | (refine (foldl_fixed _ _ _ ?_).trans ?_ <;> intros) | (refine (foldl_fixed_fst _ _ _ ?_).trans ?_ <;> intros) | simp [*])

@[simp] theorem State.degrade_fixed (s : State) (p : Nat) (action : Nat) :
    (State.degrade s p action).fixed = s.fixed := by
  unfold State.degrade
  repeat' (first | with_reducible rfl | (simp [*]; done) | split | (refine (foldl_fixed _ _ _ ?_).trans ?_ <;> intros) | (refine (foldl_fixed_fst _ _ _ ?_).trans ?_ <;> intros) | simp [*])

@[simp] theorem State.healthCount_fixed (s : State) (p : Nat) (o : Option FecObs) :
    (State.healthCount s p o).fixed = s.fixed := by
  unfold State.healthCount
  repeat' (first | with_reducible rfl | (simp [*]; done) | split | (refine (foldl_fixed _ _ _ ?_).trans ?_ <;> intros) | (refine (foldl_fixed_fst _ _ _ ?_).trans ?_ <;> intros) | simp [*])

@[simp] theorem State.healthMove_fixed (s : State) (p : Nat) :
    (State.healthMove s p).fixed = s.fixed := by
  unfold State.healthMove
  repeat' (first | with_reducible rfl | (simp [*]; done) | split | (refine (foldl_fixed _ _ _ ?_).trans ?_ <;> intros) | (refine (foldl_fixed_fst _ _ _ ?_).trans ?_ <;> intros) | simp [*])

@[simp] theorem State.expelDegraded_fixed (s : State) :
    (State.expelDegraded s).fixed = s.fixed := by
  unfold State.expelDegraded
  repeat' (first | with_reducible rfl | (simp [*]; done) | split | (refine (foldl_fixed _ _ _ ?_).trans ?_ <;> intros) | (refine (foldl_fixed_fst _ _ _ ?_).trans ?_ <;> intros) | simp [*])

@[simp] theorem State.holdEnds_fixed (s : State) (k : Nat) :
    (State.holdEnds s k).fixed = s.fixed := by
  unfold State.holdEnds
  repeat' (first | with_reducible rfl | (simp [*]; done) | split | (refine (foldl_fixed _ _ _ ?_).trans ?_ <;> intros) | (refine (foldl_fixed_fst _ _ _ ?_).trans ?_ <;> intros) | simp [*])

@[simp] theorem State.withTap_fixed (s : State) (c : CmdRing) (op : Nat) (rd : DmaRead) (k : State → CmdRef → List Byte → State) (hk : ∀ s x1 x2, (k s x1 x2).fixed = s.fixed) :
    (State.withTap s c op rd k).fixed = s.fixed := by
  unfold State.withTap
  repeat' (first | with_reducible rfl | (simp [*]; done) | split | (refine (foldl_fixed _ _ _ ?_).trans ?_ <;> intros) | (refine (foldl_fixed_fst _ _ _ ?_).trans ?_ <;> intros) | simp [*])

@[simp] theorem State.tapToHost_fixed (s : State) (q : Nat) (b : List Byte) :
    (State.tapToHost s q b).fixed = s.fixed := by
  unfold State.tapToHost
  repeat' (first | with_reducible rfl | (simp [*]; done) | split | (refine (foldl_fixed _ _ _ ?_).trans ?_ <;> intros) | (refine (foldl_fixed_fst _ _ _ ?_).trans ?_ <;> intros) | simp [*])

@[simp] theorem State.recover_fixed (s : State) (img : DmaRead) : (State.recover s img).fixed = s.fixed := by
  unfold State.recover
  dsimp only
  repeat' split
  all_goals rfl

@[simp] theorem State.recoverNow_fixed (s : State) :
    (State.recoverNow s).fixed = s.fixed := by
  unfold State.recoverNow
  repeat' (first | with_reducible rfl | (simp [*]; done) | split | (refine (foldl_fixed _ _ _ ?_).trans ?_ <;> intros) | (refine (foldl_fixed_fst _ _ _ ?_).trans ?_ <;> intros) | simp [*])

@[simp] theorem State.dbBad_fixed (s : State) :
    (State.dbBad s).fixed = s.fixed := by
  unfold State.dbBad
  repeat' (first | with_reducible rfl | (simp [*]; done) | split | (refine (foldl_fixed _ _ _ ?_).trans ?_ <;> intros) | (refine (foldl_fixed_fst _ _ _ ?_).trans ?_ <;> intros) | simp [*])

@[simp] theorem State.withActivate_fixed (s : State) (c : CmdRing) (op : Nat) (rd : DmaRead) (k : State → CmdRef → State) (hk : ∀ s x1, (k s x1).fixed = s.fixed) :
    (State.withActivate s c op rd k).fixed = s.fixed := by
  unfold State.withActivate
  repeat' (first | with_reducible rfl | (simp [*]; done) | split | (refine (foldl_fixed _ _ _ ?_).trans ?_ <;> intros) | (refine (foldl_fixed_fst _ _ _ ?_).trans ?_ <;> intros) | simp [*])

@[simp] theorem State.withAttest_fixed (s : State) (c : CmdRing) (op : Nat) (rd : DmaRead) (k : State → List Byte → CmdRef → List Byte → State) (hk : ∀ s x1 x2 x3, (k s x1 x2 x3).fixed = s.fixed) :
    (State.withAttest s c op rd k).fixed = s.fixed := by
  unfold State.withAttest
  repeat' (first | with_reducible rfl | (simp [*]; done) | split | (refine (foldl_fixed _ _ _ ?_).trans ?_ <;> intros) | (refine (foldl_fixed_fst _ _ _ ?_).trans ?_ <;> intros) | simp [*])

@[simp] theorem State.attestOut_fixed (s : State) (d : List Byte) (ref : CmdRef) (out : List Byte) :
    (State.attestOut s d ref out).fixed = s.fixed := by
  unfold State.attestOut
  repeat' (first | with_reducible rfl | (simp [*]; done) | split | (refine (foldl_fixed _ _ _ ?_).trans ?_ <;> intros) | (refine (foldl_fixed_fst _ _ _ ?_).trans ?_ <;> intros) | simp [*])

@[simp] theorem State.thermalEvent_fixed (s : State) (sensor : Nat) (kind : Nat) (temp : Nat) (flags : Nat) :
    (State.thermalEvent s sensor kind temp flags).fixed = s.fixed := by
  unfold State.thermalEvent
  repeat' (first | with_reducible rfl | (simp [*]; done) | split | (refine (foldl_fixed _ _ _ ?_).trans ?_ <;> intros) | (refine (foldl_fixed_fst _ _ _ ?_).trans ?_ <;> intros) | simp [*])

@[simp] theorem State.takeInputs_fixed (s : State) (o : InputObs) :
    (State.takeInputs s o).fixed = s.fixed := by
  unfold State.takeInputs
  repeat' (first | with_reducible rfl | (simp [*]; done) | split | (refine (foldl_fixed _ _ _ ?_).trans ?_ <;> intros) | (refine (foldl_fixed_fst _ _ _ ?_).trans ?_ <;> intros) | simp [*])

@[simp] theorem State.bus_fixed (s : State) (k : State → State) (hk : ∀ s, (k s).fixed = s.fixed) :
    (State.bus s k).fixed = s.fixed := by
  unfold State.bus
  repeat' (first | with_reducible rfl | (simp [*]; done) | split | (refine (foldl_fixed _ _ _ ?_).trans ?_ <;> intros) | (refine (foldl_fixed_fst _ _ _ ?_).trans ?_ <;> intros) | simp [*])

@[simp] theorem State.busAnswer_fixed (s : State) (code n v : Nat) :
    (State.busAnswer s code n v).fixed = s.fixed := by
  unfold State.busAnswer
  repeat' (first | with_reducible rfl | (simp [*]; done) | split | (refine (foldl_fixed _ _ _ ?_).trans ?_ <;> intros) | (refine (foldl_fixed_fst _ _ _ ?_).trans ?_ <;> intros) | simp [*])

@[simp] theorem State.busReading_fixed (s : State) (code : Nat) (num : Int) (den : Nat) :
    (State.busReading s code num den).fixed = s.fixed := by
  unfold State.busReading
  repeat' (first | with_reducible rfl | (simp [*]; done) | split | (refine (foldl_fixed _ _ _ ?_).trans ?_ <;> intros) | (refine (foldl_fixed_fst _ _ _ ?_).trans ?_ <;> intros) | simp [*])

@[simp] theorem State.writeField_fixed (s : State) (r : Reg) (ix : List Nat) (v : Nat) (f : RegFld) :
    (State.writeField s r ix v f).fixed = s.fixed := by
  unfold State.writeField
  repeat' (first | with_reducible rfl | (simp [*]; done) | split | (refine (foldl_fixed _ _ _ ?_).trans ?_ <;> intros) | (refine (foldl_fixed_fst _ _ _ ?_).trans ?_ <;> intros) | simp [*])

@[simp] theorem State.writeFields_fixed (s : State) (r : Reg) (ix : List Nat) (v : Nat) :
    (State.writeFields s r ix v).fixed = s.fixed := by
  unfold State.writeFields
  repeat' (first | with_reducible rfl | (simp [*]; done) | split | (refine (foldl_fixed _ _ _ ?_).trans ?_ <;> intros) | (refine (foldl_fixed_fst _ _ _ ?_).trans ?_ <;> intros) | simp [*])

@[simp] theorem State.writeRingCfg_fixed (s : State) (ix : List Nat) (v : Nat) :
    (State.writeRingCfg s ix v).fixed = s.fixed := by
  unfold State.writeRingCfg
  repeat' (first | with_reducible rfl | (simp [*]; done) | split | (refine (foldl_fixed _ _ _ ?_).trans ?_ <;> intros) | (refine (foldl_fixed_fst _ _ _ ?_).trans ?_ <;> intros) | simp [*])

@[simp] theorem State.badAccess_fixed (s : State) :
    (State.badAccess s).fixed = s.fixed := by
  unfold State.badAccess
  repeat' (first | with_reducible rfl | (simp [*]; done) | split | (refine (foldl_fixed _ _ _ ?_).trans ?_ <;> intros) | (refine (foldl_fixed_fst _ _ _ ?_).trans ?_ <;> intros) | simp [*])

@[simp] theorem State.memRecord_fixed (s : State) (q : Nat) (sev : Byte) (m : MemWord) :
    (State.memRecord s q sev m).fixed = s.fixed := by
  unfold State.memRecord
  repeat' (first | with_reducible rfl | (simp [*]; done) | split | (refine (foldl_fixed _ _ _ ?_).trans ?_ <;> intros) | (refine (foldl_fixed_fst _ _ _ ?_).trans ?_ <;> intros) | simp [*])

@[simp] theorem State.correct_fixed (s : State) (q : Nat) (k : Nat) (m : MemWord) :
    (State.correct s q k m).fixed = s.fixed := by
  unfold State.correct
  repeat' (first | with_reducible rfl | (simp [*]; done) | split | (refine (foldl_fixed _ _ _ ?_).trans ?_ <;> intros) | (refine (foldl_fixed_fst _ _ _ ?_).trans ?_ <;> intros) | simp [*])

@[simp] theorem State.poisonEntry_fixed (s : State) (p n fid : Nat) :
    (State.poisonEntry s p n fid).fixed = s.fixed := by
  unfold State.poisonEntry
  repeat' (first | with_reducible rfl | (simp [*]; done) | split | (refine (foldl_fixed _ _ _ ?_).trans ?_ <;> intros) | (refine (foldl_fixed_fst _ _ _ ?_).trans ?_ <;> intros) | simp [*])

@[simp] theorem State.poisonQueued_fixed (s : State) (p : Nat) (n : Nat) (fid : Nat) :
    (State.poisonQueued s p n fid).fixed = s.fixed := by
  unfold State.poisonQueued
  repeat' (first | with_reducible rfl | (simp [*]; done) | split | (refine (foldl_fixed _ _ _ ?_).trans ?_ <;> intros) | (refine (foldl_fixed_fst _ _ _ ?_).trans ?_ <;> intros) | simp [*])

@[simp] theorem State.poisonFrame_fixed (s : State) (q fid back : Nat) :
    (State.poisonFrame s q fid back).fixed = s.fixed := by
  unfold State.poisonFrame
  repeat' (first | with_reducible rfl | (simp [*]; done) | split | (refine (foldl_fixed _ _ _ ?_).trans ?_ <;> intros) | (refine (foldl_fixed_fst _ _ _ ?_).trans ?_ <;> intros) | simp [*])

@[simp] theorem State.markCell_fixed (s : State) (st : StreamId) (cseq : BitVec 14) (f : Cell → Cell) :
    (State.markCell s st cseq f).fixed = s.fixed := by
  unfold State.markCell
  repeat' (first | with_reducible rfl | (simp [*]; done) | split | (refine (foldl_fixed _ _ _ ?_).trans ?_ <;> intros) | (refine (foldl_fixed_fst _ _ _ ?_).trans ?_ <;> intros) | simp [*])

@[simp] theorem State.poisonInst_fixed (s : State) (slot : Nat) (n : Nat) (q : Nat) (m : MemWord) :
    (State.poisonInst s slot n q m).fixed = s.fixed := by
  unfold State.poisonInst
  repeat' (first | with_reducible rfl | (simp [*]; done) | split | (refine (foldl_fixed _ _ _ ?_).trans ?_ <;> intros) | (refine (foldl_fixed_fst _ _ _ ?_).trans ?_ <;> intros) | simp [*])

@[simp] theorem State.poisonStore_fixed (s : State) (slot : Nat) (bad : BitVec 4) :
    (State.poisonStore s slot bad).fixed = s.fixed := by
  unfold State.poisonStore
  repeat' (first | with_reducible rfl | (simp [*]; done) | split | (refine (foldl_fixed _ _ _ ?_).trans ?_ <;> intros) | (refine (foldl_fixed_fst _ _ _ ?_).trans ?_ <;> intros) | simp [*])

@[simp] theorem State.loseChunks_fixed (s : State) (q k w : Nat) :
    (State.loseChunks s q k w).fixed = s.fixed := by
  unfold State.loseChunks
  repeat' (first | with_reducible rfl | (simp [*]; done) | split | (refine (foldl_fixed _ _ _ ?_).trans ?_ <;> intros) | (refine (foldl_fixed_fst _ _ _ ?_).trans ?_ <;> intros) | simp [*])

@[simp] theorem State.strike_fixed (s : State) (x : Strike) :
    (State.strike s x).fixed = s.fixed := by
  unfold State.strike
  repeat' (first | with_reducible rfl | (simp [*]; done) | split | (refine (foldl_fixed _ _ _ ?_).trans ?_ <;> intros) | (refine (foldl_fixed_fst _ _ _ ?_).trans ?_ <;> intros) | simp [*])

end Sys2Proof.Machine
end

