-- ==== Sys2Proof/Laws/State.lean ====
section
/-! SUPPORT. Projections of the updates of the state: an update of one part leaves every other part as it was, and an updated
part reads as the update says. -/
namespace Sys2Proof.Machine

@[simp] theorem State.updPort_others (s : State) (p : Nat) (f : PortSt → PortSt) :
    (s.updPort p f).pending = s.pending ∧ (s.updPort p f).freeCtr = s.freeCtr ∧ (s.updPort p f).regs = s.regs ∧
    (s.updPort p f).shadow = s.shadow ∧ (s.updPort p f).stage64 = s.stage64 ∧ (s.updPort p f).stageTm = s.stageTm ∧
    (s.updPort p f).fracLatch = s.fracLatch ∧ (s.updPort p f).pageShadow = s.pageShadow ∧ (s.updPort p f).ctrs = s.ctrs ∧
    (s.updPort p f).rst = s.rst ∧ (s.updPort p f).clk = s.clk ∧ (s.updPort p f).pins = s.pins ∧
    (s.updPort p f).time = s.time ∧ (s.updPort p f).hif = s.hif ∧ (s.updPort p f).rings = s.rings ∧
    (s.updPort p f).err = s.err ∧ (s.updPort p f).queues = s.queues ∧ (s.updPort p f).pols = s.pols ∧
    (s.updPort p f).tmShapeEn = s.tmShapeEn ∧ (s.updPort p f).tmPolEn = s.tmPolEn ∧ (s.updPort p f).tmPend = s.tmPend ∧ (s.updPort p f).netBase = s.netBase ∧
    (s.updPort p f).sampleStart = s.sampleStart ∧ (s.updPort p f).sampleWin = s.sampleWin ∧
    (s.updPort p f).bwStart = s.bwStart ∧ (s.updPort p f).bwWin = s.bwWin ∧ (s.updPort p f).home = s.home ∧
    (s.updPort p f).cache = s.cache ∧ (s.updPort p f).cacheFill = s.cacheFill ∧ (s.updPort p f).tables = s.tables ∧
    (s.updPort p f).chan = s.chan ∧ (s.updPort p f).lookups = s.lookups ∧ (s.updPort p f).hostRecs = s.hostRecs ∧
    (s.updPort p f).loads = s.loads ∧ (s.updPort p f).tblWait = s.tblWait ∧ (s.updPort p f).sheaves = s.sheaves ∧
    (s.updPort p f).groups = s.groups ∧ (s.updPort p f).doms = s.doms ∧ (s.updPort p f).held = s.held ∧
    (s.updPort p f).nextFid = s.nextFid ∧ (s.updPort p f).waiting = s.waiting ∧ (s.updPort p f).flying = s.flying ∧
    (s.updPort p f).streams = s.streams ∧ (s.updPort p f).reseq = s.reseq ∧ (s.updPort p f).s1 = s.s1 ∧
    (s.updPort p f).s2 = s.s2 ∧ (s.updPort p f).s1count = s.s1count ∧ (s.updPort p f).arriving = s.arriving ∧
    (s.updPort p f).lanesIn = s.lanesIn ∧ (s.updPort p f).arrivals = s.arrivals ∧ (s.updPort p f).floors = s.floors ∧
    (s.updPort p f).plans = s.plans ∧ (s.updPort p f).loadQ = s.loadQ ∧ (s.updPort p f).mashIn = s.mashIn ∧
    (s.updPort p f).respIn = s.respIn ∧ (s.updPort p f).pitchIn = s.pitchIn ∧ (s.updPort p f).svcSeq = s.svcSeq ∧
    (s.updPort p f).tuns = s.tuns ∧ (s.updPort p f).arrays = s.arrays ∧ (s.updPort p f).kstreams = s.kstreams ∧
    (s.updPort p f).lasers = s.lasers ∧ (s.updPort p f).rings1 = s.rings1 ∧ (s.updPort p f).engines = s.engines ∧
    (s.updPort p f).meshes = s.meshes ∧ (s.updPort p f).bundles = s.bundles ∧ (s.updPort p f).dirs = s.dirs ∧
    (s.updPort p f).pitch = s.pitch ∧ (s.updPort p f).pitchAcks = s.pitchAcks ∧ (s.updPort p f).pitchDoms = s.pitchDoms ∧
    (s.updPort p f).cask = s.cask ∧ (s.updPort p f).stageLeft = s.stageLeft ∧ (s.updPort p f).expulsions = s.expulsions ∧ (s.updPort p f).launches = s.launches ∧
    (s.updPort p f).tap = s.tap ∧ (s.updPort p f).blockRst = s.blockRst ∧ (s.updPort p f).nvLasers = s.nvLasers ∧ (s.updPort p f).nvSecond = s.nvSecond ∧
    (s.updPort p f).sec = s.sec ∧ (s.updPort p f).pwr = s.pwr ∧ (s.updPort p f).out = s.out ∧
    (s.updPort p f).strikes = s.strikes := by
  simp only [State.updPort, and_self]

@[simp] theorem State.updRing_others (s : State) (r : Nat) (f : RingSt → RingSt) :
    (s.updRing r f).pending = s.pending ∧ (s.updRing r f).freeCtr = s.freeCtr ∧ (s.updRing r f).regs = s.regs ∧
    (s.updRing r f).shadow = s.shadow ∧ (s.updRing r f).stage64 = s.stage64 ∧ (s.updRing r f).stageTm = s.stageTm ∧
    (s.updRing r f).fracLatch = s.fracLatch ∧ (s.updRing r f).pageShadow = s.pageShadow ∧ (s.updRing r f).ctrs = s.ctrs ∧
    (s.updRing r f).rst = s.rst ∧ (s.updRing r f).clk = s.clk ∧ (s.updRing r f).pins = s.pins ∧
    (s.updRing r f).time = s.time ∧ (s.updRing r f).hif = s.hif ∧ (s.updRing r f).err = s.err ∧
    (s.updRing r f).ports = s.ports ∧ (s.updRing r f).queues = s.queues ∧ (s.updRing r f).pols = s.pols ∧
    (s.updRing r f).tmShapeEn = s.tmShapeEn ∧ (s.updRing r f).tmPolEn = s.tmPolEn ∧ (s.updRing r f).tmPend = s.tmPend ∧ (s.updRing r f).netBase = s.netBase ∧
    (s.updRing r f).sampleStart = s.sampleStart ∧ (s.updRing r f).sampleWin = s.sampleWin ∧
    (s.updRing r f).bwStart = s.bwStart ∧ (s.updRing r f).bwWin = s.bwWin ∧ (s.updRing r f).home = s.home ∧
    (s.updRing r f).cache = s.cache ∧ (s.updRing r f).cacheFill = s.cacheFill ∧ (s.updRing r f).tables = s.tables ∧
    (s.updRing r f).chan = s.chan ∧ (s.updRing r f).lookups = s.lookups ∧ (s.updRing r f).hostRecs = s.hostRecs ∧
    (s.updRing r f).loads = s.loads ∧ (s.updRing r f).tblWait = s.tblWait ∧ (s.updRing r f).sheaves = s.sheaves ∧
    (s.updRing r f).groups = s.groups ∧ (s.updRing r f).doms = s.doms ∧ (s.updRing r f).held = s.held ∧
    (s.updRing r f).nextFid = s.nextFid ∧ (s.updRing r f).waiting = s.waiting ∧ (s.updRing r f).flying = s.flying ∧
    (s.updRing r f).streams = s.streams ∧ (s.updRing r f).reseq = s.reseq ∧ (s.updRing r f).s1 = s.s1 ∧
    (s.updRing r f).s2 = s.s2 ∧ (s.updRing r f).s1count = s.s1count ∧ (s.updRing r f).arriving = s.arriving ∧
    (s.updRing r f).lanesIn = s.lanesIn ∧ (s.updRing r f).arrivals = s.arrivals ∧ (s.updRing r f).floors = s.floors ∧
    (s.updRing r f).plans = s.plans ∧ (s.updRing r f).loadQ = s.loadQ ∧ (s.updRing r f).mashIn = s.mashIn ∧
    (s.updRing r f).respIn = s.respIn ∧ (s.updRing r f).pitchIn = s.pitchIn ∧ (s.updRing r f).svcSeq = s.svcSeq ∧
    (s.updRing r f).tuns = s.tuns ∧ (s.updRing r f).arrays = s.arrays ∧ (s.updRing r f).kstreams = s.kstreams ∧
    (s.updRing r f).lasers = s.lasers ∧ (s.updRing r f).rings1 = s.rings1 ∧ (s.updRing r f).engines = s.engines ∧
    (s.updRing r f).meshes = s.meshes ∧ (s.updRing r f).bundles = s.bundles ∧ (s.updRing r f).dirs = s.dirs ∧
    (s.updRing r f).pitch = s.pitch ∧ (s.updRing r f).pitchAcks = s.pitchAcks ∧ (s.updRing r f).pitchDoms = s.pitchDoms ∧
    (s.updRing r f).cask = s.cask ∧ (s.updRing r f).stageLeft = s.stageLeft ∧ (s.updRing r f).expulsions = s.expulsions ∧ (s.updRing r f).launches = s.launches ∧
    (s.updRing r f).tap = s.tap ∧ (s.updRing r f).blockRst = s.blockRst ∧ (s.updRing r f).nvLasers = s.nvLasers ∧ (s.updRing r f).nvSecond = s.nvSecond ∧
    (s.updRing r f).sec = s.sec ∧ (s.updRing r f).pwr = s.pwr ∧ (s.updRing r f).out = s.out ∧
    (s.updRing r f).strikes = s.strikes := by
  simp only [State.updRing, and_self]

@[simp] theorem State.updQueue_others (s : State) (p n : Nat) (f : QueueSt → QueueSt) :
    (s.updQueue p n f).pending = s.pending ∧ (s.updQueue p n f).freeCtr = s.freeCtr ∧ (s.updQueue p n f).regs = s.regs ∧
    (s.updQueue p n f).shadow = s.shadow ∧ (s.updQueue p n f).stage64 = s.stage64 ∧
    (s.updQueue p n f).stageTm = s.stageTm ∧ (s.updQueue p n f).fracLatch = s.fracLatch ∧
    (s.updQueue p n f).pageShadow = s.pageShadow ∧ (s.updQueue p n f).ctrs = s.ctrs ∧ (s.updQueue p n f).rst = s.rst ∧
    (s.updQueue p n f).clk = s.clk ∧ (s.updQueue p n f).pins = s.pins ∧ (s.updQueue p n f).time = s.time ∧
    (s.updQueue p n f).hif = s.hif ∧ (s.updQueue p n f).rings = s.rings ∧ (s.updQueue p n f).err = s.err ∧
    (s.updQueue p n f).ports = s.ports ∧ (s.updQueue p n f).pols = s.pols ∧ (s.updQueue p n f).tmShapeEn = s.tmShapeEn ∧
    (s.updQueue p n f).tmPolEn = s.tmPolEn ∧ (s.updQueue p n f).tmPend = s.tmPend ∧ (s.updQueue p n f).netBase = s.netBase ∧
    (s.updQueue p n f).sampleStart = s.sampleStart ∧ (s.updQueue p n f).sampleWin = s.sampleWin ∧
    (s.updQueue p n f).bwStart = s.bwStart ∧ (s.updQueue p n f).bwWin = s.bwWin ∧ (s.updQueue p n f).home = s.home ∧
    (s.updQueue p n f).cache = s.cache ∧ (s.updQueue p n f).cacheFill = s.cacheFill ∧
    (s.updQueue p n f).tables = s.tables ∧ (s.updQueue p n f).chan = s.chan ∧ (s.updQueue p n f).lookups = s.lookups ∧
    (s.updQueue p n f).hostRecs = s.hostRecs ∧ (s.updQueue p n f).loads = s.loads ∧
    (s.updQueue p n f).tblWait = s.tblWait ∧ (s.updQueue p n f).sheaves = s.sheaves ∧
    (s.updQueue p n f).groups = s.groups ∧ (s.updQueue p n f).doms = s.doms ∧ (s.updQueue p n f).held = s.held ∧
    (s.updQueue p n f).nextFid = s.nextFid ∧ (s.updQueue p n f).waiting = s.waiting ∧
    (s.updQueue p n f).flying = s.flying ∧ (s.updQueue p n f).streams = s.streams ∧ (s.updQueue p n f).reseq = s.reseq ∧
    (s.updQueue p n f).s1 = s.s1 ∧ (s.updQueue p n f).s2 = s.s2 ∧ (s.updQueue p n f).s1count = s.s1count ∧
    (s.updQueue p n f).arriving = s.arriving ∧ (s.updQueue p n f).lanesIn = s.lanesIn ∧
    (s.updQueue p n f).arrivals = s.arrivals ∧ (s.updQueue p n f).floors = s.floors ∧
    (s.updQueue p n f).plans = s.plans ∧ (s.updQueue p n f).loadQ = s.loadQ ∧ (s.updQueue p n f).mashIn = s.mashIn ∧
    (s.updQueue p n f).respIn = s.respIn ∧ (s.updQueue p n f).pitchIn = s.pitchIn ∧
    (s.updQueue p n f).svcSeq = s.svcSeq ∧ (s.updQueue p n f).tuns = s.tuns ∧ (s.updQueue p n f).arrays = s.arrays ∧
    (s.updQueue p n f).kstreams = s.kstreams ∧ (s.updQueue p n f).lasers = s.lasers ∧
    (s.updQueue p n f).rings1 = s.rings1 ∧ (s.updQueue p n f).engines = s.engines ∧
    (s.updQueue p n f).meshes = s.meshes ∧ (s.updQueue p n f).bundles = s.bundles ∧ (s.updQueue p n f).dirs = s.dirs ∧
    (s.updQueue p n f).pitch = s.pitch ∧ (s.updQueue p n f).pitchAcks = s.pitchAcks ∧
    (s.updQueue p n f).pitchDoms = s.pitchDoms ∧ (s.updQueue p n f).cask = s.cask ∧ (s.updQueue p n f).stageLeft = s.stageLeft ∧
    (s.updQueue p n f).expulsions = s.expulsions ∧ (s.updQueue p n f).launches = s.launches ∧
    (s.updQueue p n f).tap = s.tap ∧ (s.updQueue p n f).blockRst = s.blockRst ∧
    (s.updQueue p n f).nvLasers = s.nvLasers ∧ (s.updQueue p n f).nvSecond = s.nvSecond ∧ (s.updQueue p n f).sec = s.sec ∧ (s.updQueue p n f).pwr = s.pwr ∧
    (s.updQueue p n f).out = s.out ∧ (s.updQueue p n f).strikes = s.strikes := by
  simp only [State.updQueue, and_self]

@[simp] theorem State.updPol_others (s : State) (p t : Nat) (f : PolSt → PolSt) :
    (s.updPol p t f).pending = s.pending ∧ (s.updPol p t f).freeCtr = s.freeCtr ∧ (s.updPol p t f).regs = s.regs ∧
    (s.updPol p t f).shadow = s.shadow ∧ (s.updPol p t f).stage64 = s.stage64 ∧ (s.updPol p t f).stageTm = s.stageTm ∧
    (s.updPol p t f).fracLatch = s.fracLatch ∧ (s.updPol p t f).pageShadow = s.pageShadow ∧
    (s.updPol p t f).ctrs = s.ctrs ∧ (s.updPol p t f).rst = s.rst ∧ (s.updPol p t f).clk = s.clk ∧
    (s.updPol p t f).pins = s.pins ∧ (s.updPol p t f).time = s.time ∧ (s.updPol p t f).hif = s.hif ∧
    (s.updPol p t f).rings = s.rings ∧ (s.updPol p t f).err = s.err ∧ (s.updPol p t f).ports = s.ports ∧
    (s.updPol p t f).queues = s.queues ∧ (s.updPol p t f).tmShapeEn = s.tmShapeEn ∧
    (s.updPol p t f).tmPolEn = s.tmPolEn ∧ (s.updPol p t f).tmPend = s.tmPend ∧ (s.updPol p t f).netBase = s.netBase ∧
    (s.updPol p t f).sampleStart = s.sampleStart ∧ (s.updPol p t f).sampleWin = s.sampleWin ∧
    (s.updPol p t f).bwStart = s.bwStart ∧ (s.updPol p t f).bwWin = s.bwWin ∧ (s.updPol p t f).home = s.home ∧
    (s.updPol p t f).cache = s.cache ∧ (s.updPol p t f).cacheFill = s.cacheFill ∧ (s.updPol p t f).tables = s.tables ∧
    (s.updPol p t f).chan = s.chan ∧ (s.updPol p t f).lookups = s.lookups ∧ (s.updPol p t f).hostRecs = s.hostRecs ∧
    (s.updPol p t f).loads = s.loads ∧ (s.updPol p t f).tblWait = s.tblWait ∧ (s.updPol p t f).sheaves = s.sheaves ∧
    (s.updPol p t f).groups = s.groups ∧ (s.updPol p t f).doms = s.doms ∧ (s.updPol p t f).held = s.held ∧
    (s.updPol p t f).nextFid = s.nextFid ∧ (s.updPol p t f).waiting = s.waiting ∧ (s.updPol p t f).flying = s.flying ∧
    (s.updPol p t f).streams = s.streams ∧ (s.updPol p t f).reseq = s.reseq ∧ (s.updPol p t f).s1 = s.s1 ∧
    (s.updPol p t f).s2 = s.s2 ∧ (s.updPol p t f).s1count = s.s1count ∧ (s.updPol p t f).arriving = s.arriving ∧
    (s.updPol p t f).lanesIn = s.lanesIn ∧ (s.updPol p t f).arrivals = s.arrivals ∧ (s.updPol p t f).floors = s.floors ∧
    (s.updPol p t f).plans = s.plans ∧ (s.updPol p t f).loadQ = s.loadQ ∧ (s.updPol p t f).mashIn = s.mashIn ∧
    (s.updPol p t f).respIn = s.respIn ∧ (s.updPol p t f).pitchIn = s.pitchIn ∧ (s.updPol p t f).svcSeq = s.svcSeq ∧
    (s.updPol p t f).tuns = s.tuns ∧ (s.updPol p t f).arrays = s.arrays ∧ (s.updPol p t f).kstreams = s.kstreams ∧
    (s.updPol p t f).lasers = s.lasers ∧ (s.updPol p t f).rings1 = s.rings1 ∧ (s.updPol p t f).engines = s.engines ∧
    (s.updPol p t f).meshes = s.meshes ∧ (s.updPol p t f).bundles = s.bundles ∧ (s.updPol p t f).dirs = s.dirs ∧
    (s.updPol p t f).pitch = s.pitch ∧ (s.updPol p t f).pitchAcks = s.pitchAcks ∧
    (s.updPol p t f).pitchDoms = s.pitchDoms ∧ (s.updPol p t f).cask = s.cask ∧ (s.updPol p t f).stageLeft = s.stageLeft ∧
    (s.updPol p t f).expulsions = s.expulsions ∧ (s.updPol p t f).launches = s.launches ∧ (s.updPol p t f).tap = s.tap ∧
    (s.updPol p t f).blockRst = s.blockRst ∧ (s.updPol p t f).nvLasers = s.nvLasers ∧ (s.updPol p t f).nvSecond = s.nvSecond ∧ (s.updPol p t f).sec = s.sec ∧
    (s.updPol p t f).pwr = s.pwr ∧ (s.updPol p t f).out = s.out ∧ (s.updPol p t f).strikes = s.strikes := by
  simp only [State.updPol, and_self]

@[simp] theorem State.updTable_others (s : State) (q : Nat) (f : TableSt → TableSt) :
    (s.updTable q f).pending = s.pending ∧ (s.updTable q f).freeCtr = s.freeCtr ∧ (s.updTable q f).regs = s.regs ∧
    (s.updTable q f).shadow = s.shadow ∧ (s.updTable q f).stage64 = s.stage64 ∧ (s.updTable q f).stageTm = s.stageTm ∧
    (s.updTable q f).fracLatch = s.fracLatch ∧ (s.updTable q f).pageShadow = s.pageShadow ∧
    (s.updTable q f).ctrs = s.ctrs ∧ (s.updTable q f).rst = s.rst ∧ (s.updTable q f).clk = s.clk ∧
    (s.updTable q f).pins = s.pins ∧ (s.updTable q f).time = s.time ∧ (s.updTable q f).hif = s.hif ∧
    (s.updTable q f).rings = s.rings ∧ (s.updTable q f).err = s.err ∧ (s.updTable q f).ports = s.ports ∧
    (s.updTable q f).queues = s.queues ∧ (s.updTable q f).pols = s.pols ∧ (s.updTable q f).tmShapeEn = s.tmShapeEn ∧
    (s.updTable q f).tmPolEn = s.tmPolEn ∧ (s.updTable q f).tmPend = s.tmPend ∧ (s.updTable q f).netBase = s.netBase ∧
    (s.updTable q f).sampleStart = s.sampleStart ∧ (s.updTable q f).sampleWin = s.sampleWin ∧
    (s.updTable q f).bwStart = s.bwStart ∧ (s.updTable q f).bwWin = s.bwWin ∧ (s.updTable q f).home = s.home ∧
    (s.updTable q f).cache = s.cache ∧ (s.updTable q f).cacheFill = s.cacheFill ∧ (s.updTable q f).chan = s.chan ∧
    (s.updTable q f).lookups = s.lookups ∧ (s.updTable q f).hostRecs = s.hostRecs ∧ (s.updTable q f).loads = s.loads ∧
    (s.updTable q f).tblWait = s.tblWait ∧ (s.updTable q f).sheaves = s.sheaves ∧ (s.updTable q f).groups = s.groups ∧
    (s.updTable q f).doms = s.doms ∧ (s.updTable q f).held = s.held ∧ (s.updTable q f).nextFid = s.nextFid ∧
    (s.updTable q f).waiting = s.waiting ∧ (s.updTable q f).flying = s.flying ∧ (s.updTable q f).streams = s.streams ∧
    (s.updTable q f).reseq = s.reseq ∧ (s.updTable q f).s1 = s.s1 ∧ (s.updTable q f).s2 = s.s2 ∧
    (s.updTable q f).s1count = s.s1count ∧ (s.updTable q f).arriving = s.arriving ∧
    (s.updTable q f).lanesIn = s.lanesIn ∧ (s.updTable q f).arrivals = s.arrivals ∧ (s.updTable q f).floors = s.floors ∧
    (s.updTable q f).plans = s.plans ∧ (s.updTable q f).loadQ = s.loadQ ∧ (s.updTable q f).mashIn = s.mashIn ∧
    (s.updTable q f).respIn = s.respIn ∧ (s.updTable q f).pitchIn = s.pitchIn ∧ (s.updTable q f).svcSeq = s.svcSeq ∧
    (s.updTable q f).tuns = s.tuns ∧ (s.updTable q f).arrays = s.arrays ∧ (s.updTable q f).kstreams = s.kstreams ∧
    (s.updTable q f).lasers = s.lasers ∧ (s.updTable q f).rings1 = s.rings1 ∧ (s.updTable q f).engines = s.engines ∧
    (s.updTable q f).meshes = s.meshes ∧ (s.updTable q f).bundles = s.bundles ∧ (s.updTable q f).dirs = s.dirs ∧
    (s.updTable q f).pitch = s.pitch ∧ (s.updTable q f).pitchAcks = s.pitchAcks ∧
    (s.updTable q f).pitchDoms = s.pitchDoms ∧ (s.updTable q f).cask = s.cask ∧ (s.updTable q f).stageLeft = s.stageLeft ∧
    (s.updTable q f).expulsions = s.expulsions ∧ (s.updTable q f).launches = s.launches ∧ (s.updTable q f).tap = s.tap ∧
    (s.updTable q f).blockRst = s.blockRst ∧ (s.updTable q f).nvLasers = s.nvLasers ∧ (s.updTable q f).nvSecond = s.nvSecond ∧ (s.updTable q f).sec = s.sec ∧
    (s.updTable q f).pwr = s.pwr ∧ (s.updTable q f).out = s.out ∧ (s.updTable q f).strikes = s.strikes := by
  simp only [State.updTable, and_self]

@[simp] theorem State.updFloor_others (s : State) (q : Nat) (f : FloorSt → FloorSt) :
    (s.updFloor q f).pending = s.pending ∧ (s.updFloor q f).freeCtr = s.freeCtr ∧ (s.updFloor q f).regs = s.regs ∧
    (s.updFloor q f).shadow = s.shadow ∧ (s.updFloor q f).stage64 = s.stage64 ∧ (s.updFloor q f).stageTm = s.stageTm ∧
    (s.updFloor q f).fracLatch = s.fracLatch ∧ (s.updFloor q f).pageShadow = s.pageShadow ∧
    (s.updFloor q f).ctrs = s.ctrs ∧ (s.updFloor q f).rst = s.rst ∧ (s.updFloor q f).clk = s.clk ∧
    (s.updFloor q f).pins = s.pins ∧ (s.updFloor q f).time = s.time ∧ (s.updFloor q f).hif = s.hif ∧
    (s.updFloor q f).rings = s.rings ∧ (s.updFloor q f).err = s.err ∧ (s.updFloor q f).ports = s.ports ∧
    (s.updFloor q f).queues = s.queues ∧ (s.updFloor q f).pols = s.pols ∧ (s.updFloor q f).tmShapeEn = s.tmShapeEn ∧
    (s.updFloor q f).tmPolEn = s.tmPolEn ∧ (s.updFloor q f).tmPend = s.tmPend ∧ (s.updFloor q f).netBase = s.netBase ∧
    (s.updFloor q f).sampleStart = s.sampleStart ∧ (s.updFloor q f).sampleWin = s.sampleWin ∧
    (s.updFloor q f).bwStart = s.bwStart ∧ (s.updFloor q f).bwWin = s.bwWin ∧ (s.updFloor q f).home = s.home ∧
    (s.updFloor q f).cache = s.cache ∧ (s.updFloor q f).cacheFill = s.cacheFill ∧ (s.updFloor q f).tables = s.tables ∧
    (s.updFloor q f).chan = s.chan ∧ (s.updFloor q f).lookups = s.lookups ∧ (s.updFloor q f).hostRecs = s.hostRecs ∧
    (s.updFloor q f).loads = s.loads ∧ (s.updFloor q f).tblWait = s.tblWait ∧ (s.updFloor q f).sheaves = s.sheaves ∧
    (s.updFloor q f).groups = s.groups ∧ (s.updFloor q f).doms = s.doms ∧ (s.updFloor q f).held = s.held ∧
    (s.updFloor q f).nextFid = s.nextFid ∧ (s.updFloor q f).waiting = s.waiting ∧ (s.updFloor q f).flying = s.flying ∧
    (s.updFloor q f).streams = s.streams ∧ (s.updFloor q f).reseq = s.reseq ∧ (s.updFloor q f).s1 = s.s1 ∧
    (s.updFloor q f).s2 = s.s2 ∧ (s.updFloor q f).s1count = s.s1count ∧ (s.updFloor q f).arriving = s.arriving ∧
    (s.updFloor q f).lanesIn = s.lanesIn ∧ (s.updFloor q f).arrivals = s.arrivals ∧ (s.updFloor q f).plans = s.plans ∧
    (s.updFloor q f).loadQ = s.loadQ ∧ (s.updFloor q f).mashIn = s.mashIn ∧ (s.updFloor q f).respIn = s.respIn ∧
    (s.updFloor q f).pitchIn = s.pitchIn ∧ (s.updFloor q f).svcSeq = s.svcSeq ∧ (s.updFloor q f).tuns = s.tuns ∧
    (s.updFloor q f).arrays = s.arrays ∧ (s.updFloor q f).kstreams = s.kstreams ∧ (s.updFloor q f).lasers = s.lasers ∧
    (s.updFloor q f).rings1 = s.rings1 ∧ (s.updFloor q f).engines = s.engines ∧ (s.updFloor q f).meshes = s.meshes ∧
    (s.updFloor q f).bundles = s.bundles ∧ (s.updFloor q f).dirs = s.dirs ∧ (s.updFloor q f).pitch = s.pitch ∧
    (s.updFloor q f).pitchAcks = s.pitchAcks ∧ (s.updFloor q f).pitchDoms = s.pitchDoms ∧
    (s.updFloor q f).cask = s.cask ∧ (s.updFloor q f).stageLeft = s.stageLeft ∧ (s.updFloor q f).expulsions = s.expulsions ∧
    (s.updFloor q f).launches = s.launches ∧ (s.updFloor q f).tap = s.tap ∧ (s.updFloor q f).blockRst = s.blockRst ∧
    (s.updFloor q f).nvLasers = s.nvLasers ∧ (s.updFloor q f).nvSecond = s.nvSecond ∧ (s.updFloor q f).sec = s.sec ∧ (s.updFloor q f).pwr = s.pwr ∧
    (s.updFloor q f).out = s.out ∧ (s.updFloor q f).strikes = s.strikes := by
  simp only [State.updFloor, and_self]

@[simp] theorem State.updArray_others (s : State) (k : Nat) (f : ArraySt → ArraySt) :
    (s.updArray k f).pending = s.pending ∧ (s.updArray k f).freeCtr = s.freeCtr ∧ (s.updArray k f).regs = s.regs ∧
    (s.updArray k f).shadow = s.shadow ∧ (s.updArray k f).stage64 = s.stage64 ∧ (s.updArray k f).stageTm = s.stageTm ∧
    (s.updArray k f).fracLatch = s.fracLatch ∧ (s.updArray k f).pageShadow = s.pageShadow ∧
    (s.updArray k f).ctrs = s.ctrs ∧ (s.updArray k f).rst = s.rst ∧ (s.updArray k f).clk = s.clk ∧
    (s.updArray k f).pins = s.pins ∧ (s.updArray k f).time = s.time ∧ (s.updArray k f).hif = s.hif ∧
    (s.updArray k f).rings = s.rings ∧ (s.updArray k f).err = s.err ∧ (s.updArray k f).ports = s.ports ∧
    (s.updArray k f).queues = s.queues ∧ (s.updArray k f).pols = s.pols ∧ (s.updArray k f).tmShapeEn = s.tmShapeEn ∧
    (s.updArray k f).tmPolEn = s.tmPolEn ∧ (s.updArray k f).tmPend = s.tmPend ∧ (s.updArray k f).netBase = s.netBase ∧
    (s.updArray k f).sampleStart = s.sampleStart ∧ (s.updArray k f).sampleWin = s.sampleWin ∧
    (s.updArray k f).bwStart = s.bwStart ∧ (s.updArray k f).bwWin = s.bwWin ∧ (s.updArray k f).home = s.home ∧
    (s.updArray k f).cache = s.cache ∧ (s.updArray k f).cacheFill = s.cacheFill ∧ (s.updArray k f).tables = s.tables ∧
    (s.updArray k f).chan = s.chan ∧ (s.updArray k f).lookups = s.lookups ∧ (s.updArray k f).hostRecs = s.hostRecs ∧
    (s.updArray k f).loads = s.loads ∧ (s.updArray k f).tblWait = s.tblWait ∧ (s.updArray k f).sheaves = s.sheaves ∧
    (s.updArray k f).groups = s.groups ∧ (s.updArray k f).doms = s.doms ∧ (s.updArray k f).held = s.held ∧
    (s.updArray k f).nextFid = s.nextFid ∧ (s.updArray k f).waiting = s.waiting ∧ (s.updArray k f).flying = s.flying ∧
    (s.updArray k f).streams = s.streams ∧ (s.updArray k f).reseq = s.reseq ∧ (s.updArray k f).s1 = s.s1 ∧
    (s.updArray k f).s2 = s.s2 ∧ (s.updArray k f).s1count = s.s1count ∧ (s.updArray k f).arriving = s.arriving ∧
    (s.updArray k f).lanesIn = s.lanesIn ∧ (s.updArray k f).arrivals = s.arrivals ∧ (s.updArray k f).floors = s.floors ∧
    (s.updArray k f).plans = s.plans ∧ (s.updArray k f).loadQ = s.loadQ ∧ (s.updArray k f).mashIn = s.mashIn ∧
    (s.updArray k f).respIn = s.respIn ∧ (s.updArray k f).pitchIn = s.pitchIn ∧ (s.updArray k f).svcSeq = s.svcSeq ∧
    (s.updArray k f).tuns = s.tuns ∧ (s.updArray k f).kstreams = s.kstreams ∧ (s.updArray k f).lasers = s.lasers ∧
    (s.updArray k f).rings1 = s.rings1 ∧ (s.updArray k f).engines = s.engines ∧ (s.updArray k f).meshes = s.meshes ∧
    (s.updArray k f).bundles = s.bundles ∧ (s.updArray k f).dirs = s.dirs ∧ (s.updArray k f).pitch = s.pitch ∧
    (s.updArray k f).pitchAcks = s.pitchAcks ∧ (s.updArray k f).pitchDoms = s.pitchDoms ∧
    (s.updArray k f).cask = s.cask ∧ (s.updArray k f).stageLeft = s.stageLeft ∧ (s.updArray k f).expulsions = s.expulsions ∧
    (s.updArray k f).launches = s.launches ∧ (s.updArray k f).tap = s.tap ∧ (s.updArray k f).blockRst = s.blockRst ∧
    (s.updArray k f).nvLasers = s.nvLasers ∧ (s.updArray k f).nvSecond = s.nvSecond ∧ (s.updArray k f).sec = s.sec ∧ (s.updArray k f).pwr = s.pwr ∧
    (s.updArray k f).out = s.out ∧ (s.updArray k f).strikes = s.strikes := by
  simp only [State.updArray, and_self]

@[simp] theorem State.updEngine_others (s : State) (o : Nat) (f : EngineSt → EngineSt) :
    (s.updEngine o f).pending = s.pending ∧ (s.updEngine o f).freeCtr = s.freeCtr ∧ (s.updEngine o f).regs = s.regs ∧
    (s.updEngine o f).shadow = s.shadow ∧ (s.updEngine o f).stage64 = s.stage64 ∧ (s.updEngine o f).stageTm = s.stageTm ∧
    (s.updEngine o f).fracLatch = s.fracLatch ∧ (s.updEngine o f).pageShadow = s.pageShadow ∧
    (s.updEngine o f).ctrs = s.ctrs ∧ (s.updEngine o f).rst = s.rst ∧ (s.updEngine o f).clk = s.clk ∧
    (s.updEngine o f).pins = s.pins ∧ (s.updEngine o f).time = s.time ∧ (s.updEngine o f).hif = s.hif ∧
    (s.updEngine o f).rings = s.rings ∧ (s.updEngine o f).err = s.err ∧ (s.updEngine o f).ports = s.ports ∧
    (s.updEngine o f).queues = s.queues ∧ (s.updEngine o f).pols = s.pols ∧ (s.updEngine o f).tmShapeEn = s.tmShapeEn ∧
    (s.updEngine o f).tmPolEn = s.tmPolEn ∧ (s.updEngine o f).tmPend = s.tmPend ∧ (s.updEngine o f).netBase = s.netBase ∧
    (s.updEngine o f).sampleStart = s.sampleStart ∧ (s.updEngine o f).sampleWin = s.sampleWin ∧
    (s.updEngine o f).bwStart = s.bwStart ∧ (s.updEngine o f).bwWin = s.bwWin ∧ (s.updEngine o f).home = s.home ∧
    (s.updEngine o f).cache = s.cache ∧ (s.updEngine o f).cacheFill = s.cacheFill ∧ (s.updEngine o f).tables = s.tables ∧
    (s.updEngine o f).chan = s.chan ∧ (s.updEngine o f).lookups = s.lookups ∧ (s.updEngine o f).hostRecs = s.hostRecs ∧
    (s.updEngine o f).loads = s.loads ∧ (s.updEngine o f).tblWait = s.tblWait ∧ (s.updEngine o f).sheaves = s.sheaves ∧
    (s.updEngine o f).groups = s.groups ∧ (s.updEngine o f).doms = s.doms ∧ (s.updEngine o f).held = s.held ∧
    (s.updEngine o f).nextFid = s.nextFid ∧ (s.updEngine o f).waiting = s.waiting ∧ (s.updEngine o f).flying = s.flying ∧
    (s.updEngine o f).streams = s.streams ∧ (s.updEngine o f).reseq = s.reseq ∧ (s.updEngine o f).s1 = s.s1 ∧
    (s.updEngine o f).s2 = s.s2 ∧ (s.updEngine o f).s1count = s.s1count ∧ (s.updEngine o f).arriving = s.arriving ∧
    (s.updEngine o f).lanesIn = s.lanesIn ∧ (s.updEngine o f).arrivals = s.arrivals ∧
    (s.updEngine o f).floors = s.floors ∧ (s.updEngine o f).plans = s.plans ∧ (s.updEngine o f).loadQ = s.loadQ ∧
    (s.updEngine o f).mashIn = s.mashIn ∧ (s.updEngine o f).respIn = s.respIn ∧ (s.updEngine o f).pitchIn = s.pitchIn ∧
    (s.updEngine o f).svcSeq = s.svcSeq ∧ (s.updEngine o f).tuns = s.tuns ∧ (s.updEngine o f).arrays = s.arrays ∧
    (s.updEngine o f).kstreams = s.kstreams ∧ (s.updEngine o f).lasers = s.lasers ∧ (s.updEngine o f).rings1 = s.rings1 ∧
    (s.updEngine o f).meshes = s.meshes ∧ (s.updEngine o f).bundles = s.bundles ∧ (s.updEngine o f).dirs = s.dirs ∧
    (s.updEngine o f).pitch = s.pitch ∧ (s.updEngine o f).pitchAcks = s.pitchAcks ∧
    (s.updEngine o f).pitchDoms = s.pitchDoms ∧ (s.updEngine o f).cask = s.cask ∧ (s.updEngine o f).stageLeft = s.stageLeft ∧
    (s.updEngine o f).expulsions = s.expulsions ∧ (s.updEngine o f).launches = s.launches ∧
    (s.updEngine o f).tap = s.tap ∧ (s.updEngine o f).blockRst = s.blockRst ∧ (s.updEngine o f).nvLasers = s.nvLasers ∧ (s.updEngine o f).nvSecond = s.nvSecond ∧
    (s.updEngine o f).sec = s.sec ∧ (s.updEngine o f).pwr = s.pwr ∧ (s.updEngine o f).out = s.out ∧
    (s.updEngine o f).strikes = s.strikes := by
  simp only [State.updEngine, and_self]

@[simp] theorem State.updLaser_others (s : State) (o n : Nat) (f : Laser → Laser) :
    (s.updLaser o n f).pending = s.pending ∧ (s.updLaser o n f).freeCtr = s.freeCtr ∧ (s.updLaser o n f).regs = s.regs ∧
    (s.updLaser o n f).shadow = s.shadow ∧ (s.updLaser o n f).stage64 = s.stage64 ∧
    (s.updLaser o n f).stageTm = s.stageTm ∧ (s.updLaser o n f).fracLatch = s.fracLatch ∧
    (s.updLaser o n f).pageShadow = s.pageShadow ∧ (s.updLaser o n f).ctrs = s.ctrs ∧ (s.updLaser o n f).rst = s.rst ∧
    (s.updLaser o n f).clk = s.clk ∧ (s.updLaser o n f).pins = s.pins ∧ (s.updLaser o n f).time = s.time ∧
    (s.updLaser o n f).hif = s.hif ∧ (s.updLaser o n f).rings = s.rings ∧ (s.updLaser o n f).err = s.err ∧
    (s.updLaser o n f).ports = s.ports ∧ (s.updLaser o n f).queues = s.queues ∧ (s.updLaser o n f).pols = s.pols ∧
    (s.updLaser o n f).tmShapeEn = s.tmShapeEn ∧ (s.updLaser o n f).tmPolEn = s.tmPolEn ∧ (s.updLaser o n f).tmPend = s.tmPend ∧
    (s.updLaser o n f).netBase = s.netBase ∧ (s.updLaser o n f).sampleStart = s.sampleStart ∧
    (s.updLaser o n f).sampleWin = s.sampleWin ∧ (s.updLaser o n f).bwStart = s.bwStart ∧
    (s.updLaser o n f).bwWin = s.bwWin ∧ (s.updLaser o n f).home = s.home ∧ (s.updLaser o n f).cache = s.cache ∧
    (s.updLaser o n f).cacheFill = s.cacheFill ∧ (s.updLaser o n f).tables = s.tables ∧
    (s.updLaser o n f).chan = s.chan ∧ (s.updLaser o n f).lookups = s.lookups ∧
    (s.updLaser o n f).hostRecs = s.hostRecs ∧ (s.updLaser o n f).loads = s.loads ∧
    (s.updLaser o n f).tblWait = s.tblWait ∧ (s.updLaser o n f).sheaves = s.sheaves ∧
    (s.updLaser o n f).groups = s.groups ∧ (s.updLaser o n f).doms = s.doms ∧ (s.updLaser o n f).held = s.held ∧
    (s.updLaser o n f).nextFid = s.nextFid ∧ (s.updLaser o n f).waiting = s.waiting ∧
    (s.updLaser o n f).flying = s.flying ∧ (s.updLaser o n f).streams = s.streams ∧ (s.updLaser o n f).reseq = s.reseq ∧
    (s.updLaser o n f).s1 = s.s1 ∧ (s.updLaser o n f).s2 = s.s2 ∧ (s.updLaser o n f).s1count = s.s1count ∧
    (s.updLaser o n f).arriving = s.arriving ∧ (s.updLaser o n f).lanesIn = s.lanesIn ∧
    (s.updLaser o n f).arrivals = s.arrivals ∧ (s.updLaser o n f).floors = s.floors ∧
    (s.updLaser o n f).plans = s.plans ∧ (s.updLaser o n f).loadQ = s.loadQ ∧ (s.updLaser o n f).mashIn = s.mashIn ∧
    (s.updLaser o n f).respIn = s.respIn ∧ (s.updLaser o n f).pitchIn = s.pitchIn ∧
    (s.updLaser o n f).svcSeq = s.svcSeq ∧ (s.updLaser o n f).tuns = s.tuns ∧ (s.updLaser o n f).arrays = s.arrays ∧
    (s.updLaser o n f).kstreams = s.kstreams ∧ (s.updLaser o n f).rings1 = s.rings1 ∧
    (s.updLaser o n f).engines = s.engines ∧ (s.updLaser o n f).meshes = s.meshes ∧
    (s.updLaser o n f).bundles = s.bundles ∧ (s.updLaser o n f).dirs = s.dirs ∧ (s.updLaser o n f).pitch = s.pitch ∧
    (s.updLaser o n f).pitchAcks = s.pitchAcks ∧ (s.updLaser o n f).pitchDoms = s.pitchDoms ∧
    (s.updLaser o n f).cask = s.cask ∧ (s.updLaser o n f).stageLeft = s.stageLeft ∧ (s.updLaser o n f).expulsions = s.expulsions ∧
    (s.updLaser o n f).launches = s.launches ∧ (s.updLaser o n f).tap = s.tap ∧
    (s.updLaser o n f).blockRst = s.blockRst ∧ (s.updLaser o n f).nvLasers = s.nvLasers ∧ (s.updLaser o n f).nvSecond = s.nvSecond ∧
    (s.updLaser o n f).sec = s.sec ∧ (s.updLaser o n f).pwr = s.pwr ∧ (s.updLaser o n f).out = s.out ∧
    (s.updLaser o n f).strikes = s.strikes := by
  simp only [State.updLaser, and_self]

@[simp] theorem State.updMesh_others (s : State) (g : Nat) (f : MeshSt → MeshSt) :
    (s.updMesh g f).pending = s.pending ∧ (s.updMesh g f).freeCtr = s.freeCtr ∧ (s.updMesh g f).regs = s.regs ∧
    (s.updMesh g f).shadow = s.shadow ∧ (s.updMesh g f).stage64 = s.stage64 ∧ (s.updMesh g f).stageTm = s.stageTm ∧
    (s.updMesh g f).fracLatch = s.fracLatch ∧ (s.updMesh g f).pageShadow = s.pageShadow ∧ (s.updMesh g f).ctrs = s.ctrs ∧
    (s.updMesh g f).rst = s.rst ∧ (s.updMesh g f).clk = s.clk ∧ (s.updMesh g f).pins = s.pins ∧
    (s.updMesh g f).time = s.time ∧ (s.updMesh g f).hif = s.hif ∧ (s.updMesh g f).rings = s.rings ∧
    (s.updMesh g f).err = s.err ∧ (s.updMesh g f).ports = s.ports ∧ (s.updMesh g f).queues = s.queues ∧
    (s.updMesh g f).pols = s.pols ∧ (s.updMesh g f).tmShapeEn = s.tmShapeEn ∧ (s.updMesh g f).tmPolEn = s.tmPolEn ∧ (s.updMesh g f).tmPend = s.tmPend ∧
    (s.updMesh g f).netBase = s.netBase ∧ (s.updMesh g f).sampleStart = s.sampleStart ∧
    (s.updMesh g f).sampleWin = s.sampleWin ∧ (s.updMesh g f).bwStart = s.bwStart ∧ (s.updMesh g f).bwWin = s.bwWin ∧
    (s.updMesh g f).home = s.home ∧ (s.updMesh g f).cache = s.cache ∧ (s.updMesh g f).cacheFill = s.cacheFill ∧
    (s.updMesh g f).tables = s.tables ∧ (s.updMesh g f).chan = s.chan ∧ (s.updMesh g f).lookups = s.lookups ∧
    (s.updMesh g f).hostRecs = s.hostRecs ∧ (s.updMesh g f).loads = s.loads ∧ (s.updMesh g f).tblWait = s.tblWait ∧
    (s.updMesh g f).sheaves = s.sheaves ∧ (s.updMesh g f).groups = s.groups ∧ (s.updMesh g f).doms = s.doms ∧
    (s.updMesh g f).held = s.held ∧ (s.updMesh g f).nextFid = s.nextFid ∧ (s.updMesh g f).waiting = s.waiting ∧
    (s.updMesh g f).flying = s.flying ∧ (s.updMesh g f).streams = s.streams ∧ (s.updMesh g f).reseq = s.reseq ∧
    (s.updMesh g f).s1 = s.s1 ∧ (s.updMesh g f).s2 = s.s2 ∧ (s.updMesh g f).s1count = s.s1count ∧
    (s.updMesh g f).arriving = s.arriving ∧ (s.updMesh g f).lanesIn = s.lanesIn ∧ (s.updMesh g f).arrivals = s.arrivals ∧
    (s.updMesh g f).floors = s.floors ∧ (s.updMesh g f).plans = s.plans ∧ (s.updMesh g f).loadQ = s.loadQ ∧
    (s.updMesh g f).mashIn = s.mashIn ∧ (s.updMesh g f).respIn = s.respIn ∧ (s.updMesh g f).pitchIn = s.pitchIn ∧
    (s.updMesh g f).svcSeq = s.svcSeq ∧ (s.updMesh g f).tuns = s.tuns ∧ (s.updMesh g f).arrays = s.arrays ∧
    (s.updMesh g f).kstreams = s.kstreams ∧ (s.updMesh g f).lasers = s.lasers ∧ (s.updMesh g f).rings1 = s.rings1 ∧
    (s.updMesh g f).engines = s.engines ∧ (s.updMesh g f).bundles = s.bundles ∧ (s.updMesh g f).dirs = s.dirs ∧
    (s.updMesh g f).pitch = s.pitch ∧ (s.updMesh g f).pitchAcks = s.pitchAcks ∧ (s.updMesh g f).pitchDoms = s.pitchDoms ∧
    (s.updMesh g f).cask = s.cask ∧ (s.updMesh g f).stageLeft = s.stageLeft ∧ (s.updMesh g f).expulsions = s.expulsions ∧ (s.updMesh g f).launches = s.launches ∧
    (s.updMesh g f).tap = s.tap ∧ (s.updMesh g f).blockRst = s.blockRst ∧ (s.updMesh g f).nvLasers = s.nvLasers ∧ (s.updMesh g f).nvSecond = s.nvSecond ∧
    (s.updMesh g f).sec = s.sec ∧ (s.updMesh g f).pwr = s.pwr ∧ (s.updMesh g f).out = s.out ∧
    (s.updMesh g f).strikes = s.strikes := by
  simp only [State.updMesh, and_self]

@[simp] theorem State.updBundle_others (s : State) (x y b : Nat) (f : BundleSt → BundleSt) :
    (s.updBundle x y b f).pending = s.pending ∧ (s.updBundle x y b f).freeCtr = s.freeCtr ∧
    (s.updBundle x y b f).regs = s.regs ∧ (s.updBundle x y b f).shadow = s.shadow ∧
    (s.updBundle x y b f).stage64 = s.stage64 ∧ (s.updBundle x y b f).stageTm = s.stageTm ∧
    (s.updBundle x y b f).fracLatch = s.fracLatch ∧ (s.updBundle x y b f).pageShadow = s.pageShadow ∧
    (s.updBundle x y b f).ctrs = s.ctrs ∧ (s.updBundle x y b f).rst = s.rst ∧ (s.updBundle x y b f).clk = s.clk ∧
    (s.updBundle x y b f).pins = s.pins ∧ (s.updBundle x y b f).time = s.time ∧ (s.updBundle x y b f).hif = s.hif ∧
    (s.updBundle x y b f).rings = s.rings ∧ (s.updBundle x y b f).err = s.err ∧ (s.updBundle x y b f).ports = s.ports ∧
    (s.updBundle x y b f).queues = s.queues ∧ (s.updBundle x y b f).pols = s.pols ∧
    (s.updBundle x y b f).tmShapeEn = s.tmShapeEn ∧ (s.updBundle x y b f).tmPolEn = s.tmPolEn ∧ (s.updBundle x y b f).tmPend = s.tmPend ∧
    (s.updBundle x y b f).netBase = s.netBase ∧ (s.updBundle x y b f).sampleStart = s.sampleStart ∧
    (s.updBundle x y b f).sampleWin = s.sampleWin ∧ (s.updBundle x y b f).bwStart = s.bwStart ∧
    (s.updBundle x y b f).bwWin = s.bwWin ∧ (s.updBundle x y b f).home = s.home ∧ (s.updBundle x y b f).cache = s.cache ∧
    (s.updBundle x y b f).cacheFill = s.cacheFill ∧ (s.updBundle x y b f).tables = s.tables ∧
    (s.updBundle x y b f).chan = s.chan ∧ (s.updBundle x y b f).lookups = s.lookups ∧
    (s.updBundle x y b f).hostRecs = s.hostRecs ∧ (s.updBundle x y b f).loads = s.loads ∧
    (s.updBundle x y b f).tblWait = s.tblWait ∧ (s.updBundle x y b f).sheaves = s.sheaves ∧
    (s.updBundle x y b f).groups = s.groups ∧ (s.updBundle x y b f).doms = s.doms ∧ (s.updBundle x y b f).held = s.held ∧
    (s.updBundle x y b f).nextFid = s.nextFid ∧ (s.updBundle x y b f).waiting = s.waiting ∧
    (s.updBundle x y b f).flying = s.flying ∧ (s.updBundle x y b f).streams = s.streams ∧
    (s.updBundle x y b f).reseq = s.reseq ∧ (s.updBundle x y b f).s1 = s.s1 ∧ (s.updBundle x y b f).s2 = s.s2 ∧
    (s.updBundle x y b f).s1count = s.s1count ∧ (s.updBundle x y b f).arriving = s.arriving ∧
    (s.updBundle x y b f).lanesIn = s.lanesIn ∧ (s.updBundle x y b f).arrivals = s.arrivals ∧
    (s.updBundle x y b f).floors = s.floors ∧ (s.updBundle x y b f).plans = s.plans ∧
    (s.updBundle x y b f).loadQ = s.loadQ ∧ (s.updBundle x y b f).mashIn = s.mashIn ∧
    (s.updBundle x y b f).respIn = s.respIn ∧ (s.updBundle x y b f).pitchIn = s.pitchIn ∧
    (s.updBundle x y b f).svcSeq = s.svcSeq ∧ (s.updBundle x y b f).tuns = s.tuns ∧
    (s.updBundle x y b f).arrays = s.arrays ∧ (s.updBundle x y b f).kstreams = s.kstreams ∧
    (s.updBundle x y b f).lasers = s.lasers ∧ (s.updBundle x y b f).rings1 = s.rings1 ∧
    (s.updBundle x y b f).engines = s.engines ∧ (s.updBundle x y b f).meshes = s.meshes ∧
    (s.updBundle x y b f).dirs = s.dirs ∧ (s.updBundle x y b f).pitch = s.pitch ∧
    (s.updBundle x y b f).pitchAcks = s.pitchAcks ∧ (s.updBundle x y b f).pitchDoms = s.pitchDoms ∧
    (s.updBundle x y b f).cask = s.cask ∧ (s.updBundle x y b f).stageLeft = s.stageLeft ∧ (s.updBundle x y b f).expulsions = s.expulsions ∧
    (s.updBundle x y b f).launches = s.launches ∧ (s.updBundle x y b f).tap = s.tap ∧
    (s.updBundle x y b f).blockRst = s.blockRst ∧ (s.updBundle x y b f).nvLasers = s.nvLasers ∧ (s.updBundle x y b f).nvSecond = s.nvSecond ∧
    (s.updBundle x y b f).sec = s.sec ∧ (s.updBundle x y b f).pwr = s.pwr ∧ (s.updBundle x y b f).out = s.out ∧
    (s.updBundle x y b f).strikes = s.strikes := by
  simp only [State.updBundle, and_self]

@[simp] theorem State.updMicroRing_others (s : State) (r : RingId) (f : MicroRing → MicroRing) :
    (s.updMicroRing r f).pending = s.pending ∧ (s.updMicroRing r f).freeCtr = s.freeCtr ∧
    (s.updMicroRing r f).regs = s.regs ∧ (s.updMicroRing r f).shadow = s.shadow ∧
    (s.updMicroRing r f).stage64 = s.stage64 ∧ (s.updMicroRing r f).stageTm = s.stageTm ∧
    (s.updMicroRing r f).fracLatch = s.fracLatch ∧ (s.updMicroRing r f).pageShadow = s.pageShadow ∧
    (s.updMicroRing r f).ctrs = s.ctrs ∧ (s.updMicroRing r f).rst = s.rst ∧ (s.updMicroRing r f).clk = s.clk ∧
    (s.updMicroRing r f).pins = s.pins ∧ (s.updMicroRing r f).time = s.time ∧ (s.updMicroRing r f).hif = s.hif ∧
    (s.updMicroRing r f).rings = s.rings ∧ (s.updMicroRing r f).err = s.err ∧ (s.updMicroRing r f).ports = s.ports ∧
    (s.updMicroRing r f).queues = s.queues ∧ (s.updMicroRing r f).pols = s.pols ∧
    (s.updMicroRing r f).tmShapeEn = s.tmShapeEn ∧ (s.updMicroRing r f).tmPolEn = s.tmPolEn ∧ (s.updMicroRing r f).tmPend = s.tmPend ∧
    (s.updMicroRing r f).netBase = s.netBase ∧ (s.updMicroRing r f).sampleStart = s.sampleStart ∧
    (s.updMicroRing r f).sampleWin = s.sampleWin ∧ (s.updMicroRing r f).bwStart = s.bwStart ∧
    (s.updMicroRing r f).bwWin = s.bwWin ∧ (s.updMicroRing r f).home = s.home ∧ (s.updMicroRing r f).cache = s.cache ∧
    (s.updMicroRing r f).cacheFill = s.cacheFill ∧ (s.updMicroRing r f).tables = s.tables ∧
    (s.updMicroRing r f).chan = s.chan ∧ (s.updMicroRing r f).lookups = s.lookups ∧
    (s.updMicroRing r f).hostRecs = s.hostRecs ∧ (s.updMicroRing r f).loads = s.loads ∧
    (s.updMicroRing r f).tblWait = s.tblWait ∧ (s.updMicroRing r f).sheaves = s.sheaves ∧
    (s.updMicroRing r f).groups = s.groups ∧ (s.updMicroRing r f).doms = s.doms ∧ (s.updMicroRing r f).held = s.held ∧
    (s.updMicroRing r f).nextFid = s.nextFid ∧ (s.updMicroRing r f).waiting = s.waiting ∧
    (s.updMicroRing r f).flying = s.flying ∧ (s.updMicroRing r f).streams = s.streams ∧
    (s.updMicroRing r f).reseq = s.reseq ∧ (s.updMicroRing r f).s1 = s.s1 ∧ (s.updMicroRing r f).s2 = s.s2 ∧
    (s.updMicroRing r f).s1count = s.s1count ∧ (s.updMicroRing r f).arriving = s.arriving ∧
    (s.updMicroRing r f).lanesIn = s.lanesIn ∧ (s.updMicroRing r f).arrivals = s.arrivals ∧
    (s.updMicroRing r f).floors = s.floors ∧ (s.updMicroRing r f).plans = s.plans ∧
    (s.updMicroRing r f).loadQ = s.loadQ ∧ (s.updMicroRing r f).mashIn = s.mashIn ∧
    (s.updMicroRing r f).respIn = s.respIn ∧ (s.updMicroRing r f).pitchIn = s.pitchIn ∧
    (s.updMicroRing r f).svcSeq = s.svcSeq ∧ (s.updMicroRing r f).tuns = s.tuns ∧
    (s.updMicroRing r f).arrays = s.arrays ∧ (s.updMicroRing r f).kstreams = s.kstreams ∧
    (s.updMicroRing r f).lasers = s.lasers ∧ (s.updMicroRing r f).engines = s.engines ∧
    (s.updMicroRing r f).meshes = s.meshes ∧ (s.updMicroRing r f).bundles = s.bundles ∧
    (s.updMicroRing r f).dirs = s.dirs ∧ (s.updMicroRing r f).pitch = s.pitch ∧
    (s.updMicroRing r f).pitchAcks = s.pitchAcks ∧ (s.updMicroRing r f).pitchDoms = s.pitchDoms ∧
    (s.updMicroRing r f).cask = s.cask ∧ (s.updMicroRing r f).stageLeft = s.stageLeft ∧ (s.updMicroRing r f).expulsions = s.expulsions ∧
    (s.updMicroRing r f).launches = s.launches ∧ (s.updMicroRing r f).tap = s.tap ∧
    (s.updMicroRing r f).blockRst = s.blockRst ∧ (s.updMicroRing r f).nvLasers = s.nvLasers ∧ (s.updMicroRing r f).nvSecond = s.nvSecond ∧
    (s.updMicroRing r f).sec = s.sec ∧ (s.updMicroRing r f).pwr = s.pwr ∧ (s.updMicroRing r f).out = s.out ∧
    (s.updMicroRing r f).strikes = s.strikes := by
  simp only [State.updMicroRing, and_self]

@[simp] theorem State.updPitch_others (s : State) (k : Nat) (f : PitchImg → PitchImg) :
    (s.updPitch k f).pending = s.pending ∧ (s.updPitch k f).freeCtr = s.freeCtr ∧ (s.updPitch k f).regs = s.regs ∧
    (s.updPitch k f).shadow = s.shadow ∧ (s.updPitch k f).stage64 = s.stage64 ∧ (s.updPitch k f).stageTm = s.stageTm ∧
    (s.updPitch k f).fracLatch = s.fracLatch ∧ (s.updPitch k f).pageShadow = s.pageShadow ∧
    (s.updPitch k f).ctrs = s.ctrs ∧ (s.updPitch k f).rst = s.rst ∧ (s.updPitch k f).clk = s.clk ∧
    (s.updPitch k f).pins = s.pins ∧ (s.updPitch k f).time = s.time ∧ (s.updPitch k f).hif = s.hif ∧
    (s.updPitch k f).rings = s.rings ∧ (s.updPitch k f).err = s.err ∧ (s.updPitch k f).ports = s.ports ∧
    (s.updPitch k f).queues = s.queues ∧ (s.updPitch k f).pols = s.pols ∧ (s.updPitch k f).tmShapeEn = s.tmShapeEn ∧
    (s.updPitch k f).tmPolEn = s.tmPolEn ∧ (s.updPitch k f).tmPend = s.tmPend ∧ (s.updPitch k f).netBase = s.netBase ∧
    (s.updPitch k f).sampleStart = s.sampleStart ∧ (s.updPitch k f).sampleWin = s.sampleWin ∧
    (s.updPitch k f).bwStart = s.bwStart ∧ (s.updPitch k f).bwWin = s.bwWin ∧ (s.updPitch k f).home = s.home ∧
    (s.updPitch k f).cache = s.cache ∧ (s.updPitch k f).cacheFill = s.cacheFill ∧ (s.updPitch k f).tables = s.tables ∧
    (s.updPitch k f).chan = s.chan ∧ (s.updPitch k f).lookups = s.lookups ∧ (s.updPitch k f).hostRecs = s.hostRecs ∧
    (s.updPitch k f).loads = s.loads ∧ (s.updPitch k f).tblWait = s.tblWait ∧ (s.updPitch k f).sheaves = s.sheaves ∧
    (s.updPitch k f).groups = s.groups ∧ (s.updPitch k f).doms = s.doms ∧ (s.updPitch k f).held = s.held ∧
    (s.updPitch k f).nextFid = s.nextFid ∧ (s.updPitch k f).waiting = s.waiting ∧ (s.updPitch k f).flying = s.flying ∧
    (s.updPitch k f).streams = s.streams ∧ (s.updPitch k f).reseq = s.reseq ∧ (s.updPitch k f).s1 = s.s1 ∧
    (s.updPitch k f).s2 = s.s2 ∧ (s.updPitch k f).s1count = s.s1count ∧ (s.updPitch k f).arriving = s.arriving ∧
    (s.updPitch k f).lanesIn = s.lanesIn ∧ (s.updPitch k f).arrivals = s.arrivals ∧ (s.updPitch k f).floors = s.floors ∧
    (s.updPitch k f).plans = s.plans ∧ (s.updPitch k f).loadQ = s.loadQ ∧ (s.updPitch k f).mashIn = s.mashIn ∧
    (s.updPitch k f).respIn = s.respIn ∧ (s.updPitch k f).pitchIn = s.pitchIn ∧ (s.updPitch k f).svcSeq = s.svcSeq ∧
    (s.updPitch k f).tuns = s.tuns ∧ (s.updPitch k f).arrays = s.arrays ∧ (s.updPitch k f).kstreams = s.kstreams ∧
    (s.updPitch k f).lasers = s.lasers ∧ (s.updPitch k f).rings1 = s.rings1 ∧ (s.updPitch k f).engines = s.engines ∧
    (s.updPitch k f).meshes = s.meshes ∧ (s.updPitch k f).bundles = s.bundles ∧ (s.updPitch k f).dirs = s.dirs ∧
    (s.updPitch k f).pitchAcks = s.pitchAcks ∧ (s.updPitch k f).pitchDoms = s.pitchDoms ∧
    (s.updPitch k f).cask = s.cask ∧ (s.updPitch k f).stageLeft = s.stageLeft ∧ (s.updPitch k f).expulsions = s.expulsions ∧
    (s.updPitch k f).launches = s.launches ∧ (s.updPitch k f).tap = s.tap ∧ (s.updPitch k f).blockRst = s.blockRst ∧
    (s.updPitch k f).nvLasers = s.nvLasers ∧ (s.updPitch k f).nvSecond = s.nvSecond ∧ (s.updPitch k f).sec = s.sec ∧ (s.updPitch k f).pwr = s.pwr ∧
    (s.updPitch k f).out = s.out ∧ (s.updPitch k f).strikes = s.strikes := by
  simp only [State.updPitch, and_self]

@[simp] theorem State.updTun_others (s : State) (k : Nat) (f : TunSt → TunSt) :
    (s.updTun k f).pending = s.pending ∧ (s.updTun k f).freeCtr = s.freeCtr ∧ (s.updTun k f).regs = s.regs ∧
    (s.updTun k f).shadow = s.shadow ∧ (s.updTun k f).stage64 = s.stage64 ∧ (s.updTun k f).stageTm = s.stageTm ∧
    (s.updTun k f).fracLatch = s.fracLatch ∧ (s.updTun k f).pageShadow = s.pageShadow ∧ (s.updTun k f).ctrs = s.ctrs ∧
    (s.updTun k f).rst = s.rst ∧ (s.updTun k f).clk = s.clk ∧ (s.updTun k f).pins = s.pins ∧
    (s.updTun k f).time = s.time ∧ (s.updTun k f).hif = s.hif ∧ (s.updTun k f).rings = s.rings ∧
    (s.updTun k f).err = s.err ∧ (s.updTun k f).ports = s.ports ∧ (s.updTun k f).queues = s.queues ∧
    (s.updTun k f).pols = s.pols ∧ (s.updTun k f).tmShapeEn = s.tmShapeEn ∧ (s.updTun k f).tmPolEn = s.tmPolEn ∧ (s.updTun k f).tmPend = s.tmPend ∧
    (s.updTun k f).netBase = s.netBase ∧ (s.updTun k f).sampleStart = s.sampleStart ∧
    (s.updTun k f).sampleWin = s.sampleWin ∧ (s.updTun k f).bwStart = s.bwStart ∧ (s.updTun k f).bwWin = s.bwWin ∧
    (s.updTun k f).home = s.home ∧ (s.updTun k f).cache = s.cache ∧ (s.updTun k f).cacheFill = s.cacheFill ∧
    (s.updTun k f).tables = s.tables ∧ (s.updTun k f).chan = s.chan ∧ (s.updTun k f).lookups = s.lookups ∧
    (s.updTun k f).hostRecs = s.hostRecs ∧ (s.updTun k f).loads = s.loads ∧ (s.updTun k f).tblWait = s.tblWait ∧
    (s.updTun k f).sheaves = s.sheaves ∧ (s.updTun k f).groups = s.groups ∧ (s.updTun k f).doms = s.doms ∧
    (s.updTun k f).held = s.held ∧ (s.updTun k f).nextFid = s.nextFid ∧ (s.updTun k f).waiting = s.waiting ∧
    (s.updTun k f).flying = s.flying ∧ (s.updTun k f).streams = s.streams ∧ (s.updTun k f).reseq = s.reseq ∧
    (s.updTun k f).s1 = s.s1 ∧ (s.updTun k f).s2 = s.s2 ∧ (s.updTun k f).s1count = s.s1count ∧
    (s.updTun k f).arriving = s.arriving ∧ (s.updTun k f).lanesIn = s.lanesIn ∧ (s.updTun k f).arrivals = s.arrivals ∧
    (s.updTun k f).floors = s.floors ∧ (s.updTun k f).plans = s.plans ∧ (s.updTun k f).loadQ = s.loadQ ∧
    (s.updTun k f).mashIn = s.mashIn ∧ (s.updTun k f).respIn = s.respIn ∧ (s.updTun k f).pitchIn = s.pitchIn ∧
    (s.updTun k f).svcSeq = s.svcSeq ∧ (s.updTun k f).arrays = s.arrays ∧ (s.updTun k f).kstreams = s.kstreams ∧
    (s.updTun k f).lasers = s.lasers ∧ (s.updTun k f).rings1 = s.rings1 ∧ (s.updTun k f).engines = s.engines ∧
    (s.updTun k f).meshes = s.meshes ∧ (s.updTun k f).bundles = s.bundles ∧ (s.updTun k f).dirs = s.dirs ∧
    (s.updTun k f).pitch = s.pitch ∧ (s.updTun k f).pitchAcks = s.pitchAcks ∧ (s.updTun k f).pitchDoms = s.pitchDoms ∧
    (s.updTun k f).cask = s.cask ∧ (s.updTun k f).stageLeft = s.stageLeft ∧ (s.updTun k f).expulsions = s.expulsions ∧ (s.updTun k f).launches = s.launches ∧
    (s.updTun k f).tap = s.tap ∧ (s.updTun k f).blockRst = s.blockRst ∧ (s.updTun k f).nvLasers = s.nvLasers ∧ (s.updTun k f).nvSecond = s.nvSecond ∧
    (s.updTun k f).sec = s.sec ∧ (s.updTun k f).pwr = s.pwr ∧ (s.updTun k f).out = s.out ∧
    (s.updTun k f).strikes = s.strikes := by
  simp only [State.updTun, and_self]

@[simp] theorem State.setReg_others (s : State) (r : Reg) (ix : List Nat) (v : Nat) :
    (s.setReg r ix v).pending = s.pending ∧ (s.setReg r ix v).freeCtr = s.freeCtr ∧ (s.setReg r ix v).shadow = s.shadow ∧
    (s.setReg r ix v).stage64 = s.stage64 ∧ (s.setReg r ix v).stageTm = s.stageTm ∧
    (s.setReg r ix v).fracLatch = s.fracLatch ∧ (s.setReg r ix v).pageShadow = s.pageShadow ∧
    (s.setReg r ix v).ctrs = s.ctrs ∧ (s.setReg r ix v).rst = s.rst ∧ (s.setReg r ix v).clk = s.clk ∧
    (s.setReg r ix v).pins = s.pins ∧ (s.setReg r ix v).time = s.time ∧ (s.setReg r ix v).hif = s.hif ∧
    (s.setReg r ix v).rings = s.rings ∧ (s.setReg r ix v).err = s.err ∧ (s.setReg r ix v).ports = s.ports ∧
    (s.setReg r ix v).queues = s.queues ∧ (s.setReg r ix v).pols = s.pols ∧ (s.setReg r ix v).tmShapeEn = s.tmShapeEn ∧
    (s.setReg r ix v).tmPolEn = s.tmPolEn ∧ (s.setReg r ix v).tmPend = s.tmPend ∧ (s.setReg r ix v).netBase = s.netBase ∧
    (s.setReg r ix v).sampleStart = s.sampleStart ∧ (s.setReg r ix v).sampleWin = s.sampleWin ∧
    (s.setReg r ix v).bwStart = s.bwStart ∧ (s.setReg r ix v).bwWin = s.bwWin ∧ (s.setReg r ix v).home = s.home ∧
    (s.setReg r ix v).cache = s.cache ∧ (s.setReg r ix v).cacheFill = s.cacheFill ∧ (s.setReg r ix v).tables = s.tables ∧
    (s.setReg r ix v).chan = s.chan ∧ (s.setReg r ix v).lookups = s.lookups ∧ (s.setReg r ix v).hostRecs = s.hostRecs ∧
    (s.setReg r ix v).loads = s.loads ∧ (s.setReg r ix v).tblWait = s.tblWait ∧ (s.setReg r ix v).sheaves = s.sheaves ∧
    (s.setReg r ix v).groups = s.groups ∧ (s.setReg r ix v).doms = s.doms ∧ (s.setReg r ix v).held = s.held ∧
    (s.setReg r ix v).nextFid = s.nextFid ∧ (s.setReg r ix v).waiting = s.waiting ∧ (s.setReg r ix v).flying = s.flying ∧
    (s.setReg r ix v).streams = s.streams ∧ (s.setReg r ix v).reseq = s.reseq ∧ (s.setReg r ix v).s1 = s.s1 ∧
    (s.setReg r ix v).s2 = s.s2 ∧ (s.setReg r ix v).s1count = s.s1count ∧ (s.setReg r ix v).arriving = s.arriving ∧
    (s.setReg r ix v).lanesIn = s.lanesIn ∧ (s.setReg r ix v).arrivals = s.arrivals ∧
    (s.setReg r ix v).floors = s.floors ∧ (s.setReg r ix v).plans = s.plans ∧ (s.setReg r ix v).loadQ = s.loadQ ∧
    (s.setReg r ix v).mashIn = s.mashIn ∧ (s.setReg r ix v).respIn = s.respIn ∧ (s.setReg r ix v).pitchIn = s.pitchIn ∧
    (s.setReg r ix v).svcSeq = s.svcSeq ∧ (s.setReg r ix v).tuns = s.tuns ∧ (s.setReg r ix v).arrays = s.arrays ∧
    (s.setReg r ix v).kstreams = s.kstreams ∧ (s.setReg r ix v).lasers = s.lasers ∧ (s.setReg r ix v).rings1 = s.rings1 ∧
    (s.setReg r ix v).engines = s.engines ∧ (s.setReg r ix v).meshes = s.meshes ∧ (s.setReg r ix v).bundles = s.bundles ∧
    (s.setReg r ix v).dirs = s.dirs ∧ (s.setReg r ix v).pitch = s.pitch ∧ (s.setReg r ix v).pitchAcks = s.pitchAcks ∧
    (s.setReg r ix v).pitchDoms = s.pitchDoms ∧ (s.setReg r ix v).cask = s.cask ∧ (s.setReg r ix v).stageLeft = s.stageLeft ∧
    (s.setReg r ix v).expulsions = s.expulsions ∧ (s.setReg r ix v).launches = s.launches ∧
    (s.setReg r ix v).tap = s.tap ∧ (s.setReg r ix v).blockRst = s.blockRst ∧ (s.setReg r ix v).nvLasers = s.nvLasers ∧ (s.setReg r ix v).nvSecond = s.nvSecond ∧
    (s.setReg r ix v).sec = s.sec ∧ (s.setReg r ix v).pwr = s.pwr ∧ (s.setReg r ix v).out = s.out ∧
    (s.setReg r ix v).strikes = s.strikes := by
  simp only [State.setReg, and_self]

@[simp] theorem State.count_others (s : State) (g i n : Nat) :
    (s.count g i n).pending = s.pending ∧ (s.count g i n).freeCtr = s.freeCtr ∧ (s.count g i n).regs = s.regs ∧
    (s.count g i n).shadow = s.shadow ∧ (s.count g i n).stage64 = s.stage64 ∧ (s.count g i n).stageTm = s.stageTm ∧
    (s.count g i n).fracLatch = s.fracLatch ∧ (s.count g i n).pageShadow = s.pageShadow ∧ (s.count g i n).rst = s.rst ∧
    (s.count g i n).clk = s.clk ∧ (s.count g i n).pins = s.pins ∧ (s.count g i n).time = s.time ∧
    (s.count g i n).hif = s.hif ∧ (s.count g i n).rings = s.rings ∧ (s.count g i n).err = s.err ∧
    (s.count g i n).ports = s.ports ∧ (s.count g i n).queues = s.queues ∧ (s.count g i n).pols = s.pols ∧
    (s.count g i n).tmShapeEn = s.tmShapeEn ∧ (s.count g i n).tmPolEn = s.tmPolEn ∧ (s.count g i n).tmPend = s.tmPend ∧ (s.count g i n).netBase = s.netBase ∧
    (s.count g i n).sampleStart = s.sampleStart ∧ (s.count g i n).sampleWin = s.sampleWin ∧
    (s.count g i n).bwStart = s.bwStart ∧ (s.count g i n).bwWin = s.bwWin ∧ (s.count g i n).home = s.home ∧
    (s.count g i n).cache = s.cache ∧ (s.count g i n).cacheFill = s.cacheFill ∧ (s.count g i n).tables = s.tables ∧
    (s.count g i n).chan = s.chan ∧ (s.count g i n).lookups = s.lookups ∧ (s.count g i n).hostRecs = s.hostRecs ∧
    (s.count g i n).loads = s.loads ∧ (s.count g i n).tblWait = s.tblWait ∧ (s.count g i n).sheaves = s.sheaves ∧
    (s.count g i n).groups = s.groups ∧ (s.count g i n).doms = s.doms ∧ (s.count g i n).held = s.held ∧
    (s.count g i n).nextFid = s.nextFid ∧ (s.count g i n).waiting = s.waiting ∧ (s.count g i n).flying = s.flying ∧
    (s.count g i n).streams = s.streams ∧ (s.count g i n).reseq = s.reseq ∧ (s.count g i n).s1 = s.s1 ∧
    (s.count g i n).s2 = s.s2 ∧ (s.count g i n).s1count = s.s1count ∧ (s.count g i n).arriving = s.arriving ∧
    (s.count g i n).lanesIn = s.lanesIn ∧ (s.count g i n).arrivals = s.arrivals ∧ (s.count g i n).floors = s.floors ∧
    (s.count g i n).plans = s.plans ∧ (s.count g i n).loadQ = s.loadQ ∧ (s.count g i n).mashIn = s.mashIn ∧
    (s.count g i n).respIn = s.respIn ∧ (s.count g i n).pitchIn = s.pitchIn ∧ (s.count g i n).svcSeq = s.svcSeq ∧
    (s.count g i n).tuns = s.tuns ∧ (s.count g i n).arrays = s.arrays ∧ (s.count g i n).kstreams = s.kstreams ∧
    (s.count g i n).lasers = s.lasers ∧ (s.count g i n).rings1 = s.rings1 ∧ (s.count g i n).engines = s.engines ∧
    (s.count g i n).meshes = s.meshes ∧ (s.count g i n).bundles = s.bundles ∧ (s.count g i n).dirs = s.dirs ∧
    (s.count g i n).pitch = s.pitch ∧ (s.count g i n).pitchAcks = s.pitchAcks ∧ (s.count g i n).pitchDoms = s.pitchDoms ∧
    (s.count g i n).cask = s.cask ∧ (s.count g i n).stageLeft = s.stageLeft ∧ (s.count g i n).expulsions = s.expulsions ∧ (s.count g i n).launches = s.launches ∧
    (s.count g i n).tap = s.tap ∧ (s.count g i n).blockRst = s.blockRst ∧ (s.count g i n).nvLasers = s.nvLasers ∧ (s.count g i n).nvSecond = s.nvSecond ∧
    (s.count g i n).sec = s.sec ∧ (s.count g i n).pwr = s.pwr ∧ (s.count g i n).out = s.out ∧
    (s.count g i n).strikes = s.strikes := by
  simp only [State.count, and_self]

@[simp] theorem State.reply_others (s : State) (r : Reply) :
    (s.reply r).pending = s.pending ∧ (s.reply r).freeCtr = s.freeCtr ∧ (s.reply r).regs = s.regs ∧
    (s.reply r).shadow = s.shadow ∧ (s.reply r).stage64 = s.stage64 ∧ (s.reply r).stageTm = s.stageTm ∧
    (s.reply r).fracLatch = s.fracLatch ∧ (s.reply r).pageShadow = s.pageShadow ∧ (s.reply r).ctrs = s.ctrs ∧
    (s.reply r).rst = s.rst ∧ (s.reply r).clk = s.clk ∧ (s.reply r).pins = s.pins ∧ (s.reply r).time = s.time ∧
    (s.reply r).hif = s.hif ∧ (s.reply r).rings = s.rings ∧ (s.reply r).err = s.err ∧ (s.reply r).ports = s.ports ∧
    (s.reply r).queues = s.queues ∧ (s.reply r).pols = s.pols ∧ (s.reply r).tmShapeEn = s.tmShapeEn ∧
    (s.reply r).tmPolEn = s.tmPolEn ∧ (s.reply r).tmPend = s.tmPend ∧ (s.reply r).netBase = s.netBase ∧ (s.reply r).sampleStart = s.sampleStart ∧
    (s.reply r).sampleWin = s.sampleWin ∧ (s.reply r).bwStart = s.bwStart ∧ (s.reply r).bwWin = s.bwWin ∧
    (s.reply r).home = s.home ∧ (s.reply r).cache = s.cache ∧ (s.reply r).cacheFill = s.cacheFill ∧
    (s.reply r).tables = s.tables ∧ (s.reply r).chan = s.chan ∧ (s.reply r).lookups = s.lookups ∧
    (s.reply r).hostRecs = s.hostRecs ∧ (s.reply r).loads = s.loads ∧ (s.reply r).tblWait = s.tblWait ∧
    (s.reply r).sheaves = s.sheaves ∧ (s.reply r).groups = s.groups ∧ (s.reply r).doms = s.doms ∧
    (s.reply r).held = s.held ∧ (s.reply r).nextFid = s.nextFid ∧ (s.reply r).waiting = s.waiting ∧
    (s.reply r).flying = s.flying ∧ (s.reply r).streams = s.streams ∧ (s.reply r).reseq = s.reseq ∧
    (s.reply r).s1 = s.s1 ∧ (s.reply r).s2 = s.s2 ∧ (s.reply r).s1count = s.s1count ∧ (s.reply r).arriving = s.arriving ∧
    (s.reply r).lanesIn = s.lanesIn ∧ (s.reply r).arrivals = s.arrivals ∧ (s.reply r).floors = s.floors ∧
    (s.reply r).plans = s.plans ∧ (s.reply r).loadQ = s.loadQ ∧ (s.reply r).mashIn = s.mashIn ∧
    (s.reply r).respIn = s.respIn ∧ (s.reply r).pitchIn = s.pitchIn ∧ (s.reply r).svcSeq = s.svcSeq ∧
    (s.reply r).tuns = s.tuns ∧ (s.reply r).arrays = s.arrays ∧ (s.reply r).kstreams = s.kstreams ∧
    (s.reply r).lasers = s.lasers ∧ (s.reply r).rings1 = s.rings1 ∧ (s.reply r).engines = s.engines ∧
    (s.reply r).meshes = s.meshes ∧ (s.reply r).bundles = s.bundles ∧ (s.reply r).dirs = s.dirs ∧
    (s.reply r).pitch = s.pitch ∧ (s.reply r).pitchAcks = s.pitchAcks ∧ (s.reply r).pitchDoms = s.pitchDoms ∧
    (s.reply r).cask = s.cask ∧ (s.reply r).stageLeft = s.stageLeft ∧ (s.reply r).expulsions = s.expulsions ∧ (s.reply r).launches = s.launches ∧
    (s.reply r).tap = s.tap ∧ (s.reply r).blockRst = s.blockRst ∧ (s.reply r).nvLasers = s.nvLasers ∧ (s.reply r).nvSecond = s.nvSecond ∧
    (s.reply r).sec = s.sec ∧ (s.reply r).pwr = s.pwr ∧ (s.reply r).strikes = s.strikes := by
  simp only [State.reply, and_self]

/-! ### Reading an updated part -/

theorem State.port_updPort (s : State) (p j : Nat) (f : PortSt → PortSt) :
    (s.updPort p f).port j = if j = p then f (s.port p) else s.port j := SMap.get_modify _ _ _ _ _

theorem State.ring_updRing (s : State) (r j : Nat) (f : RingSt → RingSt) :
    (s.updRing r f).ring j = if j = r then f (s.ring r) else s.ring j := SMap.get_modify _ _ _ _ _

theorem State.queue_updQueue (s : State) (p n a b : Nat) (f : QueueSt → QueueSt) :
    (s.updQueue p n f).queue a b = if 8 * a + b = 8 * p + n then f (s.queue p n) else s.queue a b := SMap.get_modify _ _ _ _ _

theorem State.pol_updPol (s : State) (p t a b : Nat) (f : PolSt → PolSt) :
    (s.updPol p t f).pol a b = if 8 * a + b = 8 * p + t then f (s.pol p t) else s.pol a b := SMap.get_modify _ _ _ _ _

theorem State.table_updTable (s : State) (q j : Nat) (f : TableSt → TableSt) :
    (s.updTable q f).table j = if j = q then f (s.table q) else s.table j := SMap.get_modify _ _ _ _ _

theorem State.floor_updFloor (s : State) (q j : Nat) (f : FloorSt → FloorSt) :
    (s.updFloor q f).floor j = if j = q then f (s.floor q) else s.floor j := SMap.get_modify _ _ _ _ _

theorem State.array_updArray (s : State) (k j : Nat) (f : ArraySt → ArraySt) :
    (s.updArray k f).array j = if j = k then f (s.array k) else s.array j := SMap.get_modify _ _ _ _ _

theorem State.engine_updEngine (s : State) (o j : Nat) (f : EngineSt → EngineSt) :
    (s.updEngine o f).engine j = if j = o then f (s.engine o) else s.engine j := SMap.get_modify _ _ _ _ _

theorem State.mesh_updMesh (s : State) (g j : Nat) (f : MeshSt → MeshSt) :
    (s.updMesh g f).mesh j = if j = g then f (s.mesh g) else s.mesh j := SMap.get_modify _ _ _ _ _

theorem State.pitchImg_updPitch (s : State) (k j : Nat) (f : PitchImg → PitchImg) :
    (s.updPitch k f).pitchImg j = if j = k then f (s.pitchImg k) else s.pitchImg j := SMap.get_modify _ _ _ _ _

theorem State.tun_updTun (s : State) (k j : Nat) (f : TunSt → TunSt) :
    (s.updTun k f).tun j = if j = k then f (s.tun k) else s.tun j := SMap.get_modify _ _ _ _ _

theorem State.microRing_updMicroRing (s : State) (r j : RingId) (f : MicroRing → MicroRing) :
    (s.updMicroRing r f).microRing j = if ringKey j = ringKey r then f (s.microRing r) else s.microRing j :=
  SMap.get_modify _ _ _ _ _

theorem State.bundle_updBundle (s : State) (x y b x' y' b' : Nat) (f : BundleSt → BundleSt) :
    (s.updBundle x y b f).bundle x' y' b' =
      if (4 * x' + y') * 64 + b' = (4 * x + y) * 64 + b then f (s.bundle x y b) else s.bundle x' y' b' := SMap.get_modify _ _ _ _ _

/-- The word of a counter that an addition reaches. -/
@[simp] theorem Ctr.plus_word (c : Ctr) (now n : Nat) : (c.plus now n).word = ctrPlus c.word n := by
  unfold Ctr.plus; split <;> rfl

theorem State.ctr_count (s : State) (g i n a b : Nat) :
    (s.count g i n).ctr a b = if 512 * a + b = 512 * g + i then ctrPlus (s.ctr g i) n else s.ctr a b := by
  unfold State.count State.ctr
  dsimp only
  rw [SMap.get_modify]
  split <;> simp

end Sys2Proof.Machine
end

