-- ==== Sys2Proof/Laws/Host.lean ====
section
/-! SUPPORT. The life of a host command and of what the block tells the host: counters, entries, interrupts, events, records and
completions change nothing inside the block (`State.inner`), and a command that is offered runs. -/
namespace Sys2Proof.Machine

/-! ### Operations that stay outside `inner` -/

@[simp] theorem inner_inner (s : State) : s.inner.inner = s.inner := rfl
@[simp] theorem inner_ite (c : Prop) [Decidable c] (a b : State) : (if c then a else b).inner = if c then a.inner else b.inner :=
  apply_ite _ _ _ _
@[simp] theorem State.reply_inner (s : State) (r : Reply) : (s.reply r).inner = s.inner := rfl
@[simp] theorem State.count_inner (s : State) (g i n : Nat) : (s.count g i n).inner = s.inner := rfl
@[simp] theorem State.countPort_inner (s : State) (p i : Nat) : (s.countPort p i).inner = s.inner := rfl
@[simp] theorem State.countQuad_inner (s : State) (q i : Nat) : (s.countQuad q i).inner = s.inner := rfl
@[simp] theorem State.countDev_inner (s : State) (i : Nat) : (s.countDev i).inner = s.inner := rfl
@[simp] theorem State.ignoredWrite_inner (s : State) : s.ignoredWrite.inner = s.inner := rfl
@[simp] theorem State.updRing_inner (s : State) (r : Nat) (f : RingSt → RingSt) : (s.updRing r f).inner = s.inner := rfl
@[simp] theorem State.hif_inner (s : State) (h : HifSt) : State.inner { s with hif := h } = s.inner := rfl
@[simp] theorem State.out_inner (s : State) (o : OutSt) : State.inner { s with out := o } = s.inner := rfl
@[simp] theorem State.err_inner (s : State) (e : ErrSt) : State.inner { s with err := e } = s.inner := rfl

@[simp] theorem State.writeBack_inner (s : State) (r : Nat) : (s.writeBack r).inner = s.inner := by
  unfold State.writeBack; dsimp only; split <;> rfl

@[simp] theorem State.sendVector_inner (s : State) (v : Nat) : (s.sendVector v).inner = s.inner := by
  unfold State.sendVector; split <;> rfl

@[simp] theorem State.fireRing_inner (s : State) (r : Nat) : (s.fireRing r).inner = s.inner := by simp [State.fireRing]

@[simp] theorem State.judgeIrq_inner (s : State) (r : Nat) (now : Bool) : (s.judgeIrq r now).inner = s.inner := by
  unfold State.judgeIrq; repeat' split
  all_goals simp

@[simp] theorem State.putEntryNow_inner (s : State) (r k : Nat) (b : List Byte) (now : Bool) :
    (s.putEntryNow r k b now).inner = s.inner := by simp [State.putEntryNow]

@[simp] theorem State.putEntry_inner (s : State) (r : Nat) (b : List Byte) (now : Bool) : (s.putEntry r b now).inner = s.inner := by
  unfold State.putEntry; split <;> simp

@[simp] theorem State.eventBytes_inner (s : State) (e : List Byte) : (s.eventBytes e).inner = s.inner := by
  unfold State.eventBytes; split <;> simp

@[simp] theorem State.event_inner (s : State) (c : Nat) (ps : List (Nat × List Byte)) : (s.event c ps).inner = s.inner := by
  simp [State.event]

@[simp] theorem State.eventsLostNow_inner (s : State) : s.eventsLostNow.inner = s.inner := by
  unfold State.eventsLostNow; split <;> simp

@[simp] theorem State.portEvent_inner (s : State) (p a st : Nat) (m : BitVec 8) : (s.portEvent p a st m).inner = s.inner := by
  simp [State.portEvent]

@[simp] theorem State.error_inner (s : State) (cls sev quad : Byte) (d : List Byte) : (s.error cls sev quad d).inner = s.inner := by
  unfold State.error; repeat' split
  all_goals simp

@[simp] theorem State.errorAt_inner (s : State) (cls sev quad : Byte) (ps : List (Nat × List Byte)) :
    (s.errorAt cls sev quad ps).inner = s.inner := by simp [State.errorAt]

@[simp] theorem State.completeAs_inner (s : State) (ref : CmdRef) (st : Status) (more : Bool) (r : List Byte) :
    (s.completeAs ref st more r).inner = s.inner := by
  unfold State.completeAs
  split
  · rfl
  · simp

@[simp] theorem State.complete_inner (s : State) (ref : CmdRef) (st : Status) (r : List Byte) :
    (s.complete ref st r).inner = s.inner := by simp [State.complete]
@[simp] theorem State.succeed_inner (s : State) (ref : CmdRef) : (s.succeed ref).inner = s.inner := by simp [State.succeed]
@[simp] theorem State.refuse_inner (s : State) (ref : CmdRef) (c : Cause) (d : Nat) : (s.refuse ref c d).inner = s.inner := by
  simp [State.refuse]
@[simp] theorem State.dmaError_inner (s : State) (ref : CmdRef) (a : Nat) : (s.dmaError ref a).inner = s.inner := by
  simp [State.dmaError]
@[simp] theorem State.started_inner (s : State) (c : CmdRing) (f : Fetched) : (s.started c f).inner = s.inner := rfl
@[simp] theorem State.hostWrite_inner (s : State) (a : Nat) (b : List Byte) : (s.hostWrite a b).inner = s.inner := by
  unfold State.hostWrite; split <;> rfl

/-! ### Host accesses and host commands -/

/-- With a link, a host access has its effect. -/
theorem State.host_linked {s : State} (k : State → State) (h : s.hif.linkUp = true) : s.host k = k s := by simp [State.host, h]

/-- Without a link, it has none and no answer. -/
theorem State.host_unlinked {s : State} (k : State → State) (h : s.hif.linkUp = false) : s.host k = s.reply .noResponse := by
  simp [State.host, h]

/-- The command that is offered runs, marked as started. -/
theorem State.withCmd_offers {s : State} {c : CmdRing} {f : Fetched} {op : Nat} {sub : List Byte → Bool}
    (k : State → List Byte → CmdRef → State) (h : s.offers c f op) (hs : sub f.bytes = true) :
    s.withCmd c op sub k = k (s.started c f) f.bytes (cmdName c f) := by
  obtain ⟨h1, h2, h3, h4⟩ := h
  simp [State.withCmd, h1, h2, h3, h4, hs, State.started, cmdName]

/-- The same for a command that reads host memory. -/
theorem State.withRead_offers {s : State} {c : CmdRing} {f : Fetched} {op : Nat} {sub : List Byte → Bool}
    (addr : List Byte → Nat) (b : List Byte) (k : State → List Byte → CmdRef → List Byte → State) (h : s.offers c f op)
    (hs : sub f.bytes = true) :
    s.withRead c op sub addr (some b) k = k (s.started c f) f.bytes (cmdName c f) b := by
  simp [State.withRead, State.withCmd_offers _ h hs]

/-- A read that fails ends the command with DMA_ERROR. -/
theorem State.withRead_fails {s : State} {c : CmdRing} {f : Fetched} {op : Nat} {sub : List Byte → Bool}
    (addr : List Byte → Nat) (k : State → List Byte → CmdRef → List Byte → State) (h : s.offers c f op) (hs : sub f.bytes = true) :
    s.withRead c op sub addr none k = (s.started c f).dmaError (cmdName c f) (addr f.bytes) := by
  simp [State.withRead, State.withCmd_offers _ h hs]

end Sys2Proof.Machine
end

