-- ==== Sys2Proof/Laws/Keeps.lean ====
section
/-! SUPPORT. What the operations that do change the time unit, the fuses, the Cask or a whole reach keep (`State.keeps`). -/
-- One theorem after another: many at once take more threads than the memory limit has stacks for.
set_option Elab.async false
namespace Sys2Proof.Machine

theorem fusesGrow.refl (f : Fuses) : fusesGrow f f := ⟨Nat.le_refl _, by simp, by simp, id, id, by simp, fun h => ⟨h, rfl⟩, fun h => ⟨h, rfl⟩⟩

theorem fusesGrow.trans {a b c : Fuses} (h : fusesGrow a b) (k : fusesGrow b c) : fusesGrow a c := by
  obtain ⟨h1, h2, h3, h4, h5, h6, h7, h8⟩ := h
  obtain ⟨k1, k2, k3, k4, k5, k6, k7, k8⟩ := k
  refine ⟨Nat.le_trans h1 k1, ?_, ?_, k4 ∘ h4, k5 ∘ h5, ?_, fun w => ?_, fun w => ?_⟩
  · rw [← h2, BitVec.and_assoc, k2]
  · rw [← h3, BitVec.and_assoc, k3]
  · rw [← h6, BitVec.and_assoc, k6]
  · obtain ⟨w, e⟩ := h7 w
    exact ⟨(k7 w).1, (k7 w).2.trans e⟩
  · obtain ⟨w, e⟩ := h8 w
    exact ⟨(k8 w).1, (k8 w).2.trans e⟩

theorem State.keeps.refl (s : State) : s.keeps s := ⟨rfl, id, .refl _, id⟩

theorem State.keeps.trans {s t u : State} (h : s.keeps t) (k : t.keeps u) : s.keeps u :=
  ⟨k.1.trans h.1, k.2.1 ∘ h.2.1, h.2.2.1.trans k.2.2.1, k.2.2.2 ∘ h.2.2.2⟩

/-- An operation that touches none of them keeps all four. -/
theorem State.keeps.of_fixed {s t : State} (h : t.fixed = s.fixed) : s.keeps t := by
  simp only [State.fixed, Prod.mk.injEq] at h
  obtain ⟨hp, ht, hf, hc⟩ := h
  refine ⟨hp, ?_, ?_, ?_⟩
  · simp [State.incrBounded, ht]
  · rw [hf]; exact .refl _
  · simp [State.caskCanonical, hc]

/-- The same after an operation that keeps them. -/
theorem State.keeps.then_fixed {s t u : State} (h : s.keeps t) (k : u.fixed = t.fixed) : s.keeps u := h.trans (.of_fixed k)

/-- Writing the Cask keeps its canonical form. -/
theorem State.caskWrite_keeps (s : State) (q a : Nat) (b : List Byte) : s.keeps (s.caskWrite q a b) :=
  ⟨rfl, id, .refl _, fun h => wf_setBytes b h⟩

/-- Wiping a range of the Cask keeps its canonical form. -/
theorem State.caskWipe_keeps (s : State) (q a n : Nat) : s.keeps (s.caskWipe q a n) :=
  ⟨rfl, id, .refl _, fun h => SMap.wf_filter _ h⟩

/-- The Cask of the machine after reset is canonical. -/
theorem State.reset_cask : State.reset.caskCanonical := rfl

/-- A Cask byte outside the bytes written reads as before. -/
theorem State.caskWrite_byte_ne (s : State) (q a j : Nat) (b : List Byte)
    (h : j < caskAddr q a ∨ caskAddr q a + b.length ≤ j) : byteAt (s.caskWrite q a b).cask j = byteAt s.cask j :=
  byteAt_setBytes_ne b h

/-- A Cask byte written reads back. -/
theorem State.caskWrite_byte (s : State) (q a i : Nat) (b : List Byte) (h : i < b.length) :
    byteAt (s.caskWrite q a b).cask (caskAddr q a + i) = b[i] := byteAt_setBytes h

/-- The clamp of R294. -/
theorem clampIncr_range (v : Int) : 0xFFC00000 ≤ (clampIncr v).1.toNat ∧ (clampIncr v).1.toNat ≤ 0x100400000 := by
  unfold clampIncr
  split
  · decide
  · split
    · decide
    · simp only [BitVec.toNat_ofInt]; omega

theorem State.setIncr_keeps (s : State) (v : Int) : s.keeps (s.setIncr v) := by
  refine ⟨rfl, fun _ => clampIncr_range v, .refl _, id⟩

theorem State.writeIncr_keeps (s : State) (v : Nat) : s.keeps (s.writeIncr v) := by
  unfold State.writeIncr
  split
  · exact .of_fixed (by simp)
  · exact s.setIncr_keeps _

theorem State.timeCycle_keeps (s : State) : s.keeps s.timeCycle := ⟨rfl, id, .refl _, id⟩

/-- An update of the time unit that leaves INCR alone. -/
theorem State.keeps_time (s : State) (v : TimeSt) (h : v.incr = s.time.incr) : s.keeps { s with time := v } :=
  ⟨rfl, fun k => by simpa [State.incrBounded, h] using k, .refl _, id⟩

theorem State.tick_keeps (s : State) : s.keeps s.tick := by
  unfold State.tick
  have h : s.keeps (if s.time.core % 2 = 1 then s.takeErrors else s) := by
    split
    · exact .of_fixed (by simp)
    · exact .refl s
  revert h
  generalize (if s.time.core % 2 = 1 then s.takeErrors else s) = u
  intro h
  dsimp only
  split
  · exact (h.trans (u.keeps_time _ rfl)).trans (State.timeCycle_keeps _)
  · exact h.trans (u.keeps_time _ rfl)

theorem State.goStep_keeps (s : State) : s.keeps s.goStep := by
  unfold State.goStep
  dsimp only
  split
  · exact .of_fixed (by simp)
  · generalize s.time.ns + BitVec.ofNat 64 (s.reg64 .timeStep []) = ns
    generalize (s.time.ppsSkip || decide (s.time.ns.toNat / 10 ^ 9 ≠ ns.toNat / 10 ^ 9)) = skip
    refine State.keeps.trans ?_ (State.keeps.of_fixed (foldl_fixed _ _ _ fun s x => ?_))
    · exact s.keeps_time _ rfl
    · simp

theorem State.rearmStep_keeps (s : State) : s.keeps s.rearmStep := by
  unfold State.rearmStep
  split
  · exact .of_fixed (by simp)
  · exact s.keeps_time _ rfl

theorem State.measureWires_keeps (s : State) : s.keeps s.measureWires := by
  unfold State.measureWires
  generalize List.range 1024 = l
  dsimp only
  split
  · exact .refl s
  · next h => exact ⟨rfl, id, ⟨Nat.le_refl _, by simp, by simp, id, id, by simp, fun w => absurd w h, fun w => ⟨w, rfl⟩⟩, id⟩

theorem State.writeFuses_keeps (s : State) : s.keeps s.writeFuses := by
  unfold State.writeFuses
  generalize List.range 1024 = l
  dsimp only
  split
  · exact .refl s
  · next h => exact ⟨rfl, id, ⟨Nat.le_refl _, by simp, by simp, id, id, by simp, fun w => ⟨w, rfl⟩, fun w => absurd w h⟩, id⟩

/-- A CLK_CORE cycle without a command keeps them. -/
theorem State.idle_keeps (s : State) : s.keeps s.idle := by
  unfold State.idle
  split
  · exact s.tick_keeps.then_fixed (State.startAllMsgs_fixed _)
  · next x r _ =>
    have h : s.keeps ({ s with strikes := r }.strike x) := .of_fixed ((State.strike_fixed _ x).trans rfl)
    exact (h.trans (State.tick_keeps _)).then_fixed (State.startAllMsgs_fixed _)

theorem State.updDom_keeps (s : State) (d : BitVec 1) (f : TimeDom → TimeDom) : s.keeps (s.updDom d f) := by
  unfold State.updDom
  split <;> exact ⟨rfl, id, .refl _, id⟩

theorem State.clearSystem_keeps (s : State) : s.keeps s.clearSystem := by
  unfold State.clearSystem
  refine ⟨rfl, fun _ => ?_, .refl _, fun _ => rfl⟩
  simp [State.incrBounded]

theorem State.enterP3_keeps (s : State) : s.keeps s.enterP3 := by
  unfold State.enterP3
  extract_lets tell u v w x
  have h : s.keeps x := .of_fixed (by simp [x, w, v, u])
  exact ⟨h.1, h.2.1, h.2.2.1, fun _ => rfl⟩

theorem State.tapToCask_keeps (s : State) (q : Nat) (b : List Byte) : s.keeps (s.tapToCask q b) := by
  unfold State.tapToCask
  dsimp only
  split
  · exact .of_fixed (by simp)
  · have h := s.caskWrite_keeps q (s.tapPlace q (nthD s.tap.writeIdx q 0).toNat)
      (patch b 28 (leBytes 4 (nthD s.tap.rseqCask q 0).toNat))
    exact h.then_fixed (by simp)

theorem State.clearPowerOn_keeps (s : State) : s.keeps s.clearPowerOn := by
  unfold State.clearPowerOn
  exact ⟨rfl, id, .refl _, id⟩

theorem State.clear_keeps (s : State) (r : Reach) : s.keeps (s.clear r) := by
  cases r with
  | core => exact .of_fixed (by simp [State.clear])
  | system => exact (State.keeps.of_fixed (by simp)).trans (State.clearSystem_keeps _)
  | powerOn =>
    exact ((State.keeps.of_fixed (by simp)).trans (State.clearSystem_keeps _)).trans (State.clearPowerOn_keeps _)

theorem State.assertReset_keeps (s : State) (r : Reach) (src : Option RstSource) (held : Bool) :
    s.keeps (s.assertReset r src held) := by
  unfold State.assertReset
  dsimp only
  have h (b : Bool) : s.keeps (if b then s.clear (widest r s.rst.reach) else s) := by
    split
    · exact s.clear_keeps _
    · exact .refl s
  have h := h (s.rst.reach ≠ some (widest r s.rst.reach) || s.rst.step ≠ 0 || (s.rst.heldSys && r = .powerOn))
  refine h.then_fixed ?_
  simp

theorem State.source_keeps (s : State) (k : RstSource) (held : Bool) : s.keeps (s.source k held) := s.assertReset_keeps _ _ _

theorem State.closeLife_keeps (s : State) : s.keeps s.closeLife := by
  unfold State.closeLife
  dsimp only
  repeat' split
  all_goals refine ⟨rfl, id, ?_, id⟩
  all_goals refine ⟨Nat.le_refl _, by simp, by simp, by simp, by simp, ?_, fun h => ⟨h, rfl⟩, fun h => ⟨h, rfl⟩⟩
  all_goals ((try dsimp only); generalize s.sec.fuses.pathClosed = x; revert x; decide)

theorem State.blowLife_keeps (s : State) (t : Nat) (b : List Byte) : s.keeps (s.blowLife t b) := by
  unfold State.blowLife
  dsimp only
  refine State.keeps.trans ?_ (State.closeLife_keeps _)
  refine ⟨rfl, id, ?_, id⟩
  refine ⟨Nat.le_refl _, by simp, ?_, id, id, by simp, fun h => ⟨h, rfl⟩, fun h => ⟨h, rfl⟩⟩
  simp only [BitVec.and_or_distrib_left, BitVec.and_self]
  ext i hi
  simp only [BitVec.getElem_or, BitVec.getElem_and]
  cases s.sec.fuses.lc[i] <;> simp

theorem State.readFuses_keeps (s : State) : s.keeps s.readFuses := by
  unfold State.readFuses
  exact s.closeLife_keeps.then_fixed (by simp)

theorem State.rstCtrl_keeps (s : State) (v : W32) : s.keeps (s.rstCtrl v) := by
  unfold State.rstCtrl
  repeat' split
  · exact .of_fixed (by simp)
  · exact s.source_keeps _ _
  · exact s.source_keeps _ _
  · exact .refl s

theorem State.releaseEnds_keeps (s : State) : s.keeps s.releaseEnds := by
  unfold State.releaseEnds
  dsimp only
  split
  · exact .of_fixed (by simp)
  · exact (State.keeps.of_fixed (by simp)).trans (State.assertReset_keeps _ _ _ _)

theorem State.writeOnes_keeps (s : State) (r : Reg) (ix : List Nat) (v : Nat) : s.keeps (s.writeOnes r ix v) := by
  unfold State.writeOnes
  split
  all_goals (try split)
  all_goals first | exact ⟨rfl, id, .refl _, id⟩ | exact .of_fixed (by simp)

theorem State.afterWrite_keeps (s : State) (r : Reg) (ix : List Nat) (v : Nat) : s.keeps (s.afterWrite r ix v) := by
  have both (s : State) : s.keeps s.goStep.rearmStep := s.goStep_keeps.trans (State.rearmStep_keeps _)
  unfold State.afterWrite
  split
  · have h : s.keeps (if bit v 3 then s else { s with time := { s.time with ppsHigh := false } }) := by
      split
      · exact .refl s
      · exact s.keeps_time _ rfl
    dsimp only
    split
    · exact h.trans (both _)
    · exact h
  · exact ⟨rfl, id, .refl _, id⟩
  · split
    · exact .of_fixed (by simp)
    · exact .refl s
  · split
    · exact .refl s
    · exact ⟨rfl, id, .refl _, id⟩
  · exact .refl s

theorem State.writeReg_keeps (s : State) (r : Reg) (ix : List Nat) (v : Nat) : s.keeps (s.writeReg r ix v) := by
  have whole (ix' : List Nat) : s.keeps (((s.writeFields r ix' v).writeOnes r ix v).afterWrite r ix v) :=
    ((State.keeps.of_fixed (State.writeFields_fixed _ _ _ _)).trans (State.writeOnes_keeps _ _ _ _)).trans
      (State.afterWrite_keeps _ _ _ _)
  unfold State.writeReg
  split
  · exact ⟨rfl, id, .refl _, id⟩
  · exact ⟨rfl, id, .refl _, id⟩
  · exact ⟨rfl, id, .refl _, id⟩
  · exact .refl s
  · exact .refl s
  · exact .of_fixed (by simp)
  · exact .of_fixed (by simp)
  · exact .of_fixed (by simp)
  · exact .of_fixed (by simp)
  · exact .of_fixed (by simp)
  · split
    · exact .refl s
    · exact whole _

/-- A host access keeps what its effect keeps. -/
theorem State.host_keeps (s : State) (k : State → State) (h : s.keeps (k s)) : s.keeps (s.host k) := by
  unfold State.host
  split
  · exact h
  · exact .of_fixed (by simp)

/-- A host command keeps what its effect keeps. -/
theorem State.withCmd_keeps (s : State) (c : CmdRing) (op : Nat) (sub : List Byte → Bool)
    (k : State → List Byte → CmdRef → State) (h : ∀ (s : State) d r, s.keeps (k s d r)) : s.keeps (s.withCmd c op sub k) := by
  unfold State.withCmd
  split
  · exact .refl s
  · split
    · exact (State.keeps.of_fixed (by simp)).trans (h _ _ _)
    · exact .refl s

/-- A fold of an operation that keeps them. -/
theorem foldl_keeps {β : Type} (g : State → β → State) (l : List β) (s : State) (h : ∀ (s : State) x, s.keeps (g s x)) :
    s.keeps (l.foldl g s) := by
  induction l generalizing s with
  | nil => exact .refl s
  | cons x r ih => exact (h s x).trans (ih _)

end Sys2Proof.Machine
end

