-- ==== Sys2Proof/WellFormed.lean ====
section
/-! DEFINITION. Which commands are well formed: operands that the types leave too wide are inside what the rules allow the
outside to say. The machine runs any command; a statement that needs the shape of an observation assumes it here. -/
namespace Sys2Proof

/-- A stream of the kinds that end in a quadrant names one of the four (R103). -/
def StreamId.wf (st : StreamId) : Bool := st.kind = .unicast || st.dst.toNat < 4

/-- A direction of the die-to-die mesh joins two different quadrants (R275). -/
def dirWf (x y : Quad) : Bool := x ≠ y

/-- Type and index of a block (R327): 1 quadrant, 2 Kiln array, 3 mesh group, 4 port, 5 bundle. -/
def blockWf (ty ix : Nat) : Bool :=
  match ty with
  | 1 => ix < 4
  | 2 => ix < 1024
  | 3 => ix < 64
  | 4 => ix < 1024
  | 5 => ix < 384
  | _ => false

/-- No two observations name the same port. -/
def portsDiffer : List FecObs → Bool
  | [] => true
  | o :: r => !(r.any fun x => x.port = o.port) && portsDiffer r

/-- A word address. -/
def aligned4 (a : BitVec 24) : Bool := a.toNat % 4 = 0

/-- Well-formed commands. -/
def WellFormed : Instr → Bool
  | .registerWrite a _ | .reg64LowRead a | .reg64HighRead a | .reg64LowWrite a _ | .reg64HighWrite a _ => aligned4 a
  | .packWaitExpiry st | .cellResequence st | .cellLossTimeout st => st.wf
  | .creditFrameReceive _ l => l.length = 6
  | .levelMeasurement _ o => o.levels.length = 10 && o.causes.length = 4
  | .laserFailure _ n => n.toNat < 10
  | .flitReceive x y _ w => dirWf x y && w.data.length = 256
  | .marginSample x y _ l => dirWf x y && l.length = 34
  | .d2dRetryRequest x y _ _ | .d2dRetryRepeat x y _ | .d2dReplayWindowExpiry x y _ | .mseqGapTimeout x y
  | .flitErrorWindow x y _ | .quietPointEnd x y _ _ | .bundleTrainingComplete x y _ _ => dirWf x y
  | .descriptorFetch _ d => d.length = 64
  | .blockResetComplete ty ix _ => blockWf ty.toNat ix.toNat
  | .releaseStepComplete n _ => 1 ≤ n.toNat && n.toNat ≤ 11
  | .healthTick obs => portsDiffer obs
  | .frameReceive _ rx => rx.pre.length = 8
  | .bar0BadAccess _ | .remoteCacheReply _ _ | .invalidate _ _ | .learnRequestApply _
  | .moveRequestApply _ | .refreshMessage _ | .hostRecordApply _ | .sweeperVisit _ | .rehashBucketVisit _ | .rehashWalkEnd _
  | .birthDeadline _ _ | .domainIdleRelease _ _ | .fenceHoldTimeout _ _ _ | .stage1Slot _ _ | .stage2LaneStart _ _
  | .crossbarJoin _ _ | .frameAdmit _ _ | .groupCopyAdmit _ | .frameBoundary _ _ | .shaperCalendarSlot _ _ | .refillBoundary
  | .shaperCommit _ _ _ | .policerCommit _ _ _ | .mashFrame _ | .tunService _ _ | .chunkSelfOpen _ _
  | .contextTimerExpiry _ _ | .waitTimerExpiry _ _ | .resultRetryTimeout _ _ _ _ | .resultAck _ | .resultNack _
  | .queuedPlanLoad | .planUnloadComplete _ | .kilnPartialHandover _ _ _ | .kilnTileIssue _ _ | .kilnTileOutput _ _
  | .dutyStep _ _ | .currentHoldExpiry _ _ | .inServiceTest _ _ | .forcedTest _ _ | .inServiceTestResult _ _ _
  | .trainFrameReceive _ _ | .trainingStepComplete _ _ | .trainingTimeout _ | .portDown _ _ | .widthReceive _ _ _
  | .widthAckReceive _ _ _ | .widthAckTimeout _ | .creditFrameTimer _ | .retryReqReceive _ _ | .linkAckReceive _ _
  | .linkAckTimer _ | .flapEvaluation | .ringLightPresent _ | .ringResonance _ | .ringSweepEnd _ | .ringToneResult _ _
  | .ringStep _ | .ringToneLost _ | .ringLightLost _ | .handoverStep _ _ | .crossFadeStep _ | .handoverStepTimeout _
  | .recalComplete _ _ | .meshSettleCheck _ _ _ | .laserEnLow | .laserEnHigh | .txOnWrite _ _ | .testAccessInstruction _
  | .ppsEdge _ | .domainEdgeTimeout _ | .servoApply | .ppsOutCrossing | .ppsOutPulseEnd | .stepGo | .stepRearm | .snap
  | .timeIncrWrite _ | .activeWrite _ | .launchTime _ | .doorbell _ _ _ | .writeBackTimer _ | .interruptTimer _
  | .ringEnable _ | .ringDisable _ | .busMasterEnable | .msixUnmask _ | .nop _ | .portArm _ | .portDisarm _ | .sheafSet _ _
  | .groupSet _ _ | .tableLoad _ _ | .tableDump _ | .tableRehash _ | .endpointFence _ | .caskLayout _ | .planLoad _ _
  | .planUnload _ | .instanceAbort _ | .identityMove _ | .laserCommission _ | .groupRecal _ | .meshSet _ | .bundleQuiesce _
  | .bundleRelease _ | .blockReset _ | .powerState _ | .powerStateComplete | .schedLaunch _ _ | .pitchOpen _ _
  | .pitchSeal _ _ | .pitchDrop _ _ | .pitchStatus _ _ | .pitchPut _ | .pitchGet _ _ | .tapSetRule _ _ | .tapSetFilter _ _
  | .tapStart _ _ | .tapStop _ _ | .tapRead _ _ | .tapRecordDrain _ | .fwStage _ _ | .fwActivateTrial _ _
  | .fwActivateNextBoot _ _ | .fwSvnCommit _ _ | .keySlotRevoke _ _ | .attestReport _ _ | .attestCertificate _ _
  | .lifecycle _ _ | .recoveryGo _ | .porNAssert | .porNRelease | .porSupplyLow | .porSupplyRelease | .sysRstNAssert
  | .sysRstNRelease | .perstNAssert | .perstNRelease | .coreReset _ | .sysReset _ | .criticalError _ _ | .refOkLoss _
  | .refOkRestored | .sclStuckLow | .errAck _ | .errHeadRead | .overflowClear | .watchdogExpiry | .firmwareRestartComplete
  | .expelHoldExpiry _ | .readmitHoldExpiry _ | .cntClear _ | .bar4Read _ _ | .bar4Write _ | .modeWrite _ | .recoveryExit
  | .samplerEnWrite | .inputFaultSet _ | .inputFaultClear _ | .sensorSample _ _ | .warnClear | .thermalTrip _
  | .cellarThermalTrip | .tripClear | .clearFaults | .capability | .statusWord | .statusInput | .statusTemperature | .readVin
  | .readIin | .readTemperature1 | .readTemperature2 | .readPin | .pmbusRevision | .pmbusReject _ | .fwStageComplete _
  | .ageDiscardWaiting _ _ | .aerUncorrectable | .peakWRead => true

end Sys2Proof
end

