-- ==== Sys2Proof/Tests/Slice0.lean ====
section
/-! SUPPORT. The model's own tests: commands that WellFormed refuses, the manual's worked examples, and for every statement with
hypotheses small states and operands that meet them. -/
-- One theorem after another: many at once take more threads than the memory limit has stacks for.
set_option Elab.async false
open Sys2Proof Sys2Proof.Machine

/-! ### Small states -/

/-- A block that runs: no reset stands, the PCIe link is up, the firmware takes commands. -/
def running : State :=
  { rst := { reach := none, held := [], perstLow := false }, hif := { fwReady := true, busMaster := true, linkUp := true } }

/-- A fetched descriptor of an opcode, with operand pieces at their offsets. -/
def descr (op : Byte) (ps : List (Nat × List Byte)) : Fetched :=
  { index := 0, opcode := op, serial := false, irqNow := false, tag := 7, bytes := recordOf 64 ([(0, [op, 0])] ++ ps) }

/-- The state in which ring 0 offers that descriptor. -/
def offering (f : Fetched) (s : State) : State := { s with rings := [(0, { enabled := true, cons := 1, prod := 1, cmds := [f] })] }

/-- Such a state meets `offers`. -/
theorem offering_offers (op : Byte) (ps : List (Nat × List Byte)) (s : State) (h : s.hif.fwReady = true)
    (k : s.hif.busMaster = true) : (offering (descr op ps) s).offers 0 (descr op ps) op.toNat := ⟨rfl, rfl, h, k⟩

/-- A state whose port 0 is as given. -/
def withPort (x : PortSt) (s : State) : State := { s with ports := [(0, x)] }

/-! ### Ill-formed commands -/

theorem test_wf_word : WellFormed (.registerWrite 0x060002 1) = false ∧ WellFormed (.reg64LowRead 0x060001) = false := by decide
theorem test_wf_stream : WellFormed (.cellResequence { kind := .mash, src := 0, dst := 4, svc := false }) = false := by decide
theorem test_wf_limits : WellFormed (.creditFrameReceive 0 [1, 2, 3]) = false := by decide
theorem test_wf_levels : WellFormed (.levelMeasurement 0 { levels := [], causes := [0, 0, 0, 0] }) = false := by decide
theorem test_wf_laser : WellFormed (.laserFailure 0 10) = false := by decide
theorem test_wf_direction : WellFormed (.mseqGapTimeout 2 2) = false ∧ WellFormed (.d2dRetryRequest 1 1 0 0) = false := by decide
theorem test_wf_flit : WellFormed (.flitReceive 0 1 0 { valid := 0, data := [], chk64 := 0 }) = false := by decide
theorem test_wf_margins : WellFormed (.marginSample 0 1 0 []) = false := by decide
theorem test_wf_descriptor : WellFormed (.descriptorFetch 0 [0]) = false := by decide
theorem test_wf_block : WellFormed (.blockResetComplete 5 384 []) = false ∧ WellFormed (.blockResetComplete 6 0 []) = false := by decide
theorem test_wf_step : WellFormed (.releaseStepComplete 0 { arrays := [], nvFirst := 0, nvSecond := 0 }) = false ∧
    WellFormed (.releaseStepComplete 12 { arrays := [], nvFirst := 0, nvSecond := 0 }) = false := by decide
theorem test_wf_ports : WellFormed (.healthTick [⟨3, 0, 0⟩, ⟨3, 1, 0⟩]) = false := by decide
theorem test_wf_good : WellFormed (.registerWrite 0x060004 1) = true ∧ WellFormed (.blockResetComplete 5 383 []) = true ∧
    WellFormed (.mseqGapTimeout 2 3) = true := by decide

/-! ### Words -/

/-- No row of the table has bits (spec/opcode_table.json). -/
theorem test_no_word_spells : decodeTableWord 32 0xFFFFFFFF = none ∧ decodeTableWord 0 0 = none := by decide
/-- So placing a word changes nothing. -/
theorem test_placing_a_word : State.reset.withFetchWord 32 0x60000 = State.reset := by decide

/-! ### What meets the hypotheses of the statements about the queue, the invariants and the host's accesses -/

theorem test_hyp_StepRunsFront : State.reset.pending = [] ∧
    ({ State.reset with pending := [.overflowClear, .snap] } : State).pending = .overflowClear :: [.snap] := by decide
theorem test_hyp_QueueIsFirstInFirstOut : ∃ t, step { running with pending := [.overflowClear, .snap] } = .next t := ⟨_, rfl⟩
theorem test_hyp_IncrStaysInItsRange : (0xFFC00000 ≤ running.time.incr.toNat ∧ running.time.incr.toNat ≤ 0x100400000) ∧
    ∃ t, step { running with pending := [.timeIncrWrite 0] } = .next t := ⟨by decide, _, rfl⟩
theorem test_hyp_FusesAreNeverUnblown : ∃ t, step { running with pending := [.porSupplyLow] } = .next t := ⟨_, rfl⟩
theorem test_hyp_CaskStaysCanonical : SMap.wf 0 ({ running with cask := [(5, 1), (9, 2)] } : State).cask = true ∧
    ∃ t, step { running with cask := [(5, 1), (9, 2)], pending := [.snap] } = .next t := ⟨by decide, _, rfl⟩
theorem test_hyp_IdleCyclesAdvanceDeviceTime : running.pending = [] ∧ running.timeRuns = true ∧ running.strikes = [] ∧
    (∀ x ∈ running.dirs, x.2.outMsgs = [] ∧ x.2.outRetry = []) := by decide
theorem test_hyp_HostAccessesReachTheirRegisters : State.reset.hif.linkUp = false ∧ running.hif.linkUp = true ∧
    (0x060002 : BitVec 24).toNat % 4 ≠ 0 ∧ (0x100000 : BitVec 24).toNat % 4 = 0 ∧
    ({ running with pwr := { state := 3 } } : State).regHeld 0x100000 = true ∧ running.regHeld 0xFFFFFC = false ∧
    regAt 0xFFFFFC = none := by decide
theorem test_hyp_WritesSetUnlockedFields : running.regHeld 0x080004 = false ∧ regAt 0x080004 = some (.cntBw, []) ∧
    Reg.plain .cntBw = true := by decide
theorem test_hyp_SixtyFourBitReadsAreConsistent : reg64At 0x060010 0 = reg64At 0x060010 0 ∧ (∃ r ix, reg64At 0x060008 0 = some (r, ix) ∧
    reg64At 0x06000C 1 = some (r, ix)) ∧ running.regHeld 0x060008 = false ∧ running.regHeld 0x06000C = false := by
  refine ⟨rfl, ⟨_, _, rfl, rfl⟩, by decide, by decide⟩
theorem test_hyp_SixtyFourBitWritesCommitTogether : (running.ring 33).enabled = false ∧
    (({ running with rings := [(33, { enabled := true })] } : State).ring 33).enabled = true ∧
    ({ running with rings := [(33, { enabled := true })] } : State).reg .hifRingBase [33, 0] ≠ (0x1000 : W32).toNat := by decide
theorem test_hyp_Bar4ShowsCounters : (0x3FFF8 : BitVec 18).toNat % 8 = 0 ∧ (0x3FFFC : BitVec 18).toNat = (0x3FFF8 : BitVec 18).toNat + 4 := by
  decide

/-! ### Rings -/

/-- Command ring 3 and completion ring 19 at work. -/
def ringsUp : State :=
  { running with rings := [(3, { enabled := true, prod := 2, cons := 1 }), (16, { enabled := true }),
                           (20, { enabled := true, prod := 5, cons := 1 })] }

/-- Both borders of R322: a command ring of 64 entries takes 64 outstanding and no more, another ring all that stands in it. -/
theorem test_hyp_DoorbellsAreJudged :
    let ok (r : Nat) (v : W32) (s : State) : Bool := if r < 16 then (v - (s.ring r).prod).toNat < 2 ^ 31 && (v - (s.ring r).cons).toNat ≤ s.ringSize r
      else (v - (s.ring r).cons).toNat ≤ ((s.ring r).prod - (s.ring r).cons).toNat
    ringsUp.ringSize 3 = 64 ∧ ok 3 65 ringsUp = true ∧ ok 3 66 ringsUp = false ∧ ok 20 5 ringsUp = true ∧ ok 20 6 ringsUp = false ∧
    ok 3 2 ringsUp = true ∧ ok 20 1 ringsUp = true ∧ (ringsUp.ring 7).enabled = false := by decide
theorem test_hyp_RingsAreEnabledAndDisabled :
    (running.ring 16).enabled = false ∧ 6 ≤ running.rf .hifRingCfg [16] 0 5 ∧ running.rf .hifRingCfg [16] 0 5 ≤ 16 ∧
    running.reg64 .hifRingBase [16] % 4096 = 0 ∧ running.reg64 .hifRingWb [16] % 8 = 0 ∧
    (running.ring 3).enabled = false ∧ (running.ring (running.pairRing 3)).enabled = false ∧
    ringsUp.ringBound 16 = true ∧ ringsUp.ringBound 20 = false := by decide
theorem test_hyp_DescriptorsAreFetchedInTurn : ringsUp.fetchTurn = some (3 : CmdRing).toNat ∧ ringsUp.fetchTurn ≠ some 4 ∧
    ringsUp.pairRoom 3 1 = true ∧
    ({ ringsUp with rings := SMap.put ringsUp.rings 16 { enabled := true, reservedHere := 64 } } : State).pairRoom 3 1 = false ∧
    descriptorOk (recordOf 64 [(0, [1, 0])]) = true ∧ descriptorOk (recordOf 64 [(0, [0x3F, 0])]) = false := by decide
theorem test_hyp_CompletionsAreWrittenAsLaidOut :
    let s : State := { running with rings := [(0, { enabled := true, cmds := [descr 0 []] }), (16, { enabled := true, reservedHere := 1 })],
                                    regs := [(Reg.hifRingWb.addr [16, 0], 0x8000)] }
    s.cmdOf ⟨0, 0, 0⟩ = some (descr 0 []) ∧ (s.ring (descr 0 []).pair).enabled = true ∧ 16 ≤ (descr 0 []).pair ∧ s.reg64 .hifRingBase [16] % 4096 = 0 ∧
    s.reg64 .hifRingBase [16] + (s.ring 16).prod.toNat % s.ringSize 16 * 32 + 32 ≤ s.reg64 .hifRingWb [16] := by decide
theorem test_hyp_WriteBacksAndInterruptsFallDue :
    let s : State := { running with rings := [(20, { enabled := true, prod := 5, cons := 1, armed := true, timer := some 3 })],
                                    regs := [(Reg.hifRingMod.addr [20], 0x00010010)], hif := { running.hif with pba := 1 } }
    (s.ring 20).enabled = true ∧ (s.ring 20).prod ≠ (s.ring 20).wbCount ∧ (s.ring 20).armed = true ∧
    (s.ring 20).timer.isSome = true ∧ s.rf .hifRingMod [20] 0 16 ≠ 0 ∧ s.hif.pba.getLsbD 0 = true := by decide

/-! ### Time -/

theorem test_hyp_TimeIsSteppedOnce : running.time.stepOk = true ∧ ({ running with time := { stepOk := false } } : State).time.stepOk = false ∧
    running.anyArmed = false ∧ (withPort { armed := true } running).anyArmed = true ∧
    regAt (Reg.timeCtrl.addr []) = some (.timeCtrl, []) ∧ running.regHeld (Reg.timeCtrl.addr []) = false ∧ bit 0x60 5 = true ∧ bit 0x60 6 = true := by
  and_intros <;> decide
/-- The servo enabled. -/
def served : State := { running with regs := [(Reg.timeCtrl.addr [], 0x4)], time := { staged := some (0, 0x100000000) } }
theorem test_hyp_IncrementsAreHeldInRange : ({ running with regs := [(Reg.timeCtrl.addr [], 0)] } : State).rb .timeCtrl [] 2 = false ∧ served.rb .timeCtrl [] 2 = true ∧
    served.time.staged = some (0, 0x100000000) ∧ (0xFFBFFFFF : Nat) < 0xFFC00000 ∧ 0x100400000 < (0x100400001 : Nat) ∧
    served.hif.fwReady = true := by decide
/-- Domain A at its last edge, one second of cycles back. -/
def second (st : DomState) (free : W64) (s : State) : State :=
  { s with time := { s.time with free, domA := { s.time.domA with state := st, lastFree := some 0, good := 3 } } }
theorem test_hyp_DomainsFollowTheirEdges : (running.dom 0).state = .absent ∧ (second .acquiring 1000200001 running).dom 0 =
      { state := .acquiring, lastFree := some 0, good := 3 } ∧
    (second .acquiring 1000200000 running).time.free.toNat - 0 ≤ 10 ^ 9 + 200000 ∧ ((second .valid 1000200001 running).dom 0).state = .valid ∧
    (0 : BitVec 1) = (second .valid 0 running).activeDom ∧ running.rb .timeCtrl [] 1 = false ∧
    ({ running with regs := [(Reg.timeCtrl.addr [], 2)] } : State).rb .timeCtrl [] 1 = true := by decide
theorem test_hyp_ValidEdgesReportOffsetAndServe : ((second .valid 999800000 served).dom 0).state = .valid ∧
    ((second .valid 999800000 served).dom 0).lastFree = some 0 ∧
    10 ^ 9 - 200000 ≤ (second .valid 999800000 served).time.free.toNat - 0 ∧ (second .valid 0 served).activeDom = 0 ∧
    (second .valid 0 served).rb .timeCtrl [] 2 = true ∧ (second .valid 0 served).hif.fwReady = true := by decide
theorem test_hyp_TimeIsCapturedAndShown : (1 : BitVec 1) ≠ running.activeDom ∧ running.rb .timeCtrl [] 3 = false ∧
    ({ running with regs := [(Reg.timeCtrl.addr [], 8)] } : State).rb .timeCtrl [] 3 = true ∧
    ({ running with time := { ppsDue := true, free := 1000 } } : State).time.ppsDue = true ∧ running.time.ppsDue = false ∧
    1000 * min 999999 (max 1 (running.rf .timePpsw [] 0 20)) ≤ 1000 * 999999 ∧ running.time.free.toNat < 1000 := by decide

/-! ### Launches and ports -/

/-- Engine 0 lights its ports. -/
def lit (s : State) : State := { s with engines := [(0, { txOn := true })], pins := { laserEn := true } }
/-- Port 0 armed and up on all its lanes, with the credits given for each VC. -/
def upPort (credits : W32) (s : State) : State :=
  lit (withPort { armed := true, up := true, width := 0xFF, limitHeld := [credits, credits, credits, credits, credits, credits] } s)
/-- A frame of 60 bytes of general class, and its launch. -/
def small : Frame := zeros 60
def launch60 : Launch := { port := 0, t := 0, bytes := small, cmd := ⟨0, 0, 0⟩ }
def launching (s : State) : State := { s with launches := [launch60] }
def armed0 : State := withPort { armed := true } running

theorem test_hyp_LaunchesAreSentOrMissed :
    armed0.portDown 0 = false ∧ armed0.time.ns.toNat + 5000 ≤ 5000 ∧ (armed0.isOvdu 0 small && oFence small) = false ∧
    (launching armed0).nextLaunch 0 = some launch60 ∧ (armed0.port 0).up = false ∧ (upPort 1 running).txAllowed 0 = true ∧
    (launching (upPort 1 running)).nextLaunch 0 = some launch60 ∧
    (upPort 9 running).creditsFor 0 ((upPort 9 running).outVc 0 small) (frameCells small) = true ∧
    (upPort 0 running).creditsFor 0 ((upPort 0 running).outVc 0 small) (frameCells small) = false := by
  and_intros <;> decide
theorem test_hyp_PortsAreArmedAndDisarmed :
    leAt (descr 1 [(8, [0xFF, 0x03])]).bytes 8 2 = 1023 ∧ leAt (descr 1 [(8, [0, 4])]).bytes 8 2 = 1024 ∧ running.portDown 1023 = false ∧
    (withPort { inReset := true } running).portDown 0 = true ∧ running.pwr.transition = none ∧ running.armBad 1 ≠ none ∧
    ({ running with sec := { lcState := 3 } } : State).fibreLooped 0 = false ∧ running.sec.lcState ≠ 3 := by
  and_intros <;> decide
/-- Fibre 0's rings locked. -/
def locked0 : State := { withPort { armed := true, trainStep := 1 } running with
  rings1 := (List.range 16).map fun n => (n, { state := .locked }) }
theorem test_hyp_PortsTrainInOrder : running.ringsReady 0 = false ∧ locked0.ringsReady 0 = true ∧
    (0xFF &&& BitVec.ofNat 8 (locked0.portLanes 0) : BitVec 8) ≠ 0 ∧ locked0.laneMask 0 &&& (locked0.port 0).partnerMask ≠ 0 ∧
    locked0.laneMask 0 &&& 0 = 0 ∧ (1100 : Nat) ≤ 1100 ∧
    locked0.litLanes 0 = BitVec.ofNat 8 (locked0.portLanes 0) ∧ running.litLanes 0 &&& ~~~0 = 0 := by
  and_intros <;> decide
theorem test_hyp_UpPortsGoDownAndAreDamped : ((upPort 0 running).port 0).up = true ∧ (armed0.port 0).up = false ∧
    running.rb .oeDamp [0] 16 = true ∧ 3000 * 2 ^ 32 ≤ min (12000 * 2 ^ 32) (2000 * 2 ^ 32 + 1000 * 2 ^ 32) := by
  and_intros <;> decide
theorem test_hyp_WidthsChangeByAgreement : ((upPort 0 running).port 0).up = true ∧ (0x0F &&& ((upPort 0 running).port 0).width : BitVec 8) ≠ 0 ∧
    ((withPort { widthPend := [(0x0F, 5, 0)] } running).port 0).widthPend = [(0x0F, 5, 0)] := by
  and_intros <;> decide
theorem test_hyp_LinkControlFramesAreTaken : ((upPort 0 running).port 0).ctl.contains .credit = false ∧
    ((withPort { up := true, ctl := [.credit], retryOn := true, lsnSeen := true } running).port 0).ctl.contains .credit = true ∧
    1 ≤ ((0x7FFFFFFF : W32) - 0).toNat ∧ 2 ^ 31 ≤ ((0x80000000 : W32) - 0).toNat := by
  and_intros <;> decide

/-! ### Optics -/

def ring000 : RingId := { fibre := 0, rx := false, lane := 0 }
def withRing (x : MicroRing) : State := { running with rings1 := [(0, x)] }
theorem test_hyp_RingsFollowTheirLockTable : running.ringLive ring000 = true ∧ State.reset.ringLive ring000 = false ∧
    (running.microRing ring000).state = .dark ∧ ((withRing { state := .sweep }).microRing ring000).state = .sweep ∧
    ((withRing { state := .identify }).microRing ring000).state = .identify ∧ (0 : BitVec 4).toNat = ring000.lane.toNat ∧
    (15 : BitVec 4).toNat ≠ ring000.lane.toNat ∧ ((withRing { state := .step, steps := 8 }).microRing ring000).steps ≤ 8 ∧
    8 < ((withRing { state := .step, steps := 9 }).microRing ring000).steps ∧ ((withRing { state := .locked }).microRing ring000).state ≠ .retired ∧
    ((withRing { state := .retired }).microRing ring000).state = .retired := by
  and_intros <;> decide
/-- Engine 0 with laser 0 lit on channel 0, spare 8 in a given state and spare 9 retired, tracking and spares enabled. -/
def optics (a b : LsrState) (e : EngineSt) : State :=
  { running with lasers := [(0, { state := a }), (8, { state := b }), (9, { state := .retired })], engines := [(0, e)], regs := [(Reg.oeCtrl.addr [0], 6)] }
theorem test_hyp_FadedLasersAreWarnedAndReplaced : (optics .lit .spareIdle {}).opticsLive = true ∧
    (optics .lit .spareIdle {}).trackEn 0 = true ∧ (optics .lit .spareIdle {}).spareEn 0 = true ∧
    ((optics .lit .spareIdle {}).laser 0 0).carries = true ∧ ((optics .lit .spareIdle {}).laser 0 8).state = .spareIdle ∧
    ((optics .lit .retired {}).laser 0 9).state ≠ .spareIdle ∧
    sgn (Laser.level { state := .lit, ref := some 0, meas := -500 }).toNat 16 ≤ -((optics .lit .spareIdle {}).fadeWarn 0) ∧
    sgn (Laser.level { state := .lit, ref := some 0, meas := -500 }).toNat 16 ≤ -((optics .lit .spareIdle {}).fadeLimit 0) ∧
    -((optics .lit .spareIdle {}).fadeWarn 0) < sgn (Laser.level { state := .lit, meas := -500 }).toNat 16 ∧ (running.mesh 0).due = 0 := by
  and_intros <;> decide
/-- A hand-over from laser 0 to spare 8. -/
def handing (step fade : Nat) : State :=
  optics .warned .handing { handover := some { laser := 0, spare := 8, step, fade } }
theorem test_hyp_HandoversRunInSteps : (running.engine 0).handover = none ∧
    ((handing 4 255).engine 0).handover = some { laser := 0, spare := 8, step := 4, fade := 255 } ∧ (handing 1 0).opticsLive = true ∧
    ((handing 1 0).laser 0 8).fails = 0 ∧ ((handing 1 0).laser 0 (17 - 8)).state ≠ .spareIdle ∧ ((handing 1 0).laser 0 0).carries = true ∧
    ((handing 1 0).laser 0 9).carries = false := by
  and_intros <;> decide
theorem test_hyp_LightFollowsTheInterlock : running.pins.laserEn = false ∧ (lit running).pins.laserEn = true ∧
    running.engineHeld 0 = false ∧ (running.engine 0).nvLost = false ∧ running.rst.reach = none ∧ (running.laser 0 0).state = .off := by
  and_intros <;> decide
theorem test_hyp_GroupsAreRecalibratedOnCommand : (running.mesh 63).map = normalMap ∧ running.groupDown 63 = false ∧
    (running.mesh 63).prev = none ∧ (running.mesh 63).recal = none ∧ running.fibreArmed 255 = false ∧ armed0.fibreArmed 0 = true ∧
    (({ running with meshes := [(0, { recal := some ⟨0, 0, 0⟩ })] } : State).mesh 0).recal = some ⟨0, 0, 0⟩ ∧ running.hif.fwReady = true := by
  and_intros <;> decide
/-- The looped map of fibre 90's example (R265) is one to one; a map of zeros is not. -/
theorem test_hyp_MeshMapsAreSetAndChecked : (∀ a b, a < 8 → b < 8 → mapOut 0xEAC788 a = mapOut 0xEAC788 b → a = b) ∧
    (¬ ∀ a b, a < 8 → b < 8 → mapOut 0 a = mapOut 0 b → a = b) ∧
    (∀ j ∈ alteredFibres normalMap 0xEAC788, running.fibreArmed j = false) ∧ running.groupDown 0 = false ∧
    SMap.find running.plans 4095 = none ∧ (({ running with meshes := [(0, { prev := some (normalMap, some ⟨0, 0, 0⟩) })] } : State).mesh 0).prev =
      some (normalMap, some ⟨0, 0, 0⟩) ∧ running.hif.fwReady = true ∧ (∀ b ∈ (running.mesh 0).bound, b.prev = none) := by
  refine ⟨?_, ?_, by decide, by decide, by decide, by decide, by decide, by decide⟩
  · have h : ∀ a b : Fin 8, mapOut 0xEAC788 a.val = mapOut 0xEAC788 b.val → a = b := by decide
    intro a b ha hb e; exact congrArg Fin.val (h ⟨a, ha⟩ ⟨b, hb⟩ e)
  · intro h; exact absurd (h 0 1 (by decide) (by decide) (by decide)) (by decide)

/-! ### The die-to-die mesh -/

def withBundle (z : BundleSt) (s : State) : State := s.updBundle 0 1 0 fun _ => z
/-- A full bundle from Q0 to Q1 that carries flits. -/
def whole : BundleSt := { width := 2, work := BitVec.allOnes 34 }
def cell0 : Cell := { st := { kind := .unicast, svc := false, src := 0, dst := 64 }, cseq := 0, frags := [], fill := 0, fstart := none }
def flit0 (replay : Bool) : FlitSt := { slot := 0, sentAt := 0, replay, body := .cell cell0 }

/-- The words of a flit of kind k whose LCHK is right. -/
def goodFlit (k : Nat) : WireFlit :=
  let w : WireFlit := { valid := BitVec.ofNat 64 (256 * k), data := [], chk64 := 0 }
  { w with valid := BitVec.ofNat 64 (256 * k + flitLchk w) }
theorem test_goodFlit (k : Nat) (h : k < 2 ^ 56) :
    fld (goodFlit k).valid.toNat 0 8 = flitLchk (goodFlit k) ∧ (goodFlit k).valid.toNat / 256 = k := by
  have a : flitLchk { valid := BitVec.ofNat 64 (256 * k), data := [], chk64 := 0 } < 256 := crcBits_lt 8 7 (by decide) _ _ (by decide)
  have e : (goodFlit k).valid.toNat = 256 * k + flitLchk { valid := BitVec.ofNat 64 (256 * k), data := [], chk64 := 0 } := by
    simp only [goodFlit, BitVec.toNat_ofNat]; omega
  have q : (goodFlit k).valid.toNat / 256 = k := by omega
  have z : flitLchk (goodFlit k) = flitLchk { valid := BitVec.ofNat 64 (256 * k), data := [], chk64 := 0 } := by
    have q2 : (BitVec.ofNat 64 (256 * k)).toNat / 256 = k := by simp only [BitVec.toNat_ofNat]; omega
    unfold flitLchk flitBits
    rw [q]
    simp only [q2]
    rfl
  refine ⟨?_, q⟩
  rw [z, e]; unfold fld; simp only [Nat.shiftRight_zero]; omega
theorem goodFlit_kind (k : Nat) (h : k < 16) : fld (goodFlit k).valid.toNat 8 3 = k % 8 ∧ bit (goodFlit k).valid.toNat 11 = decide (8 ≤ k) := by
  have q := (test_goodFlit k (by omega)).2
  unfold fld bit
  simp only [Nat.shiftRight_eq_div_pow]
  have : (goodFlit k).valid.toNat / 2 ^ 11 = k / 8 := by omega
  rw [this]
  refine ⟨by omega, ?_⟩
  by_cases j : 8 ≤ k
  · simp only [j, decide_true, decide_eq_true_eq]; omega
  · simp only [j, decide_false, decide_eq_false_iff_not]; omega
theorem goodFlit_kind3 (k : Nat) (h : k < 2 ^ 56) : fld (goodFlit k).valid.toNat 8 3 = k % 8 := by
  have q := (test_goodFlit k h).2
  unfold fld
  simp only [Nat.shiftRight_eq_div_pow]
  omega
theorem goodFlit_tag (k : Nat) (h : k < 2 ^ 56) : fld (goodFlit k).valid.toNat 29 2 = k / 2 ^ 21 % 4 := by
  have q := (test_goodFlit k h).2
  unfold fld
  simp only [Nat.shiftRight_eq_div_pow]
  omega
theorem test_hyp_FlitsAreCheckedAndDelivered : carries { whole with width := 0 } = false ∧ carries whole = true ∧
    (running.bundle 0 1 0).await = none ∧ fld (goodFlit 1).valid.toNat 0 8 = flitLchk (goodFlit 1) ∧
    (cellOf (goodFlit 1).valid.toNat cell0).isSome = true ∧ fld (goodFlit (1 + 3 * 2 ^ 21)).valid.toNat 29 2 = 3 ∧
    fld (goodFlit (1 + 3 * 2 ^ 21)).valid.toNat 8 3 = 1 ∧
    (running.dir 0 1).early = [] ∧ (running.dir 0 1).mseqExpect = 0 ∧ fld (goodFlit 2).valid.toNat 8 3 = 2 ∧ fld (goodFlit 3).valid.toNat 8 3 = 3 ∧
    fld (goodFlit 1).valid.toNat 8 3 = 1 ∧ fld (goodFlit 4).valid.toNat 8 3 = 4 ∧ 5 ≤ fld (goodFlit 5).valid.toNat 8 3 ∧
    bit (goodFlit 9).valid.toNat 11 = true ∧ fld (goodFlit 9).valid.toNat 0 8 = flitLchk (goodFlit 9) :=
  ⟨by decide, by decide, by decide, (test_goodFlit 1 (by decide)).1,
   by unfold cellOf; rw [goodFlit_tag 1 (by decide)]; rfl, goodFlit_tag (1 + 3 * 2 ^ 21) (by decide),
   goodFlit_kind3 (1 + 3 * 2 ^ 21) (by decide), by decide, by decide,
   (goodFlit_kind 2 (by decide)).1, (goodFlit_kind 3 (by decide)).1, (goodFlit_kind 1 (by decide)).1, (goodFlit_kind 4 (by decide)).1,
   (goodFlit_kind 5 (by decide)).1 ▸ by decide, (goodFlit_kind 9 (by decide)).2, (test_goodFlit 9 (by decide)).1⟩
theorem test_hyp_FlitRetriesAreServedOrGivenUp : carries whole = true ∧
    (running.slotNow 0 whole + 4096 - (0 : BitVec 12).toNat) % 4096 * slotLen whole ≤ 1024 ∧ slotLen whole ≤ 4 ∧
    1024 < (running.slotNow 0 whole + 4096 - (1 : BitVec 12).toNat) % 4096 * slotLen whole ∧
    ((withBundle { whole with await := some (0, 0), kept := [flit0 false] } running).bundle 0 1 0).await = some (0, 0) ∧
    (({ running with dirs := [(1, { gapAt := some 0, early := [(3, [])] })] } : State).dir 0 1).gapAt = some 0 ∧ (running.dir 0 1).gapAt = none := by
  and_intros <;> decide +kernel
theorem test_hyp_BundlesChangeMapAtQuietPoints : running.rb .d2dCtrl [1] 0 = true ∧
    ({ running with regs := [(Reg.d2dCtrl.addr [1], 0)] } : State).rb .d2dCtrl [1] 0 = false ∧
    (0 : BitVec 6).toNat < running.rf .d2dCtrl [1] 8 6 ∧ whole.work.getLsbD 33 = true ∧ whole.fails ≤ max 1 (running.rf .d2dCtrl [1] 16 16) ∧
    max 1 (running.rf .d2dCtrl [1] 16 16) < 65536 ∧ whole.noBad < 3 ∧ whole.quiet = false ∧ whole.quietWait = none := by
  and_intros <;> decide +kernel
theorem test_hyp_BundlesTrainAndAreQuiesced : (running.bundle 0 1 0).width = 3 ∧ ((withBundle whole running).bundle 0 1 0).width ≠ 3 ∧
    ((withBundle whole running).bundle 0 1 0).inReset = false ∧ running.quadDown 3 = false ∧
    leAt (descr 0x23 [(8, [0, 1, 63, 1])]).bytes 11 1 = 1 ∧ running.rst.reach = none ∧
    (State.reset.rst.reach ≠ none ∧ State.reset.rst.step < 9) ∧ (withBundle { whole with inService := some 7, inReset := true } running).bundle 0 1 0 ≠ {} := by
  and_intros <;> decide +kernel
theorem test_hyp_TheTestChainShowsOnlyItsCode : ({ running with pins := { trstN := true } } : State).pins.trstN = true ∧
    ({ running with pins := { trstN := false } } : State).pins.trstN = false ∧
    running.sec.fuses.chainClosed = false ∧ running.sec.fuses.wiresWritten = false ∧ Config.tapIdcode ≠ Config.tapBypass ∧
    Config.tapMeasure ≠ Config.tapBypass ∧ Config.tapMeasure ≠ Config.tapIdcode ∧
    (({ fuses := { chainClosed := true, wiresWritten := true } } : SecSt).fuses.chainClosed = true) := by
  refine ⟨by decide, by decide, by decide, by decide, ?_, ?_, ?_, rfl⟩ <;>
    simp only [Config.tapMeasure, Config.tapIdcode, Config.past] <;> split <;> (try split) <;> (try split) <;> omega

/-! ### The data path -/

def ctx0 : FrameCtx := { fid := 0, bytes := small, src := .port 0, stampUs := 0, free := 0, vcIn := 0, cellsIn := 1, share := 1 }
def wait0 : Waiting := { ctx := ctx0, target := .unicast 0 0 }
def rx0 (ok : Bool) (l : W16) : RxFrame :=
  { pre := preamble l false false 0 1, bytes := small, fcsOk := ok }
def dom0 : Domain := { src := 1, dst := 2, flow := 3 }
def record0 : DomRec := { quad := 0, dom := dom0, l := 0, map := 0, slipHi := none, birth := some (0, 4), lastDep := 0 }
def held0 (src : IngressSrc) : Held := { quad := 0, dom := dom0, seq := 5, precnt := 1, since := 0, wait := { wait0 with ctx := { ctx0 with src } } }
theorem test_hyp_FramesAreCheckedAndOrdered : ((upPort 1 running).port 0).up = true ∧ (armed0.port 0).up = false ∧
    (rx0 true 1).preOk = true ∧ (rx0 true 1).ctrl = false ∧ (rx0 true 1).lsn = 1 ∧ ((upPort 1 running).port 0).widthIn = [] ∧
    ((upPort 1 running).port 0).retryOn = false ∧ ((withPort { up := true, retryOn := true, lsnExpect := 1 } running).port 0).reqPending = false ∧
    64 ≤ small.length + 4 ∧ running.isOvdu 0 small = false ∧ beyondOf ((upPort 1 running).port 0) (rx0 true 1) ≤ 64 ∧
    beyondOf (withPort { up := true, advertised := [9] } running |>.port 0) (rx0 true 1) = 0 ∧
    (rx0 true 1).lsn ≠ ((upPort 1 running).port 0).lsnExpect ∧ ((rx0 true 1).lsn - ((upPort 1 running).port 0).lsnExpect).toNat < 32768 ∧
    ((rx0 true 32767).lsn - 0).toNat < 32768 ∧ running.live = true ∧
    ({ running with doms := [record0] } : State).domRec 0 dom0 = some record0 ∧ precedes record0.l 4 = true ∧
    running.domRec 0 dom0 = none ∧ ({ running with held := [held0 (.service 0)] } : State).hasHeld 0 dom0 = true ∧
    ({ running with held := [held0 (.service 0)] } : State).held.find? (fun h => h.quad = 0 && decide (h.dom = dom0) && h.seq = 5) =
      some (held0 (.service 0)) ∧ running.time.core ≠ (held0 (.service 0)).since + 2000 * running.rf .portFence [0] 0 16 := by
  and_intros <;> decide +kernel
def stream0 : StreamId := cell0.st
def withCells (s : State) : State :=
  { s with s1 := [(0 * 256 + 1, [cell0])], s2 := [(1, [cell0])], lanesIn := [(0, [cell0])], bundles := (withBundle whole s).bundles,
           streams := [(streamKey stream0, { endedAt := some 0, frags := [{ fid := 0, len := 8, first := true, last := true }] })],
           reseq := [(streamKey stream0, { missingAt := some 0 })] }
theorem test_hyp_CellsMoveThroughTheFloor : State.reset.live = false ∧ running.live = true ∧ ((withCells running).stream stream0).endedAt ≠ none ∧
    ((withCells running).stream stream0).frags ≠ [] ∧ (running.stream stream0).endedAt = none ∧ ((withCells running).stream stream0).held = [] ∧
    (withCells running).s2q 0 1 = [cell0] ∧ (withCells running).dirDown 0 1 = false ∧
    SMap.get (withCells running).lanesIn ((0 * 64 + 0) * 64 + (0 + 0) % 64) [] = [cell0] ∧ ((withCells running).reseqOf stream0).missingAt ≠ none ∧
    (withCells running).missingFrames stream0 = [] ∧ (running.reseqOf stream0).missingAt = none ∧ hasSlot 0 0 = true := by
  and_intros <;> decide +kernel
def waitingAt0 (s : State) : State := { s with waiting := [(waitKey (.port 0) 0, [wait0])] }
def repl0 : ReplItem := { ctx := { ctx0 with bytes := zeros 16 }, copies := [], charged := false }
theorem test_hyp_FramesAreAdmittedOrDropped : (waitingAt0 running).waitList (waitKey (.port 0) 0) = [wait0] ∧ running.partitioned = false ∧
    (running.port 0).armed = false ∧ running.tooOld 0 = false ∧ running.transitHold 0 0 = false ∧
    (running.queue 0 0).depth + frameCells small ≤ running.threshold 0 ∧ running.isGeneral 0 small = true ∧
    (running.floor 0).repl = [] ∧ running.waitList (waitKey (.port 0) 0) = [] := by
  and_intros <;> decide +kernel
def entry0 : QEntry := { fid := 0, bytes := small, src := .port 1, stampUs := 0, free := 0, cells := 1, released := 1 }
def queued (s : State) : State := { s with queues := [(7, { entries := [entry0] })] }
theorem test_hyp_BoundariesSendWhatTheRulesChoose : running.txAllowed 0 = false ∧ (upPort 1 running).txAllowed 0 = true ∧
    (upPort 1 running).fitsLaunch 0 66 = true ∧ ((queued (upPort 1 running)).queue 0 7).entries = [entry0] ∧
    (queued (upPort 1 running)).creditsFor 0 0 1 = true ∧ (queued (upPort 0 running)).creditsFor 0 0 1 = false ∧
    (queued (upPort 1 running)).shaped 0 7 = false ∧ (queued (upPort 1 running)).headCost 0 7 ≤ (queued (upPort 1 running)).vcQuantum 0 0 ∧
    (queued (upPort 1 running)).retryFits 0 (frameLen small) = true ∧ ((queued (upPort 1 running)).headFenced 0 entry0).2 = false ∧ (queued (upPort 1 running)).isOvdu 0 small = false ∧
    ((queued (upPort 1 running)).port 0).drr = {} := by
  and_intros <;> decide +kernel
theorem test_hyp_ShapersAndPolicersTakeEffectAtBoundaries : running.quadHeld 0 = false ∧ State.reset.quadHeld 0 = true ∧
    (running.queue 0 0).cal = none ∧ SMap.wf {} (queued running).queues = true ∧ SMap.wf {} running.pols = true ∧
    nthD running.tmPolEn 0 true = true := by
  and_intros <;> decide +kernel

/-! ### The address table -/

def key5 : W64 := eidKey 0x10001
/-- A learned entry of endpoint 0x10001 behind sheaf 3, and where home 0 keeps it. -/
def learned5 : Entry := learnedEntry key5 3 false
def bucket5 : Nat := (running.buckets 0 key5).1
/-- Home 0 with that entry, its sweeper at the entry's bucket, a walk at a bucket, and messages on its way. -/
def tableUp (t : TableSt) (s : State) : State :=
  { s with home := [(homeKey 0 bucket5 0, learned5)], tables := [(0, t)], chan := [(1, [.reply key5 (some learned5), .invalidate key5 none])],
           lookups := [{ quad := 1, key := key5, ctx := ctx0 }], regs := [(Reg.tblLearn.addr [0], 2)] }
def learns (k : W64) (mv : Bool) : TableSt := { queue := [{ key := k, sheaf := 4, move := mv, port := 0, since := 0 }], refresh := [k] }
def hostRec5 (e : Entry) : HostRec := { entry := e, addr := 0x1000, cmd := ⟨0, 0, 0⟩, since := 0 }
/-- A load record of the entry (R86): 0 installs it, 1 deletes it. -/
def record5 (op : Nat) : Entry := eSet learned5 64 2 op
theorem test_hyp_TheTableLearnsAgesAndForgets : running.live = true ∧
    ((tableUp (learns key5 true) running).homeFind 0 key5).2 = some (bucket5, 0, learned5) ∧ eSheaf learned5 = 3 ∧ eStatic learned5 = false ∧
    (tableUp {} running).rb .tblLearn [0] 1 = true ∧ ({ running with regs := [(Reg.tblLearn.addr [0], 0)] } : State).rb .tblLearn [0] 1 = false ∧
    ((tableUp {} running).homeFind 0 (eidKey 6)).2 = none ∧ ((tableUp {} running).freeWay 0 (running.buckets 0 (eidKey 6)).1).2 = some 0 ∧
    (running.table 0).queue = [] ∧ parityOk learned5 = true ∧
    (tableUp (learns key5 true) running).recordAhead 0 key5 0 = false ∧
    ({ running with hostRecs := [hostRec5 learned5] } : State).recordAhead 0 key5 0 = true ∧
    running.sweepHeld 0 0 = false ∧ (running.table 0).sweepMs ≠ 0 ∧
    (tableUp {} running).chanOf 0 1 = [.reply key5 (some learned5), .invalidate key5 none] ∧
    running.lookups.find? (fun w => w.quad = 1 && w.key = key5) = none := by
  and_intros <;> decide +kernel
/-- A read of entries with sound parity changes nothing, so the lookups above answer the state itself. -/
theorem test_sound_reads_change_nothing : (tableUp (learns key5 true) running).readWay 0 bucket5 0 =
    (tableUp (learns key5 true) running, learned5) ∧ ((tableUp {} running).homeFind 0 key5).1 = tableUp {} running ∧
    ((tableUp {} running).freeWay 0 bucket5).1 = tableUp {} running := by
  and_intros <;> decide +kernel
theorem test_hyp_TheTableIsLoadedDumpedAndRehashed :
    leAt (descr 5 [(16, [1])]).bytes 16 4 = 1 ∧ running.quadDown (running.homeOf 0 (eKey learned5)) = false ∧
    leAt (descr 6 [(8, [1])]).bytes 8 1 = 2 ^ 0 ∧ ((tableUp {} running).dumpHome 0).2 = [learned5] ∧ leAt (descr 7 [(12, [0x34, 0x12])]).bytes 12 2 = 0x1234 ∧
    running.rf .tblBucket [0] 0 16 ≠ 0x1234 ∧ (running.table 0).rehash = none ∧ running.recordBad 0 = true ∧
    ({ running with hostRecs := [hostRec5 0] } : State).hostRecs.find? (fun r => running.homeOf 0 (eKey r.entry) = running.homeOf 0 0) =
      some (hostRec5 0) ∧ running.loads = [] ∧ running.hif.busMaster = true ∧ running.hostRecs = [] ∧
    (tableUp (learns key5 false) running).learnAhead 0 key5 1 = true ∧ running.learnAhead 0 key5 1 = false ∧ running.changeHeld 0 key5 0 = false ∧
    ({ running with sheaves := [(3, ⟨false, 0, [0]⟩)] } : State).recordBad (record5 0) = false ∧
    ({ running with sheaves := [(3, ⟨false, 0, [0]⟩)] } : State).recordBad (record5 1) = false ∧ eFld (record5 1) 64 2 = 1 ∧ eFld (record5 0) 64 2 = 0 ∧
    eKey (record5 0) = key5 ∧ running.held = [] ∧ running.isSvcEid 0 (fld key5.toNat 0 32) = false ∧
    running.isSvcEid 0 (fld (eidKey (running.svcEid 0 0)).toNat 0 32) = true ∧ running.chan = [] ∧
    ((tableUp { rehash := some (2 ^ 21, 1, 2) } running).table 0).rehash = some (2 ^ 21, 1, 2) := by
  and_intros <;> decide +kernel
/-- A sheaf of one port, and a flood group over it. -/
def sheafRec : List Byte := recordOf 64 [(2, [1, 1, 1]), (8, [0, 0])]
def groupRec : List Byte := recordOf 160 [(2, [3, 1]), (18, [1]), (32, [1])]
theorem test_hyp_FencesSheavesAndGroupsAreSet : running.isSvcEid 0 0x10001 = false ∧ running.quadDown (running.homeOf 0 (eidKey 0x10001)) = false ∧
    running.isSvcEid 0 (running.svcEid 0 0) = true ∧ running.held = [] ∧ running.homeOf 0 key5 = 0 ∧ ((tableUp {} running).homeFind 0 key5).2 = some (bucket5, 0, learned5) ∧
    running.pwr.state ≠ 3 ∧ ({ running with regs := [(Reg.portLink.addr (pix 0), 1)] } : State).sheafBad sheafRec = none ∧ running.sheafBad (recordOf 64 [(2, [1])]) = none ∧
    running.sheafBad (recordOf 64 [(2, [3, 0, 1])]) ≠ none ∧
    ({ running with sheaves := [(0, ⟨false, 0, [0]⟩)] } : State).groupBad groupRec = none ∧ running.groupBad (recordOf 160 [(2, [9])]) ≠ none := by
  and_intros <;> decide +kernel

/-! ### Plans, Mash and Kiln -/

/-- An image of one contributor, integers, one chunk of 64 elements, in quadrant 0 (R157), with its CRC. -/
def imageBytes : List Byte := recordOf 192
  [(0, [0x31, 0x4C, 0x50, 0x4E, 1, 0, 1, 0, 192]), (16, [7, 0, 1, 1, 0x10, 0x10, 1, 0, 64]), (32, [1, 0, 0, 0, 1]), (40, [64]), (48, [66]),
   (64, [1]), (80, [1, 0, 0, 0, 1, 0, 1, 0, 1, 0, 0, 0, 9]), (96, [64]), (124, [0x56, 0x5F, 0xFC, 0x8E]), (128, [1, 0, 1])]
def image0 : Image := readImage imageBytes
/-- Traffic class 0 of quadrant 0 is of the Collective class. -/
def collective : State := { running with regs := [(Reg.portTcmap.addr [0], 2)] }
/-- The manual's checks of R159 find nothing wrong with it, and something with it once any of its fields is out of range. -/
theorem test_image_is_sound : imageFault imageBytes (collective.rf .portTcmap [0] 0 16) = none ∧
    imageFault (patch imageBytes 19 [9]) (collective.rf .portTcmap [0] 0 16) = some 18 ∧
    imageFault (patch imageBytes 125 [0]) (collective.rf .portTcmap [0] 0 16) = some 124 := by
  and_intros <;> decide +kernel
def plan0 (u : Option (Bool × CmdRef)) (is : List Inst) : Plan :=
  { slot := 0, img := image0, qtab := [], insts := is, outBuf := 0, outLen := 4096, unload := u }
def withPlan (p : Plan) (s : State) : State := { s with plans := [(0, p)] }
def inst0 (st : CtxState) (cs : List Chunk) : Inst := { n := 0, state := st, before := .running, extent := 64, openNs := 0, timer := 0, chunks := cs }
def load0 : QueuedLoad := { slot := 3, img := image0, outBuf := 0, outLen := 4096, cmd := ⟨0, 0, 0⟩ }
theorem test_hyp_PlansAreLoadedAndUnloaded :
    padTo (max 128 (min (leAt imageBytes 8 4) (2 ^ 20))) imageBytes = imageBytes ∧ leAt imageBytes 30 1 % 4 = 0 ∧
    collective.plan 0 = none ∧ collective.pwr.state ≠ 3 ∧ collective.sec.lcState ≠ 3 ∧ collective.smallClass = false ∧
    collective.namesOwn image0 = false ∧ image0.ctxDepth * slotBytes image0 ≤ 4096 ∧ planQuads image0 = [0] ∧ collective.quadDown 0 = false ∧
    collective.planFits image0 = true ∧ collective.planFits { image0 with elems := [5592406, 0, 0, 0] } = false ∧
    collective.planWillFit { image0 with elems := [5592406, 0, 0, 0] } = false ∧
    ({ collective with loadQ := [load0] } : State).loadQ.find? (fun x => x.slot = 3) = some load0 ∧
    (withPlan (plan0 none []) running).plan 0 = some (plan0 none []) ∧ (plan0 (some (true, ⟨0, 0, 0⟩)) []).insts.any isOpen = false ∧
    (plan0 none [inst0 .running []]).insts.any isOpen = true ∧ leAt (descr 0x11 []).bytes 10 1 ≤ 1 := by
  and_intros <;> decide +kernel
/-- A contribution of 64 elements to chunk 0 of instance 0 of plan slot 0, and the context it comes in. -/
def contribFrame : Frame := mkOvdu 0x88B5 { op := opPut, job := 7, flow := 1, len := 256, src := 0x10001, dst := 0, win := 9 } (zeros 256)
def ctxOf (f : Frame) : FrameCtx := { ctx0 with bytes := f }
def msg0 : MsgSt := { idx := 0, hdr := [], taken := [0] }
def chunk0 (ms : List MsgSt) (rs : List RecvSt) : Chunk := { c := 0, quad := 0, tun := 0, elems := List.replicate 64 {}, msgs := ms, recvs := rs }
def work0 : Work := { slot := 0, n := 0, c := 0, ring := false, idx := 0, part := 0, payload := zeros 256, ctx := ctxOf contribFrame }
theorem test_hyp_MashTakesAndAddsContributions :
    mSlot contribFrame = 0 ∧ oWinKey contribFrame = image0.key.toNat ∧ oJob contribFrame = image0.job.toNat ∧
    (withPlan (plan0 none []) running).judgeMash (plan0 none []) contribFrame false = .contrib 0 0 ∧
    (withPlan (plan0 none []) running).judgeMash (plan0 none []) (patch contribFrame 38 [0, 1]) false = .nack 4 1 ∧
    running.tun 0 = {} ∧ ({ running with tuns := [(0, { queue := [work0] })] } : State).tun 0 = { queue := [work0], deficit := [] } ∧
    findInst (plan0 none [inst0 .running [chunk0 [msg0] []]]) 0 = some (inst0 .running [chunk0 [msg0] []]) ∧ image0.kind ≠ 6 ∧
    (chunk0 [msg0] []).msgs.find? (fun m => m.idx = 0) = some msg0 ∧ 0 < image0.contribs.length ∧
    1 ∈ expected { image0 with chunkElems := 4096, extent := 4096 } { inst0 .running [] with extent := 4096 } 0 0 ∧ 1 ≠ work0.part ∧ 1 ∉ msg0.added ∧
    image0.levels ≠ 2 ∧ instD (plan0 none []) 5 < 2 ^ 19 ∧ findInst (plan0 none []) 5 = none ∧ running.isSvcEid 0 0x10002 = false ∧
    namedFrom (plan0 none []) false 0 5 0x10002 = false ∧ running.inst 0 0 = none := by
  and_intros <;> decide +kernel
theorem test_hyp_MashTimersEndWaitAndRetry : owesAny (running.stuck 0) image0 (inst0 .running []) = true ∧
    owesAny (running.stuck 0) image0 { inst0 .running [] with heard := [0], done := [0] } = false ∧ image0.wait = false ∧ image0.tries = 1 ∧
    (chunk0 [] [{ idx := 0, sends := 1 }]).recvs.find? (fun y => y.idx = 0) = some { idx := 0, sends := 1 } ∧
    answeredResult { plan0 none [inst0 .running [chunk0 [] [{ idx := 0, seqs := [5] }]]] with
      img := { image0 with lines := [⟨1, 0x10001, 1, 0, 0, 0, 0⟩] } }
      (mkOvdu 0x88B5 { op := opAck, tc := 0, job := 7, flow := 0, len := 0, seq := 5, src := 0x10001, dst := 0, addr := 0, win := 0 } []) opAck =
      some (0, 0, 0) := by
  and_intros <;> decide +kernel
def tile0 : Tile := { slot := 0, n := 0, c := 0, t := 0, group := 0, groups := 1, pass := 0, data := [] }
def array0 (is : List (Nat × Tile)) (d : Nat) (t : Bool) : ArraySt := { state := .reserved, stream := 0, duty := d, issued := is, testing := t }
def kiln0 (x : ArraySt) (ts : List (Nat × Tile)) : State :=
  { running with arrays := [(0, x)], kstreams := [(0, { slot := 0, recv := false, arrays := [0], tiles := ts })], regs := [(Reg.klnCtrl.addr [0], 1)] }
/-- A ring plan on the Kiln, its only chunk with level 0 done and the partial added. -/
def prog0 : KilnProg :=
  { heldFmt := 2, codedFmt := 4, lanes := 16, stochastic := false, preshift := 0, passes := 1, arrays := [1, 0, 0, 0], held := [], sendBanks := [0] }
def ringImage : Image := { image0 with levels := 2, ringForm := 3, ring := some ⟨2, 0, 5, 6⟩, contribs := [], kiln := some prog0 }
/-- An array whose last pass is one millisecond old, with KAT_FORCE_MS 1. -/
def kat0 : State :=
  { kiln0 (array0 [] 8 false) [] with regs := [(Reg.klnCtrl.addr [0], 1), (Reg.klnKat.addr [0], 0x10000)], time := { running.time with core := 2000000 } }
theorem test_hyp_KilnArraysWorkTestAndRetire : running.live = true ∧ (kiln0 { array0 [] 8 false with opbuf := [(0, tile0)] } []).nextTile 0 = some (0, tile0) ∧
    (kiln0 (array0 [] 8 false) []).arrayWork 0 = false ∧ (kiln0 (array0 [] 8 false) []).rb .klnCtrl [0] 0 = true ∧
    (kiln0 { array0 [] 3 false with opbuf := [(0, tile0)] } []).arrayWork 0 = true ∧ kat0.rf .klnKat [0] 16 16 ≠ 0 ∧ (kat0.array 0).passAt + 2000000 * kat0.rf .klnKat [0] 16 16 ≤ kat0.time.core ∧ kat0.rb .klnCtrl [0] 0 = true ∧
    (kiln0 (array0 [(0, tile0)] 8 true) []).plan 0 = none ∧ ((kiln0 (array0 [] 8 true) []).array 0).testing = true ∧
    (kiln0 (array0 [] 8 true) []).planStream 0 0 false = some (0, { slot := 0, recv := false, arrays := [0] }) ∧
    level0Done ringImage (inst0 .running []) (chunk0 [] []) = true ∧ partialDone ringImage (inst0 .running []) { chunk0 [] [] with c := 1 } = true ∧
    ringK ringImage 1 ≠ 0 ∧ (kiln0 (array0 [] 8 true) []).freeArray 0 = none ∧
    (kiln0 (array0 [] 8 false) []).streamLoad prog0 0 { slot := 0, recv := false, arrays := [0] } + 2 * min 64 2048 + fmtBytes prog0.codedFmt
      (min (2048 / kGroup prog0) (64 / kGroup prog0) * kGroupCoded prog0) ≤ 393216 := by
  and_intros <;> decide +kernel
/-- A ring plan at position 1 of 2 without contributors: its chunk 0 opens by itself. -/
def selfInst : Inst := { inst0 .running [] with extent := 64 }
def selfPlan : Plan := { plan0 none [selfInst] with img := { ringImage with ring := some ⟨2, 1, 5, 6⟩ } }
theorem test_hyp_chunk_opens_by_itself : (List.range (min (numChunks selfPlan.img selfInst.extent) (lowOf selfPlan.img selfInst + selfPlan.img.pipeDepth))).find?
      (fun c => ringK selfPlan.img c = 1 && !selfInst.done.contains c && (findChunk selfInst c).isNone &&
        (List.range selfPlan.img.contribs.length).all fun k => (expected selfPlan.img selfInst c k).isEmpty) = some 0 ∧
    (withPlan selfPlan running).chunkRoom selfPlan selfInst 0 = none := by
  and_intros <;> decide +kernel

/-! ### The Cask and the tap -/

/-- An image of one chunk of 8,192 bytes that is stored (R378), and the image itself. -/
def pitchRec : List Byte := recordOf 80 [(0, [1]), (4, [7, 0, 1]), (8, [0, 0x20]), (16, [9]), (20, [1, 0, 1])]
def pitch0 (st : PitchState) (ch : List Nat) : PitchImg := { recImage (padTo 1104 pitchRec) with state := st, present := ch }
def withImage (x : PitchImg) (s : State) : State := { s with pitch := [(0, x)] }
def pitchFrame (op : Nat) (key : Nat) : Frame := mkOvdu 0x88B5 { op, job := 7, len := 8192, src := 0x10001, dst := 1, win := 2 ^ 32 + key } []
def layout0 : State := { running with regs := [(Reg.caskRegion.addr [0], 0x10202060)] }
theorem test_hyp_CaskImagesAreOpenedAndServed : recBad (padTo 1104 pitchRec) 80 = false ∧ recBad (padTo 1104 pitchRec) 96 = true ∧
    running.isSvcEid 0 0x10001 = false ∧ (recImage (padTo 1104 pitchRec)).lines = [] ∧ running.pitchDown = false ∧
    running.pitchSlot 1 = none ∧ (List.range 16).find? (fun k => decide ((running.pitchImg k).state = .free)) = some 0 ∧
    (running.pitchPlaces 0 (imgChunks (pitch0 .free [])) false).isSome = true ∧ (running.pitchPlaces 0 (imgChunks (pitch0 .free [])) true).isSome = true ∧
    (withImage (pitch0 .partly [0]) running).pitchSlot 1 = some 0 ∧ leAt (recordOf 8 [(0, [1])]) 4 4 = 0 ∧
    fld (running.layout 0) 0 8 + fld (running.layout 0) 8 8 + fld (running.layout 0) 16 8 + fld (running.layout 0) 24 8 = 256 ∧
    running.layoutHeld 0 (running.layout 0) = false ∧ (withImage (pitch0 .opened []) running).pitchFails (pitchFrame opPut 8) = some (36, rWindowDenied, 1) ∧
    (withImage (pitch0 .opened []) running).pitchFails (pitchFrame opPut 9) = none ∧
    (withImage (pitch0 .sealed [0]) running).pitchFails (pitchFrame opGet 9) = none ∧ (pitch0 .opened []).store = true ∧
    oAddr (pitchFrame opGet 9) / 8192 = 0 := by
  and_intros <;> decide +kernel
/-- A tap rule for ports 0 to 3 into the Cask, a filter of quadrant 0, a START, and the records that wait. -/
def ruleRec : List Byte := recordOf 64 [(0, [1]), (6, [3, 0, 1, 2])]
def filterRec : List Byte := recordOf 64 [(0, [2]), (6, [3, 0, 1])]
def rec160 (ck : Bool) : TapRec := { cask := ck, sample := false, bytes := zeros 160 }
def tapUp (t : TapSt) : State := { ringsUp with tap := t, rings := SMap.put ringsUp.rings 33 { enabled := true } }
theorem test_hyp_CaptureAndModesFollowTheirRules : leAt ruleRec 9 1 = 2 ∧ allZero ruleRec 10 22 = true ∧ leAt ruleRec 1 1 ≤ 15 ∧ leAt ruleRec 33 1 ≤ 15 ∧
    leAt filterRec 4 2 / 256 = leAt filterRec 2 1 ∧ allZero filterRec 9 23 = true ∧ (running.tap).running = false ∧
    (running.tapCap 0 = 107374182) ∧ (tapUp { running := true, staged := [(0, rec160 true)] }).tap.staged.find? (fun x => x.1 = 0) = some (0, rec160 true) ∧
    (tapUp {}).ringRoom 33 1 = true ∧ running.ringRoom 33 1 = false ∧ (tapUp { mode := 3 }).recoveryNeeded = false ∧
    ({ running with rst := { running.rst with quadInReset := 2 } } : State).recoveryNeeded = true ∧ running.tap.mode = 1 ∧
    (tapUp { mode := 0 }).plans = [] ∧ running.hif.linkUp = true := by
  and_intros <;> decide +kernel

/-! ### Reset, power, errors, firmware -/

theorem test_hyp_SourcesAssertAndReleaseReaches : RstSource.porSupply ∈ State.reset.rst.held ∧ RstSource.porPin ∉ running.rst.held ∧
    State.reset.rst.reach = some .powerOn ∧ State.reset.rst.step = 0 ∧ ({ running with rst := { running.rst with perstLow := true } } : State).rst.perstLow = true ∧ running.rst.perstLow = false ∧
    running.rb .rstCfg [] 0 = false ∧ running.hif.linkUp = true ∧ fld 0xC0DE0002 16 16 = 0xC0DE ∧ bit 0xC0DE0002 1 = true ∧
    State.reset.bankOk 0 = true ∧ State.reset.bankOk 1 = false ∧ State.reset.sec.nextBank.getD State.reset.sec.bootBank = 0 ∧
    running.wipesCask = false ∧ State.reset.wipesCask = true ∧ running.sysHeld = false ∧
    ({ running with clk := { refOk := true } } : State).clk.refOk = true := by
  and_intros <;> decide
theorem test_hyp_BlocksResetAndPowerStatesChange : running.blockDown 4 1023 = false ∧ running.blockIdle 4 1023 = true ∧
    running.blockIdle 1 3 = true ∧ ((withBundle { width := 0 } running).updBundle 1 0 0 fun _ => { width := 0 }).blockIdle 5 0 = true ∧ (upPort 0 running).blockIdle 4 0 = false ∧
    ({ running with blockRst := [(4, 0, ⟨0, 0, 0⟩)] } : State).blockDown 4 0 = true ∧ running.pwr.transition = none ∧ running.pwr.trip = false ∧
    running.anyArmed = false ∧ running.anyOpen = false ∧ armed0.anyArmed = true ∧
    (withPlan (plan0 none [inst0 .running []]) running).anyOpen = true ∧ running.lookups = [] := by
  and_intros <;> decide +kernel
def errRec (n : Nat) : ErrRec := { cls := 4, sev := 1, quad := 0, seq := 7, timeNs := 0, lastNs := 0, count := n, detail := zeros 32 }
def withRecord (n : Nat) : State := { running with err := { queue := [errRec n] } }
theorem test_hyp_RecordsAreAcknowledged : (withRecord 2).hif.linkUp = true ∧
    (withRecord 2).err.queue.find? (fun r => decide (r.seq = 7)) = some (errRec 2) ∧ (∀ r ∈ (withRecord 2).err.queue, r.seq ≠ 8) := by
  decide
theorem test_hyp_ErrorsHealthAndFirmwareAreHandled : running.asserted = false ∧ State.reset.asserted = true ∧ (withRecord 1).err.queue.length < 256 ∧
    (List.replicate 256 (errRec 1)).length = 256 ∧ running.live = true ∧ (armed0.port 0).armed = true ∧ (armed0.port 0).hstate = .healthy ∧
    armed0.pinned 0 = false ∧ armed0.budgetLeft = true ∧ armed0.widthAllows 0 = true ∧ running.fwLive = true ∧ State.reset.fwLive = false ∧
    running.bankOk 0 = true ∧ running.bankOk 1 = false ∧ armed0.suspectLvl ≤ 255 ∧
    ({ armed0 with regs := [(Reg.hlthBudget.addr [0], 0)] } : State).budgetLeft = false ∧
    ((withPort { hstate := .degraded, readmitAt := some 0 } running).port 0).readmitAt.isSome = true := by
  and_intros <;> decide +kernel
/-- The first bytes of an image whose header passes, and a request to scrap the module. Whether a signature holds is free, so
that no test fixes it. -/
def imageHead (body : Nat) : List Byte := recordOf 1024 [(0, [0x31, 0x47, 0x57, 0x46]), (12, leBytes 4 body)]
def scrapRequest : List Byte := [4] ++ zeros 47 ++ leBytes 8 Config.serial.toNat ++ zeros 72
def provisioned : State := { running with sec := { lcState := 1 } }
theorem test_serial_reads_back : leAt scrapRequest 48 8 = Config.serial.toNat := by
  have h := leNat_leBytes 8 Config.serial.toNat
  have e : Config.serial.toNat % 256 ^ 8 = Config.serial.toNat := Nat.mod_eq_of_lt Config.serial.isLt
  exact Eq.trans rfl (h.trans e)
theorem test_scrap_request_is_well_formed : provisioned.lifeBad 4 128 scrapRequest = false := by
  unfold State.lifeBad
  rw [test_serial_reads_back]
  simp only [decide_not, decide_true, Bool.not_true, Bool.or_false]
  rfl
theorem test_hyp_ImagesAreStagedAndTheLifeCycleMovesOn : imageField (padTo 1024 (imageHead 64)) = none ∧ imageField (padTo 1024 []) = some 0 ∧
    imageField (padTo 1024 (imageHead 63)) = some 12 ∧ running.sec.staging = none ∧ running.sec.activating = false ∧ leAt (imageHead 64) 12 4 = 64 ∧
    running.sec.trial = false ∧ running.sec.fallback = false ∧ provisioned.lifeAllowed 4 scrapRequest = true ∧ running.lifeAllowed 4 [] = false ∧
    ({ running with sec := { running := { svn := 3, slot := 1 } } } : State).sec.fuses.svn < 3 ∧ running.sec.idKey = false ∧ ({ running with sec := { idKey := true, hasCert := true } } : State).sec.idKey = true ∧
    provisioned.lifeBad 4 64 scrapRequest = true ∧ provisioned.anyArmed = false ∧ provisioned.plans = [] ∧ provisioned.loadQ = [] ∧
    ({ running with sec := { bootFail := true } } : State).hif.busMaster = true ∧ running.sec.bootFail = false := by
  and_intros <;> first | decide +kernel | rfl
theorem test_hyp_InputsAndTemperaturesAreWatched : running.monitored = true ∧ State.reset.monitored = false ∧
    (∀ i, i < 57 → (running.temp i).toInt ≤ 4 * ((running.warnLevel i : Int) - 5)) ∧
    (∀ i, i < 57 → (running.temp i).toInt ≤ 4 * ((tripLevel i : Int) - 15)) ∧
    SMap.get ({ running with pwr := { hot := [(24, 4)] } } : State).pwr.hot 24 0 = 4 ∧ SMap.get running.pwr.hot 24 0 = 0 ∧
    ¬((4000 : Nat) < 4000) ∧ ¬((5600 : Nat) < 5600) ∧ ¬((2000 : Nat) < 1000 + 1000) := by
  and_intros <;> decide +kernel

/-! ### The manual's worked examples -/

/-- Bytes 0 to 61 of the fenced PUT (spec/02, example under Malformed and violating frames). -/
theorem test_example_frame : (mkOvdu 0x88B5 { op := opPut, tc := 4, fence := true, last := true, job := 0x123, flow := 7, len := 4096, seq := 64,
                                               precnt := 16, src := 0x21A2A609, dst := 0x21D01920, addr := 0x4000000000,
                                               win := 0x300005A1C } []).take 62 =
    [0x02, 0x00, 0x21, 0xD0, 0x19, 0x20, 0x02, 0x00, 0x21, 0xA2, 0xA6, 0x09, 0x88, 0xB5, 0x11, 0x8C, 0x01, 0x23, 0x00, 0x07, 0x10, 0x00,
     0, 0, 0, 0x40, 0, 0, 0, 0x10, 0x21, 0xA2, 0xA6, 0x09, 0x21, 0xD0, 0x19, 0x20, 0, 0, 0, 0x40, 0, 0, 0, 0,
     0, 0, 0, 3, 0, 0, 0x5A, 0x1C, 0, 0, 0, 0, 0, 0, 0, 0] := by decide
/-- Its length and credits: 4,162 bytes, 17 cells. -/
theorem test_example_credits : frameLen (zeros 4158) = 4162 ∧ frameCells (zeros 4158) = 17 := by
  and_intros <;> decide +kernel
/-- The spray of SEQ 60 to 64 over six links, and of SEQ 64 over five (spec/03). -/
theorem test_example_spray : (List.range 5).map (fun k => pickMod [0, 1, 2, 3, 4, 5] (40001 + 60 + k)) = [some 5, some 0, some 1, some 2, some 3] ∧
    pickMod [0, 1, 2, 4, 5] (40001 + 64) = some 0 := by decide
/-- The departures of the fence hold (spec/03): L 60, then 61, 60, 63, 62, 64 leave. -/
theorem test_example_fence : let go (r : DomRec) (x : W32) := (departIn r x 0).1
    let r0 := { record0 with l := 60 }
    (go r0 61).l = 60 ∧ (go (go r0 61) 60).l = 62 ∧ (go (go (go r0 61) 60) 63).l = 62 ∧
    (go (go (go (go r0 61) 60) 63) 62).l = 64 ∧ (go (go (go (go (go r0 61) 60) 63) 62) 64).l = 65 := by
  and_intros <;> decide +kernel
/-- The direction from Q1 to Q3 has 98 half-bundles, every other 128: the weights, and Q1's table (spec/04). -/
theorem test_example_weights : weightLoop (fun x y => if x = 1 && y = 3 then 98 else 128) 4 (List.replicate 4 [16, 16, 16, 16]) =
      [[16, 16, 16, 16], [16, 17, 16, 15], [16, 16, 16, 16], [16, 16, 16, 16]] ∧
    (rotation 1 [16, 17, 16, 15]).take 8 = [1, 2, 0, 3, 1, 2, 0, 3] ∧ (rotation 1 [16, 17, 16, 15]).count 3 = 15 ∧
    (rotation 1 [16, 17, 16, 15]).count 1 = 17 := by
  and_intros <;> decide +kernel
/-- The shaper of the burst (spec/05): 80 ps a byte; the first frame of an idle queue leaves NET 206.08 ns behind the present. -/
def shaped0 (net : Int) : State := { running with
  time := { running.time with free := 1000000 }, queues := [(4, { rate := 100000, net := net, entries := [entry0] })] }
theorem test_example_shaper : shaperI 100000 = 80 * 65536 ∧
    (((shaped0 0).shaperSend 0 4 1520).queue 0 4).net = (1000000000 - 206080) * 65536 ∧
    (((shaped0 ((1000000000 + 158720) * 65536)).placeQueue 0 4).queue 0 4).cal = some (250000 + 40) := by
  and_intros <;> decide +kernel
/-- The BF16 sum 256 + 1 + 1 − 2^−30 in two orders, which must agree (spec/07). -/
def sumOf (cs : List Nat) : Nat := (encodeFloat bf16 (resultOf 1 (cs.foldl (fun e c => (contribute 1 e (decodeFloat bf16 127 c)).1) {}))).1
theorem test_example_sum : sumOf [0x4380, 0x3F80, 0x3F80, 0xB080] = 0x4381 ∧ sumOf [0xB080, 0x3F80, 0x3F80, 0x4380] = 0x4381 := by
  and_intros <;> decide +kernel
/-- The MXFP8 block with 3.203125 and −2^−7 (spec/08), rounded to nearest and with rnd on both sides of the boundary. -/
def blockOf (m : RoundMode) : Nat × List Nat :=
  let r := encodeBlock e4m3 0 (fun _ => m) ([0x404D0000, 0xBC000000].map (decodeFloat fp32 127))
  (r.1, r.2.1.take 2)
theorem test_example_block : blockOf .nearest = (0x78, [0x7D, 0xB8]) ∧ blockOf (.stochastic 0x300000) = (0x78, [0x7D, 0xB8]) ∧
    blockOf (.stochastic 0x2FFFFF) = (0x78, [0x7C, 0xB8]) := by
  and_intros <;> decide +kernel
/-- The switch from domain A to domain B (R303): the three increments. -/
theorem test_example_servo : let off1 : Int := 1340 * 2 ^ 32
    let off2 : Int := off1 - 983222784 * 0x1110
    let off3 : Int := off2 - 2 ^ 24 * 0x1110 - 983222784 * 0x583
    servoIncr off1 (2 ^ 32) (2 ^ 32) 1000 = 0xFFFFEEF0 ∧ servoIncr off2 (2 ^ 32) 0xFFFFEEF0 1000 = 0xFFFFFA7D ∧
    servoIncr off3 (2 ^ 32) 0xFFFFFA7D 1000 = 0x100000018 := by decide
/-- The widths of bundle 17 with 32 and 31 working wires (spec/10). -/
theorem test_example_wires : widthFor 0x3FFEFFFDF = 2 ∧ widthFor 0x3FFEFFDDF = 1 := by decide
/-- The regions of the layout 192, 8, 16, 40 (spec/01). -/
theorem test_example_layout : (List.range 4).map (caskBase 0x281008C0) = [0, 192 * 2 ^ 30, 200 * 2 ^ 30, 216 * 2 ^ 30] ∧
    (List.range 4).map (caskSize 0x281008C0) = [192 * 2 ^ 30, 8 * 2 ^ 30, 16 * 2 ^ 30, 40 * 2 ^ 30] := by
  and_intros <;> decide +kernel
/-- The nesting of records (spec/14): one more parity error in Q1 counts in its record, one in Q2 opens the next. -/
theorem test_example_records : let s0 : State := { running with err := { nextSeq := 17 } }
    let s := (((s0.error 2 1 2 []).error 2 1 1 []).error 2 1 1 [9]).takeErrors
    s.err.queue.map (fun r => (r.seq, r.quad, r.count)) = [(17, 1, 2), (18, 2, 1)] ∧ s.err.nextSeq = 19 ∧
    s.err.queue.map (·.detail) = [zeros 32, zeros 32] := by
  and_intros <;> decide +kernel

/-! ### Single effects whose values the manual gives -/

/-- With DAMP_HALF_MS 1 a penalty of 1,000 halves in a millisecond (R252). -/
theorem test_flap_penalty_halves : flapDecay (flapUnits 1000) 1 = flapUnits 500 := by decide +kernel
/-- One write with STEP_GO and STEP_REARM: the step is taken against STEP_OK as it stood, which then is 1 again (R296). -/
theorem test_step_go_before_rearm : running.goStep.rearmStep.time.stepOk = true ∧
    ({ running with time := { stepOk := false } } : State).goStep.rearmStep.err.ignored = 1 := by
  and_intros <;> decide +kernel
/-- CE_THRESH 1: the second corrected error of a memory within a second writes a record of severity CORRECTED, the third none
(R363). -/
theorem test_corrected_errors : let s : State := { running with regs := [(Reg.errCfg.addr [], 1)] }
    let go (s : State) : State := (s.strike (.corrected 0 5 (.packet 9))).takeErrors
    (go s).err.queue = [] ∧ (go (go s)).err.queue.map (fun r => (r.cls, r.sev)) = [(0x01, 1)] ∧
    (go (go (go s))).err.queue.map (·.count) = [1] := by
  and_intros <;> decide +kernel
/-- A plan-bound map's group shows PLAN_BOUND only while the map is applied (R268). -/
theorem test_plan_bound : MeshSt.planBound { bound := [{ slot := 0, n := 0, map := normalMap }] } = false ∧
    MeshSt.planBound { bound := [{ slot := 0, n := 0, map := normalMap, prev := some normalMap }] } = true := by decide
/-- A lane that the fuses mark is not adopted in training (R283). -/
theorem test_fused_wires_are_cleared :
    ({ running with sec := { fuses := { badWires := [((4 * 0 + 1) * 64 + 2, 5)] } } } : State).trainVector 0 1 2 7 = 2 := by decide

/-! ### What meets the hypotheses of further clauses of the statements -/

/-- A state whose open time cycle holds an error. -/
def foundOne : State := { running with err := { found := [{ cycle := 0, ns := 0, cls := 4, sev := 1, quad := 0, detail := [] }] } }
theorem test_hyp_accesses_further : Reg.plain .tmCtrl = false ∧ regAt (Reg.tmCtrl.addr [0]) = some (.tmCtrl, [0]) ∧
    regAt (Reg.tblLearn.addr [0]) = some (.tblLearn, [0]) ∧ regAt (Reg.hifRingMod.addr [20]) = some (.hifRingMod, [20]) ∧
    running.regHeld (Reg.tmCtrl.addr [0]) = false ∧ SMap.find running.stage64 0x050010 = none ∧
    ({ running with sec := { bootFail := true } } : State).sec.bootFail = true ∧ reg64At 0x060000 0 = none ∧
    reg64At 0x060030 0 = some (.timeFree, []) ∧ writable64 .timeFree = false ∧
    SMap.find running.pageShadow 0 = none ∧ (4 : BitVec 18).toNat % 8 = 4 ∧ (4 : BitVec 18).toNat % 8 ≠ 0 ∧
    ({ running with pwr := { state := 3 } } : State).regHeld (Reg.tmCtrl.addr [0]) = true := by
  and_intros <;> decide
theorem test_hyp_host_further :
    ({ running with hif := { running.hif with msixEn := true, pba := 1 } } : State).hif.pba.getLsbD (0 : Fin 34).val = true ∧
    running.hif.waitGo = none ∧ foundOne.err.found ≠ [] ∧ running.err.found = [] ∧ running.rst.errRaised = false ∧
    (({ foundOne with rst := { foundOne.rst with errRaised := true, reach := some .system } } : State).rst.errRaised = true) ∧
    ({ running with time := { core := 1 } } : State).time.core % 2 = 1 ∧ foundOne.asserted = false := by
  and_intros <;> decide
theorem test_hyp_optics_further : (¬∃ o, o < 16 ∧ bit (leAt (descr 0x20 [(8, [1])]).bytes 8 2) o = true ∧
      (running.pwr.state = 3 ∨ bit running.rst.quadInReset.toNat (o / 4) = true)) ∧
    (0 < 16 ∧ bit (leAt (descr 0x20 [(8, [1])]).bytes 8 2) 0 = true ∧
      bit ({ running with rst := { running.rst with quadInReset := 1 } } : State).rst.quadInReset.toNat (0 / 4) = true) ∧
    (∃ j ∈ alteredFibres normalMap 0xEAC788, ({ running with ports := [(8, { armed := true })] } : State).fibreArmed (4 * 0 + j) = true) ∧
    ({ running with meshes := [(0, { recal := some ⟨0, 0, 0⟩ })] } : State).mesh 0 ≠ {} := by
  refine ⟨?_, by decide, by decide, by decide⟩
  rintro ⟨o, _, _, h | h⟩
  · exact absurd h (by decide)
  · have : bit running.rst.quadInReset.toNat (o / 4) = false := by simp [running, bit]
    rw [this] at h; exact absurd h (by decide)
theorem test_hyp_mesh_further :
    (∃ f ∈ [flit0 false].filter (fun f => decide (running.time.core ≤ f.sentAt + 1024)), f.slot = (0 : BitVec 12).toNat) ∧
    (withBundle { whole with quiet := true } running |>.bundle 0 1 0).quiet = true ∧ whole.await = none ∧
    (withBundle { whole with inReset := true } running |>.bundle 0 1 0).inReset = true ∧
    ({ running with pwr := { state := 1 } } : State).quadStill 0 = true ∧ running.quadStill 0 = false ∧
    (running.rst.reach = none ∧ running.pwr.state = 0) ∧ ({ running with pwr := { state := 1 } } : State).pwr.state ≠ 0 := by
  and_intros <;> decide +kernel
theorem test_hyp_datapath_further : tagOk cell0 = true ∧ tagOk { cell0 with tagFlip := 1 } = false ∧
    ({ cell0 with poisoned := true }).poisoned = true ∧ ctx0.poison = none ∧
    ({ running with floors := [(0, { hold := 1 })] } : State).transitHold 0 0 = true ∧
    running.trainTakes 0 (rx0 true 1) = false ∧ running.settleArrivals.lanesIn = running.lanesIn := by
  and_intros <;> decide +kernel
theorem test_hyp_table_further : (tableUp (learns key5 true) running).rehashHeld 0 bucket5 = false ∧
    (tableUp {} running).hitAtVisit 0 learned5 = true ∧ (tableUp {} running).hitBefore 0 key5 = none ∧
    (tableUp {} running).settleKey 0 key5 = tableUp {} running ∧ (tableUp {} running).sheafNamed 9 = (tableUp {} running, false) ∧
    ({ running with pwr := { state := 2 } } : State).quadStill 0 = true ∧ running.msgs = [] := by
  and_intros <;> decide +kernel
theorem test_hyp_mash_further : running.stuck 0 0 = false ∧ (chunk0 [msg0] []).msgs ≠ [] ∧
    ({ kiln0 { array0 [] 0 false with raising := true } [] with regs := [] } : State).rampBudget 0 ≤ 64 ∧
    ((kiln0 { array0 [] 3 false with opbuf := [(0, tile0)], raising := true } []).array 0).raising = true ∧
    (kiln0 (array0 [(0, tile0)] 8 true) []).kstream 0 = some { slot := 0, recv := false, arrays := [0] } := by
  and_intros <;> decide +kernel
theorem test_hyp_reset_further : running.sysHeld = false ∧ State.reset.sysHeld = true ∧ State.reset.sec.nonceDrawn = false ∧
    ({ State.reset with rst := { heldSys := true } } : State).rst.heldSys = true ∧ (State.reset.asserted && State.reset.sysHeld) = true ∧
    (running.asserted && running.sysHeld) = false ∧ ({ running with sec := { bootFail := true }, hif := {} } : State).hif.busMaster = false ∧
    SMap.wf {} running.meshes = true := by
  and_intros <;> decide
/-- REF_OK low a second time sets REF_LOST again and is recorded (R343). -/
theorem test_a_second_loss_is_seen : (match execRefOkLoss 5 { running with clk := { refOk := false } } with
    | .next t => (t.clk.refLost, t.clk.refOffset.toNat, t.err.found.length) | _ => (false, 0, 0)) = (true, 5, 1) := by decide
/-- The CRC-8 of the SMBus packet error code: its check value for the digits 1 to 9 is 0xF4 (PRESUMED, log 11). -/
theorem test_pec : crcBits 8 0x07 0 (("123456789".toList.map fun c => BitVec.ofNat 8 c.toNat).flatMap fun b : Byte => (bitsLow 8 b.toNat).reverse) = 0xF4 := by
  decide +kernel
end

section
/-! SUPPORT. Host accesses to registers, and arming and disarming of ports: what each access and command does, case by case, and the
statements of this family that follow. -/
-- One theorem after another: many at once take more threads than the memory limit has stacks for.
set_option Elab.async false
namespace Sys2Proof.Machine
open Sys2Proof

/-! ### 32-bit host accesses (R7, R9, R10, R338, R345, R349) -/

section
variable {a : BitVec 24} {v : W32} {s : State}

theorem exec_registerWrite_of_misaligned (h : s.hif.linkUp = true) (ha : a.toNat % 4 ≠ 0) :
    exec (.registerWrite a v) s = .next s.badAccess := by
  show done (s.host _) = _
  rw [State.host_linked _ h]
  exact congrArg done (if_pos ha)

theorem exec_registerWrite_of_held (h : s.hif.linkUp = true) (ha : a.toNat % 4 = 0) (hh : s.regHeld a.toNat = true) :
    exec (.registerWrite a v) s = .next s.ignoredWrite := by
  show done (s.host _) = _
  rw [State.host_linked _ h]
  simp [done, ha, hh]

theorem exec_registerWrite_of_unoccupied (h : s.hif.linkUp = true) (ha : a.toNat % 4 = 0) (hh : s.regHeld a.toNat = false)
    (hr : regAt a.toNat = none) : exec (.registerWrite a v) s = .next s := by
  show done (s.host _) = _
  rw [State.host_linked _ h]
  simp [done, ha, hh, hr]

theorem exec_registerWrite_of_regAt (h : s.hif.linkUp = true) (ha : a.toNat % 4 = 0) (hh : s.regHeld a.toNat = false)
    {r : Reg} {ix : List Nat} (hr : regAt a.toNat = some (r, ix)) :
    exec (.registerWrite a v) s = .next (s.writeReg r ix v.toNat) := by
  show done (s.host _) = _
  rw [State.host_linked _ h]
  simp [done, ha, hh, hr]

end

/-- Settles O9: each clause is one branch of the access, past the link. -/
theorem hostAccessesReachTheirRegisters : Obligations.HostAccessesReachTheirRegisters := fun _ _ _ =>
  ⟨fun h => ⟨congrArg done (State.host_unlinked _ h), congrArg done (State.host_unlinked _ h)⟩,
    fun h => ⟨congrArg done (State.host_linked _ h), exec_registerWrite_of_misaligned h, exec_registerWrite_of_held h,
      exec_registerWrite_of_unoccupied h⟩⟩

/-! ### The fields of a register -/

/-- Two fields share no bit. -/
def RegFld.apart (f g : RegFld) : Prop := f.lo + f.width ≤ g.lo ∨ g.lo + g.width ≤ f.lo

theorem Reg.fields_inside (r : Reg) (last : Nat) : ∀ f ∈ r.fields last, f.lo + f.width ≤ 32 := by
  unfold Reg.fields
  split <;> try simp
  split <;> simp

theorem Reg.fields_pairwise_apart (r : Reg) (last : Nat) : (r.fields last).Pairwise RegFld.apart := by
  unfold Reg.fields
  split <;> simp [RegFld.apart]

/-! ### Writing fields -/

/-- A state with the same stored words reads the same fields. -/
theorem State.rf_congr {s t : State} (h : t.regs = s.regs) (r : Reg) (ix : List Nat) (lo w : Nat) :
    t.rf r ix lo w = s.rf r ix lo w := by
  simp only [State.rf, State.reg, h]

/-- What shows in `t` of a write of `v` to the fields `fs` of a register of `s` (R9). -/
structure WriteShows (s t : State) (r : Reg) (ix : List Nat) (v : Nat) (fs : List RegFld) : Prop where
  written : ∀ f ∈ fs, t.rf r ix f.lo f.width = if s.locked f.lock ix then s.rf r ix f.lo f.width else fld v f.lo f.width
  noted : t.err.lockedWrite = true ↔ s.err.lockedWrite = true ∨
    ∃ f ∈ fs, s.locked f.lock ix = true ∧ fld v f.lo f.width ≠ s.rf r ix f.lo f.width
  others : ∀ b, b ≠ r.addr ix → SMap.find t.regs b = SMap.find s.regs b

/-- The same shows between any states with the same stored words, LOCKED_WRITE and locks. -/
theorem WriteShows.congr {s t s' t' : State} {r : Reg} {ix : List Nat} {v : Nat} {fs : List RegFld}
    (h : WriteShows s t r ix v fs) (hs : s'.regs = s.regs) (hse : s'.err = s.err)
    (hl : ∀ f ∈ fs, s'.locked f.lock ix = s.locked f.lock ix) (ht : t'.regs = t.regs) (hte : t'.err = t.err) :
    WriteShows s' t' r ix v fs where
  written f hf := by rw [State.rf_congr ht, State.rf_congr hs, hl f hf, h.written f hf]
  noted := by
    rw [hte, hse, h.noted]
    exact or_congr_right (exists_congr fun f => and_congr_right fun hf => by rw [State.rf_congr hs, hl f hf])
  others b hb := by rw [ht, hs, h.others b hb]

/-- A write of `v` to the fields `fs` of a register has just its effect on these fields. -/
structure FieldsWritten (s t : State) (r : Reg) (ix : List Nat) (v : Nat) (fs : List RegFld) : Prop
    extends WriteShows s t r ix v fs where
  kept : ∀ g : RegFld, (∀ f ∈ fs, f.apart g) → t.rf r ix g.lo g.width = s.rf r ix g.lo g.width
  frame : t = { s with regs := t.regs, err := { s.err with lockedWrite := t.err.lockedWrite } }

theorem FieldsWritten.nil (s : State) (r : Reg) (ix : List Nat) (v : Nat) : FieldsWritten s s r ix v [] where
  written := by simp
  kept := by simp
  noted := by simp
  others := by simp
  frame := rfl

/-- The write of one field. -/
theorem State.writeField_written (s : State) {r : Reg} (ix : List Nat) (v : Nat) {f : RegFld} (ho : ownRow r f.lo = false)
    (hf : f.lo + f.width ≤ 32) : FieldsWritten s (s.writeField r ix v f) r ix v [f] := by
  unfold State.writeField
  simp only [ho, Bool.false_eq_true, if_false]
  by_cases hl : s.locked f.lock ix = true
  · by_cases hx : fld v f.lo f.width = s.rf r ix f.lo f.width
    · simp only [hl, hx, if_true]
      exact ⟨⟨by simp [hl], by simp [hx], by simp⟩, by simp, rfl⟩
    · simp only [hl, hx, if_true, if_false]
      exact ⟨⟨fun g hg => by obtain rfl := List.mem_singleton.1 hg; rw [if_pos hl]; rfl, by simp [hl, hx], fun _ _ => rfl⟩,
        fun _ _ => rfl, rfl⟩
  · simp only [hl]
    refine ⟨⟨?_, ?_, fun b hb => s.find_setReg_ne _ _ _ _ hb⟩, fun g hg => ?_, rfl⟩
    · simp [hl, State.rf_setRf_self _ _ _ _ _ _ hf, fld]
    · simp [hl, State.setRf, State.setReg]
    · exact State.rf_setRf_other _ _ _ _ _ _ _ _ hf (hg f (by simp)).symm

theorem FieldsWritten.locked_eq {s t : State} {r : Reg} {ix : List Nat} {v : Nat} {fs : List RegFld}
    (h : FieldsWritten s t r ix v fs) (l : Lock) (jx : List Nat) : t.locked l jx = s.locked l jx := by
  rw [h.frame]; cases l <;> rfl

/-- A write of one field and then of fields apart from it is a write of them all. -/
theorem FieldsWritten.cons {s t u : State} {r : Reg} {ix : List Nat} {v : Nat} {f : RegFld} {fs : List RegFld}
    (h : FieldsWritten s t r ix v [f]) (k : FieldsWritten t u r ix v fs) (hf : ∀ g ∈ fs, f.apart g) :
    FieldsWritten s u r ix v (f :: fs) := by
  have hkept (g : RegFld) (hg : g ∈ fs) : t.rf r ix g.lo g.width = s.rf r ix g.lo g.width :=
    h.kept g (by simpa using hf g hg)
  refine ⟨⟨?_, ?_, fun b hb => (k.others b hb).trans (h.others b hb)⟩, fun g hg => ?_, ?_⟩
  · intro g hg
    rcases List.mem_cons.1 hg with rfl | hg
    · rw [k.kept g fun x hx => (hf x hx).symm]
      exact h.written g (by simp)
    · rw [k.written g hg, h.locked_eq, hkept g hg]
  · have hlater : (∃ g ∈ fs, t.locked g.lock ix = true ∧ fld v g.lo g.width ≠ t.rf r ix g.lo g.width) ↔
        ∃ g ∈ fs, s.locked g.lock ix = true ∧ fld v g.lo g.width ≠ s.rf r ix g.lo g.width :=
      exists_congr fun g => and_congr_right fun hg => by rw [h.locked_eq, hkept g hg]
    rw [k.noted, h.noted, hlater]
    simp [or_assoc]
  · rw [k.kept g fun x hx => hg x (by simp [hx]), h.kept g (by simpa using hg f)]
  · rw [k.frame, h.frame]

/-- Writes of fields that are apart, one after another, are one write of them all. -/
theorem State.foldl_writeField_written {r : Reg} (ix : List Nat) (v : Nat) {fs : List RegFld}
    (ho : ∀ f ∈ fs, ownRow r f.lo = false) (hi : ∀ f ∈ fs, f.lo + f.width ≤ 32) (ha : fs.Pairwise RegFld.apart)
    (s : State) :
    FieldsWritten s (fs.foldl (fun (s : State) f => s.writeField r ix v f) s) r ix v fs := by
  induction fs generalizing s with
  | nil => exact .nil s r ix v
  | cons f fs ih =>
    simp only [List.forall_mem_cons, List.pairwise_cons] at ho hi ha
    exact .cons (s.writeField_written ix v ho.1 hi.1) (ih ho.2 hi.2 ha.2 _) ha.1

/-- The registers of which a write sets every writable field that is not locked, and none through a command of its own. -/
def Reg.fieldsOnly (r : Reg) : Prop := r.plain = true ∨ r = .tmCtrl ∨ r = .tblLearn ∨ r = .hifRingMod

theorem Reg.fieldsOnly.ownRow_eq {r : Reg} (h : r.fieldsOnly) (lo : Nat) : ownRow r lo = false := by
  unfold ownRow
  split <;> simp_all [Reg.fieldsOnly, Reg.plain, Reg.is64]

theorem State.writeFields_written {r : Reg} (h : r.fieldsOnly) (s : State) (ix : List Nat) (v : Nat) :
    FieldsWritten s (s.writeFields r ix v) r ix v (r.fields (ix.getLastD 0)) :=
  s.foldl_writeField_written ix v (fun f _ => h.ownRow_eq f.lo) (r.fields_inside _) (r.fields_pairwise_apart _)

theorem State.writeReg_plain {r : Reg} (h : r.plain = true) (s : State) (ix : List Nat) (v : Nat) :
    s.writeReg r ix v = s.writeFields r (canonIx r ix) v := by
  revert h
  cases r <;> simp [Reg.plain, Reg.is64, State.writeReg, State.writeOnes, State.afterWrite]

theorem State.writeReg_tmCtrl (s : State) (ix : List Nat) (v : Nat) :
    s.writeReg .tmCtrl ix v = (s.writeFields .tmCtrl ix v).afterWrite .tmCtrl ix v := rfl

theorem State.writeReg_tblLearn (s : State) (ix : List Nat) (v : Nat) :
    s.writeReg .tblLearn ix v = (s.settleLearn (nthD ix 0 0)).writeFields .tblLearn ix v := rfl

theorem State.writeReg_hifRingMod (s : State) (ix : List Nat) (v : Nat) :
    s.writeReg .hifRingMod ix v = (s.writeFields .hifRingMod ix v).afterWrite .hifRingMod ix v := rfl

theorem State.judgeIrq_err (s : State) (r : Nat) (now : Bool) : (s.judgeIrq r now).err = s.err := by
  unfold State.judgeIrq State.fireRing State.sendVector
  repeat' split
  all_goals rfl

theorem State.afterWrite_hifRingMod_inner (s : State) (ix : List Nat) (v : Nat) :
    (s.afterWrite .hifRingMod ix v).inner = s.inner := by
  simp only [State.afterWrite]; split <;> simp

theorem State.afterWrite_hifRingMod_err (s : State) (ix : List Nat) (v : Nat) :
    (s.afterWrite .hifRingMod ix v).err = s.err := by
  simp only [State.afterWrite]; split <;> simp [State.judgeIrq_err]

/-- TM_CTRL notes its two enables last for the next refill boundary (R147). -/
theorem State.afterWrite_tmCtrl_noted (s : State) (ix : List Nat) (v : Nat) :
    (SMap.get (s.afterWrite .tmCtrl ix v).tmPend (nthD ix 0 0) []).getLast? = some (bit v 0, bit v 1, s.time.free.toNat) := by
  simp [State.afterWrite]

theorem State.regs_of_inner {s t : State} (h : t.inner = s.inner) : t.regs = s.regs := by
  have k := congrArg State.regs h
  exact k

theorem FieldsWritten.inner_eq {s t : State} {r : Reg} {ix : List Nat} {v : Nat} {fs : List RegFld}
    (h : FieldsWritten s t r ix v fs) : t.inner = { s.inner with regs := t.regs } := congrArg State.inner h.frame

/-- Settles O10: the fields of a register are apart, so the writes of its fields one after another are one write of them all; what
the three registers of the second kind do beside it leaves the stored words and LOCKED_WRITE alone. -/
theorem writesSetUnlockedFields : Obligations.WritesSetUnlockedFields := by
  intro a v s r ix hl ha hh hr hk
  have hw (s : State) := s.writeFields_written hk (canonIx r ix) v.toNat
  rw [exec_registerWrite_of_regAt hl ha hh hr]
  refine ⟨_, rfl, ?_⟩
  rcases hk with hp | rfl | rfl | rfl
  · rw [State.writeReg_plain hp]
    refine ⟨(hw s).written, (hw s).noted, (hw s).others, fun _ => (hw s).frame, ?_, ?_, ?_⟩ <;>
      (rintro rfl; simp [Reg.plain] at hp)
  · rw [State.writeReg_tmCtrl]
    have h : FieldsWritten s (s.writeFields .tmCtrl ix v.toNat) .tmCtrl ix v.toNat _ := hw s
    refine ⟨h.written, h.noted, h.others, nofun, fun _ => ⟨?_, ?_⟩, nofun, nofun⟩
    · exact congrArg (State.afterWrite · .tmCtrl ix v.toNat) h.frame
    · rw [State.afterWrite_tmCtrl_noted, h.frame]
  · rw [State.writeReg_tblLearn]
    have h := hw (s.settleLearn (nthD ix 0 0))
    have hs := h.toWriteShows.congr (s' := s) rfl rfl (by simp [Reg.fields, State.locked]) rfl rfl
    exact ⟨hs.written, hs.noted, hs.others, nofun, nofun, fun _ => h.frame, nofun⟩
  · rw [State.writeReg_hifRingMod]
    have hi := (s.writeFields .hifRingMod ix v.toNat).afterWrite_hifRingMod_inner ix v.toNat
    have h : FieldsWritten s (s.writeFields .hifRingMod ix v.toNat) .hifRingMod ix v.toNat _ := hw s
    have hs := h.toWriteShows.congr rfl rfl (fun _ _ => rfl) (State.regs_of_inner hi) (State.afterWrite_hifRingMod_err _ _ _)
    refine ⟨hs.written, hs.noted, hs.others, nofun, nofun, nofun, fun _ => ?_⟩
    rw [State.regs_of_inner hi, hi]
    exact h.inner_eq

/-! ### Reading 64-bit registers (R8, R312) -/

section
variable {a : BitVec 24} {r : Reg} {ix : List Nat} {s : State}

/-- The state after a low-half read, but for its reply: the high half in the shadow, the matching TIME_FRAC latched. -/
def State.shadowed (s : State) (a : Nat) (r : Reg) (ix : List Nat) : State :=
  { s with shadow := SMap.put s.shadow a (s.readReg (a + 4))
           fracLatch := match s.matchingFrac r ix with
             | some x => SMap.put s.fracLatch x.1 x.2 | none => s.fracLatch }

theorem exec_reg64LowRead_of_reg64At (h : s.hif.linkUp = true) (hr : reg64At a.toNat 0 = some (r, ix))
    (hh : s.regHeld a.toNat = false) :
    exec (.reg64LowRead a) s = .next ((s.shadowed a.toNat r ix).reply (.data ((s.readReg a.toNat).setWidth 64))) := by
  show done (s.host _) = _
  rw [State.host_linked _ h]
  simp only [hr, hh]
  rfl

theorem exec_reg64HighRead_of_shadow (h : s.hif.linkUp = true) (hr : reg64At a.toNat 1 = some (r, ix))
    (hh : s.regHeld a.toNat = false) {x : W32} (hx : SMap.find s.shadow (a.toNat - 4) = some x) :
    exec (.reg64HighRead a) s =
      .next ({ s with shadow := SMap.erase s.shadow (a.toNat - 4) }.reply (.data (x.setWidth 64))) := by
  show done (s.host _) = _
  rw [State.host_linked _ h]
  simp only [hr, hh, hx]
  rfl

theorem exec_reg64HighRead_of_no_shadow (h : s.hif.linkUp = true) (hr : reg64At a.toNat 1 = some (r, ix))
    (hh : s.regHeld a.toNat = false) (hx : SMap.find s.shadow (a.toNat - 4) = none) :
    exec (.reg64HighRead a) s = .next (s.reply (.data ((s.readReg a.toNat).setWidth 64))) := by
  show done (s.host _) = _
  rw [State.host_linked _ h]
  simp only [hr, hh, hx]
  rfl

end

/-- Settles O11: the low-half read puts the high half as it stands into the shadow, where the high-half read finds it. -/
theorem sixtyFourBitReadsAreConsistent : Obligations.SixtyFourBitReadsAreConsistent := by
  intro lo hi r ix s hl hadj hlo hhi hlh hhh
  have hsub : hi.toNat - 4 = lo.toNat := by omega
  constructor
  · have hx : SMap.find (s.shadowed lo.toNat r ix).shadow (hi.toNat - 4) = some (s.readReg hi.toNat) := by
      rw [hsub, hadj]
      exact SMap.find_put_self _ _ _
    refine ⟨_, _, exec_reg64LowRead_of_reg64At hl hlo hlh, rfl, rfl,
      exec_reg64HighRead_of_shadow (s := (s.shadowed lo.toNat r ix).reply _) hl hhi hhh hx, rfl, ?_, rfl⟩
    rw [hsub]
    exact SMap.find_erase_self _ _
  · exact fun hx => exec_reg64HighRead_of_no_shadow hl hhi hhh (by rw [hsub]; exact hx)

/-! ### Writing 64-bit registers (R8, R296, R318, R321, R349, R416) -/

section
variable {a : BitVec 24} {v : W32} {r : Reg} {ix : List Nat} {s : State}

theorem exec_reg64LowWrite_of_none (h : s.hif.linkUp = true) (hr : reg64At a.toNat 0 = none) :
    exec (.reg64LowWrite a v) s = .next s := by
  show done (s.host _) = _
  rw [State.host_linked _ h]
  simp only [hr]
  rfl

theorem exec_reg64HighWrite_of_none (h : s.hif.linkUp = true) (hr : reg64At a.toNat 1 = none) :
    exec (.reg64HighWrite a v) s = .next s := by
  show done (s.host _) = _
  rw [State.host_linked _ h]
  simp only [hr]
  rfl

/-- The low half at an address that a high-half write commits: the staged one, or with none the one that the register reads. -/
def State.lowHalf (s : State) (lo : Nat) : W32 :=
  match SMap.find s.stage64 lo with | some x => x | none => s.readReg lo

/-- The state with `v` staged as the low half at an address. -/
def State.staged (s : State) (lo : Nat) (v : W32) : State := { s with stage64 := SMap.put s.stage64 lo v }
/-- The state with no low half staged at an address. -/
def State.unstaged (s : State) (lo : Nat) : State := { s with stage64 := SMap.erase s.stage64 lo }

/-- What a low-half write to an occupied address does. -/
theorem exec_reg64LowWrite_of_reg64At (h : s.hif.linkUp = true) (hr : reg64At a.toNat 0 = some (r, ix)) :
    exec (.reg64LowWrite a v) s = .next (
      if s.regHeld a.toNat then s.ignoredWrite
      else if !writable64 r then s
      else if s.ignores64 r ix then s.ignoredWrite
      else s.staged a.toNat v) := by
  show done (s.host _) = _
  rw [State.host_linked _ h]
  simp only [hr]
  rfl

/-- Both halves of a 64-bit register are put: TIME_INCR as a write of INCR, the others in their stored words. -/
def State.put64 (s : State) (r : Reg) (ix : List Nat) (low high : W32) : State :=
  match r with
  | .timeIncr => s.writeIncr (low.toNat + high.toNat * 2 ^ 32)
  | _ => (s.setReg r (ix ++ [0]) low.toNat).setReg r (ix ++ [1]) high.toNat

/-- What a high-half write to an occupied address does. -/
theorem exec_reg64HighWrite_of_reg64At (h : s.hif.linkUp = true) (hr : reg64At a.toNat 1 = some (r, ix)) :
    exec (.reg64HighWrite a v) s = .next (
      if s.regHeld a.toNat then s.ignoredWrite
      else if !writable64 r then s
      else if s.ignores64 r ix then (s.unstaged (a.toNat - 4)).ignoredWrite
      else (s.unstaged (a.toNat - 4)).put64 r ix (s.lowHalf (a.toNat - 4)) v) := by
  show done (s.host _) = _
  rw [State.host_linked _ h]
  simp only [hr]
  rfl

end

theorem State.reg_setReg_ne (s : State) {r r' : Reg} {ix ix' : List Nat} (v : Nat) (h : r'.addr ix' ≠ r.addr ix) :
    (s.setReg r ix v).reg r' ix' = s.reg r' ix' := by
  simp only [State.reg, s.find_setReg_ne r ix v _ h]

/-- The halves of a 64-bit register stored one after the other are its 64 bits. -/
theorem State.reg64_setReg_setReg (s : State) {r : Reg} {ix : List Nat} (low high : W32)
    (h : r.addr (ix ++ [0]) ≠ r.addr (ix ++ [1])) :
    ((s.setReg r (ix ++ [0]) low.toNat).setReg r (ix ++ [1]) high.toNat).reg64 r ix = low.toNat + high.toNat * 2 ^ 32 := by
  simp only [State.reg64, State.reg_setReg_ne _ _ h, State.reg_setReg, Nat.mod_eq_of_lt low.isLt, Nat.mod_eq_of_lt high.isLt]

/-- A high-half write of `w` at `hi` in `t` commits both halves of a register, the low one `low` staged at `lo` or read. -/
def State.Commits64 (t : State) (lo hi : BitVec 24) (w : W32) (r : Reg) (ix : List Nat) (low : Nat) : Prop :=
  ∃ u, exec (.reg64HighWrite hi w) t = .next u ∧ u.reg64 r ix = low + w.toNat * 2 ^ 32 ∧
    SMap.find u.stage64 lo.toNat = none ∧ (∀ b, b ≠ lo.toNat → SMap.find u.stage64 b = SMap.find t.stage64 b) ∧
    (∀ b, b ≠ r.addr (ix ++ [0]) → b ≠ r.addr (ix ++ [1]) → SMap.find u.regs b = SMap.find t.regs b) ∧
    u = { t with regs := u.regs, stage64 := u.stage64 }

theorem State.regHeld_of_lt (s : State) {a : Nat} (h : a < 0x100000) : s.regHeld a = false := by
  simp [State.regHeld, show ¬ 0x100000 ≤ a by omega, show ¬ 0x500000 ≤ a by omega]

/-- The two halves of a register with RW halves, in a block that is never held. -/
structure Halves (lo hi : BitVec 24) (r : Reg) (ix : List Nat) : Prop where
  next : hi.toNat = lo.toNat + 4
  low : reg64At lo.toNat 0 = some (r, ix)
  high : reg64At hi.toNat 1 = some (r, ix)
  unheld : hi.toNat < 0x100000
  writable : writable64 r = true

namespace Halves

variable {lo hi : BitVec 24} {v w : W32} {r : Reg} {ix : List Nat} {s : State}

theorem low_write (H : Halves lo hi r ix) (h : s.hif.linkUp = true) :
    exec (.reg64LowWrite lo v) s = .next (if s.ignores64 r ix then s.ignoredWrite else s.staged lo.toNat v) := by
  have hh : s.regHeld lo.toNat = false := s.regHeld_of_lt (by have := H.next; have := H.unheld; omega)
  simp [exec_reg64LowWrite_of_reg64At h H.low, hh, H.writable]

theorem high_write (H : Halves lo hi r ix) (h : s.hif.linkUp = true) :
    exec (.reg64HighWrite hi w) s = .next (
      if s.ignores64 r ix then (s.unstaged lo.toNat).ignoredWrite
      else (s.unstaged lo.toNat).put64 r ix (s.lowHalf lo.toNat) w) := by
  have hsub : hi.toNat - 4 = lo.toNat := by have := H.next; omega
  simp [exec_reg64HighWrite_of_reg64At h H.high, s.regHeld_of_lt H.unheld, H.writable, hsub]

/-- A high-half write commits both halves, the low one as it is staged or read. -/
theorem commits64 (H : Halves lo hi r ix) (h : s.hif.linkUp = true) (hi' : s.ignores64 r ix = false) (ht : r ≠ .timeIncr)
    (ha : r.addr (ix ++ [0]) ≠ r.addr (ix ++ [1])) : s.Commits64 lo hi w r ix (s.lowHalf lo.toNat).toNat := by
  have hput (s : State) (low : W32) :
      s.put64 r ix low w = (s.setReg r (ix ++ [0]) low.toNat).setReg r (ix ++ [1]) w.toNat := by
    unfold State.put64; split <;> simp_all
  have hw : exec (.reg64HighWrite hi w) s = .next
      (((s.unstaged lo.toNat).setReg r (ix ++ [0]) (s.lowHalf lo.toNat).toNat).setReg r (ix ++ [1]) w.toNat) := by
    rw [H.high_write h, hi', if_neg nofun, hput]
  refine ⟨_, hw, State.reg64_setReg_setReg _ _ _ ha, SMap.find_erase_self _ _,
    fun b hb => SMap.find_erase_ne _ hb, fun b h0 h1 => ?_, rfl⟩
  rw [State.find_setReg_ne _ _ _ _ _ h1, State.find_setReg_ne _ _ _ _ _ h0]
  rfl

/-- While the register takes writes, a low half is staged, and the high-half write commits it, or else what is read. -/
theorem commits (H : Halves lo hi r ix) (h : s.hif.linkUp = true) (hi' : s.ignores64 r ix = false) (ht : r ≠ .timeIncr)
    (ha : r.addr (ix ++ [0]) ≠ r.addr (ix ++ [1])) :
    exec (.reg64LowWrite lo v) s = .next (s.staged lo.toNat v) ∧ (s.staged lo.toNat v).Commits64 lo hi w r ix v.toNat ∧
      (SMap.find s.stage64 lo.toNat = none → s.Commits64 lo hi w r ix (s.readReg lo.toNat).toNat) := by
  refine ⟨by simp [H.low_write h, hi'], ?_, fun hn => ?_⟩
  · have k := H.commits64 (s := s.staged lo.toNat v) (w := w) h hi' ht ha
    rwa [show (s.staged lo.toNat v).lowHalf lo.toNat = v by simp [State.lowHalf, State.staged]] at k
  · have k := H.commits64 (w := w) h hi' ht ha
    rwa [show s.lowHalf lo.toNat = s.readReg lo.toNat by simp [State.lowHalf, hn]] at k

/-- While the register ignores writes, both are ignored and counted, and a staged half is dropped. -/
theorem ignored (H : Halves lo hi r ix) (h : s.hif.linkUp = true) (hi' : s.ignores64 r ix = true) :
    exec (.reg64LowWrite lo v) s = .next s.ignoredWrite ∧
      exec (.reg64HighWrite hi w) s = .next (s.unstaged lo.toNat).ignoredWrite :=
  ⟨by simp [H.low_write h, hi'], by simp [H.high_write h, hi']⟩

end Halves

theorem timeStep_halves : Halves 0x060020 0x060024 .timeStep [] := ⟨rfl, by decide, by decide, by decide, rfl⟩
theorem timeIncr_halves : Halves 0x060018 0x06001C .timeIncr [] := ⟨rfl, by decide, by decide, by decide, rfl⟩
theorem secRecovAddr_halves : Halves 0x050010 0x050014 .secRecovAddr [] := ⟨rfl, by decide, by decide, by decide, rfl⟩

/-- BASE or WB of a ring. -/
def ringHalf (wb : Bool) : Reg := if wb then .hifRingWb else .hifRingBase

theorem reg64At_ringHalf : ∀ (r : Fin 34) (wb : Bool),
    reg64At (0x041000 + 0x40 * r.val + if wb then 8 else 0) 0 = some (ringHalf wb, [r.val]) ∧
      reg64At (0x041000 + 0x40 * r.val + (if wb then 8 else 0) + 4) 1 = some (ringHalf wb, [r.val]) := by
  decide

theorem ring_halves {lo hi : BitVec 24} (r : Fin 34) (wb : Bool)
    (hlo : lo.toNat = 0x041000 + 0x40 * r.val + (if wb then 8 else 0)) (hhi : hi.toNat = lo.toNat + 4) : Halves lo hi (ringHalf wb) [r.val] where
  next := hhi
  low := by rw [hlo]; exact (reg64At_ringHalf r wb).1
  high := by rw [hhi, hlo]; exact (reg64At_ringHalf r wb).2
  unheld := by have := r.isLt; split at hlo <;> omega
  writable := by cases wb <;> rfl

theorem ringHalf_addr_ne (wb : Bool) (r : Nat) : (ringHalf wb).addr ([r] ++ [0]) ≠ (ringHalf wb).addr ([r] ++ [1]) := by
  cases wb <;> simp [ringHalf, Reg.addr, Reg.dims]

theorem State.ignores64_ringHalf (s : State) (wb : Bool) (r : Nat) : s.ignores64 (ringHalf wb) [r] = (s.ring r).enabled := by
  cases wb <;> rfl

/-- Settles O12: the clauses on named registers are `Halves.commits` and `Halves.ignored` at their addresses, the others one branch
of a write each. -/
theorem sixtyFourBitWritesCommitTogether : Obligations.SixtyFourBitWritesCommitTogether := by
  intro lo hi v w s hl staged unstaged ignored becomes commits ignores
  refine ⟨?_, ?_, ?_, ?_, exec_reg64LowWrite_of_none hl, exec_reg64HighWrite_of_none hl, fun r ix => ⟨?_, ?_, ?_, ?_⟩⟩
  · rintro rfl rfl
    exact timeStep_halves.commits hl rfl nofun (by decide)
  · rintro rfl rfl
    refine ⟨timeIncr_halves.low_write hl, ?_⟩
    have hv : staged.lowHalf (0x060018 : BitVec 24).toNat = v := by simp [staged, State.lowHalf]
    have k := timeIncr_halves.high_write (w := w) (s := staged) hl
    rw [hv] at k
    exact k
  · rintro rfl rfl
    exact ⟨fun hb => secRecovAddr_halves.commits hl (by simp [State.ignores64, hb]) nofun (by decide),
      fun hb => secRecovAddr_halves.ignored hl (by simp [State.ignores64, hb])⟩
  · intro r wb hlo hhi
    have H := ring_halves r wb hlo hhi
    exact ⟨fun he => H.commits hl (by rw [State.ignores64_ringHalf, he]) (by cases wb <;> nofun) (ringHalf_addr_ne wb r),
      fun he => H.ignored hl (by rw [State.ignores64_ringHalf, he])⟩
  · intro hr hh
    exact (exec_reg64LowWrite_of_reg64At hl hr).trans (by rw [if_pos hh]; rfl)
  · intro hr hh
    exact (exec_reg64HighWrite_of_reg64At hl hr).trans (by rw [if_pos hh]; rfl)
  · intro hr hh hw
    simp [exec_reg64LowWrite_of_reg64At hl hr, hh, hw]
  · intro hr hh hw
    simp [exec_reg64HighWrite_of_reg64At hl hr, hh, hw]

/-! ### What flushes and departures leave alone: the links of the ports and the launches -/

/-- What arming, link and health say of a port. -/
structure PortLink where
  armed : Bool
  up : Bool
  hd : Nat
  hstate : HState

/-- The link of a port. -/
def PortSt.link (x : PortSt) : PortLink := ⟨x.armed, x.up, x.hd, x.hstate⟩

/-- The link of every port, and the launches pending. -/
def State.links (s : State) : (Nat → PortLink) × List Launch := (fun p => (s.port p).link, s.launches)

theorem State.links_of_inner {s t : State} (h : t.inner = s.inner) : t.links = s.links := by
  have k := congrArg State.links h
  exact k

theorem State.link_eq_of_links {s t : State} (h : t.links = s.links) (p : Nat) : (t.port p).link = (s.port p).link :=
  congrFun (congrArg Prod.fst h) p

theorem State.launches_eq_of_links {s t : State} (h : t.links = s.links) : t.launches = s.launches := by
  have k := congrArg Prod.snd h
  exact k

/-- The links with that of port `p` replaced, and the same launches. -/
def withLink (l : (Nat → PortLink) × List Launch) (p : Nat) (g : PortLink → PortLink) : (Nat → PortLink) × List Launch :=
  (fun k => if k = p then g (l.1 p) else l.1 k, l.2)

theorem withLink_id (l : (Nat → PortLink) × List Launch) (p : Nat) : withLink l p id = l := by
  refine Prod.ext (funext fun k => ?_) rfl
  show (if k = p then l.1 p else l.1 k) = l.1 k
  split
  · next h => rw [h]
  · rfl

/-- A port's update acts on the links alone where its link comes from the old link. -/
theorem State.updPort_links_eq (s : State) (p : Nat) {f : PortSt → PortSt} {g : PortLink → PortLink}
    (h : ∀ x, (f x).link = g x.link) : (s.updPort p f).links = withLink s.links p g := by
  refine Prod.ext (funext fun k => ?_) rfl
  show ((s.updPort p f).port k).link = if k = p then g (s.port p).link else (s.port k).link
  rw [State.port_updPort, apply_ite PortSt.link, h]

/-- A port's update that says nothing of its link. -/
theorem State.updPort_links (s : State) (p : Nat) {f : PortSt → PortSt} (h : ∀ x, (f x).link = x.link) :
    (s.updPort p f).links = s.links := by
  rw [s.updPort_links_eq p (g := id) h, withLink_id]

theorem links_ite (c : Prop) [Decidable c] {a b s : State} (ha : a.links = s.links) (hb : b.links = s.links) :
    (if c then a else b).links = s.links := by
  split <;> assumption

theorem foldl_links {β : Type} {g : State → β → State} (h : ∀ (s : State) x, (g s x).links = s.links) (l : List β)
    (s : State) :
    (l.foldl g s).links = s.links := by
  induction l generalizing s with
  | nil => rfl
  | cons x r ih => rw [List.foldl_cons, ih, h]

@[simp] theorem State.count_links (s : State) (g i n : Nat) : (s.count g i n).links = s.links := rfl
@[simp] theorem State.countPort_links (s : State) (p i : Nat) : (s.countPort p i).links = s.links := rfl
@[simp] theorem State.countQuad_links (s : State) (q i : Nat) : (s.countQuad q i).links = s.links := rfl
@[simp] theorem State.updQueue_links (s : State) (p n : Nat) (f : QueueSt → QueueSt) : (s.updQueue p n f).links = s.links := rfl
@[simp] theorem State.updFloor_links (s : State) (q : Nat) (f : FloorSt → FloorSt) : (s.updFloor q f).links = s.links := rfl
@[simp] theorem State.updLaser_links (s : State) (o n : Nat) (f : Laser → Laser) : (s.updLaser o n f).links = s.links := rfl
@[simp] theorem State.held_links (s : State) (l : List Held) : State.links { s with held := l } = s.links := rfl
@[simp] theorem State.flying_links (s : State) (l : SMap Flying) : State.links { s with flying := l } = s.links := rfl
@[simp] theorem State.waiting_links (s : State) (l : SMap (List Waiting)) : State.links { s with waiting := l } = s.links := rfl
@[simp] theorem State.setDomRec_links (s : State) (r : DomRec) : (s.setDomRec r).links = s.links := rfl
@[simp] theorem State.takeCopies_links (s : State) (q fid : Nat) (p : Copy → Bool) : (s.takeCopies q fid p).links = s.links := rfl
@[simp] theorem State.portEvent_links (s : State) (p a st : Nat) (m : BitVec 8) : (s.portEvent p a st m).links = s.links :=
  State.links_of_inner (s.portEvent_inner p a st m)

@[simp] theorem State.drrSettle_links (s : State) (p n : Nat) : (s.drrSettle p n).links = s.links :=
  s.updPort_links p fun _ => rfl

@[simp] theorem State.freeGroup_links (s : State) (q fid cells : Nat) : (s.freeGroup q fid cells).links = s.links :=
  links_ite _ rfl rfl

@[simp] theorem State.leaveQueue_links (s : State) (p n : Nat) (e : QEntry) : (s.leaveQueue p n e).links = s.links :=
  links_ite _ (by simp) (by simp)

@[simp] theorem State.stageTap_links (s : State) (q : Nat) (r : TapRec) : (s.stageTap q r).links = s.links := links_ite _ rfl rfl

@[simp] theorem State.watch_links (s : State) (pt : Point) (p : Nat) (f : Frame) (ovdu own : Bool) (queue dropIdx : Nat) :
    (s.watch pt p f ovdu own queue dropIdx).links = s.links := by
  unfold State.watch
  extract_lets q hit counted ms rules record
  have hc : counted.links = s.links := by
    unfold counted; exact foldl_links (by simp) _ _
  have hr (cask : Bool) (s : State) : (record cask s).links = s.links := links_ite _ (by simp) rfl
  exact links_ite _ hc (by rw [hr, hr, hc])

@[simp] theorem State.queueCount_links (s : State) (p n j : Nat) (f : Frame) (src : IngressSrc) :
    (s.queueCount p n j f src).links = s.links := by simp [State.queueCount]

/-! ### Departures (R95 to R100) -/

@[simp] theorem State.placeQueue_links (s : State) (p n : Nat) : (s.placeQueue p n).links = s.links :=
  links_ite _ rfl (links_ite _ rfl rfl)

@[simp] theorem State.enqueue_links (s : State) (p n : Nat) (e : QEntry) : (s.enqueue p n e).links = s.links := by
  simp [State.enqueue]

@[simp] theorem State.charge_links (s : State) (p n cells : Nat) (region : Bool) : (s.charge p n cells region).links = s.links :=
  links_ite _ rfl rfl

@[simp] theorem State.freeIngress_links (s : State) (c : FrameCtx) : (s.freeIngress c).links = s.links := by
  unfold State.freeIngress
  split
  · rfl
  · exact links_ite _ rfl (s.updPort_links _ fun _ => rfl)

@[simp] theorem State.pitchAnswer_links (s : State) (y : Nat) (c : FrameCtx) : (s.pitchAnswer y c).links = s.links := by
  unfold State.pitchAnswer
  dsimp only
  split
  · exact links_ite _ (by simp) (s.freeIngress_links c)
  · split <;> simp

@[simp] theorem State.handOver_links (s : State) (c : FrameCtx) (t : Target) : (s.handOver c t).links = s.links := by
  unfold State.handOver
  split
  · exact links_ite _ rfl rfl
  · exact links_ite _ (by simp) rfl
  · rfl

@[simp] theorem State.releaseHeld_links (s : State) (h : Held) : (s.releaseHeld h).links = s.links := by
  unfold State.releaseHeld
  dsimp only
  split <;> simp

@[simp] theorem State.releaseFences_links (s : State) (q : Nat) (d : Domain) : (s.releaseFences q d).links = s.links := by
  unfold State.releaseFences
  split
  · rfl
  · exact foldl_links (by simp) _ _

@[simp] theorem State.needRec_links (s : State) (q : Nat) (d : Domain) (x : W32) : (s.needRec q d x).1.links = s.links := by
  unfold State.needRec
  dsimp only
  repeat' split
  all_goals rfl

@[simp] theorem State.depart_links (s : State) (q : Nat) (f : Frame) : (s.depart q f).links = s.links := by
  unfold State.depart
  dsimp only
  refine links_ite _ rfl (links_ite _ (by simp) ?_)
  split
  · simp
  · split <;> simp

@[simp] theorem State.departCopy_links (s : State) (q fid : Nat) (f : Frame) : (s.departCopy q fid f).links = s.links :=
  links_ite _ rfl (by simp)

@[simp] theorem State.departEntry_links (s : State) (q : Nat) (e : QEntry) : (s.departEntry q e).links = s.links :=
  links_ite _ (by simp) (by simp)

/-! ### Flushes (R123, R124) -/

@[simp] theorem State.queueDrop_links (s : State) (p n j : Nat) (f : Frame) (src : IngressSrc) :
    (s.queueDrop p n j f src).links = s.links := by simp [State.queueDrop]

@[simp] theorem State.dropEntry_links (s : State) (p n j : Nat) (e : QEntry) : (s.dropEntry p n j e).links = s.links := by
  simp [State.dropEntry]

@[simp] theorem State.dropWaiting_links (s : State) (c : FrameCtx) (p n j : Nat) : (s.dropWaiting c p n j).links = s.links := by
  simp [State.dropWaiting]

@[simp] theorem State.flushCopies_links (s : State) (p : Nat) : (s.flushCopies p).links = s.links :=
  foldl_links (fun _ _ => links_ite _ rfl (by simp [foldl_links])) _ _

@[simp] theorem State.flushPort_links (s : State) (p : Nat) : (s.flushPort p).links = s.links := by
  unfold State.flushPort
  extract_lets q hs unheld unqueued mine away landed marked ws unwaited dropped
  have h1 : unheld.links = s.links := State.held_links s _
  have h2 : unqueued.links = unheld.links := by
    unfold unqueued; exact foldl_links (fun _ _ => foldl_links (by simp) _ _) _ _
  have h3 : landed.links = unqueued.links := by
    unfold landed; exact foldl_links (by simp [away]) _ _
  have h4 : marked.links = landed.links := State.flying_links landed _
  have h5 : unwaited.links = marked.links := State.waiting_links marked _
  have h6 : dropped.links = unwaited.links := by
    unfold dropped; exact foldl_links (by simp) _ _
  refine (foldl_links (fun _ _ => ?_) hs dropped).trans (by rw [h6, h5, h4, h3, h2, h1])
  exact links_ite _ (by simp) (by simp)

@[simp] theorem State.dousedAt_links (s : State) (o : Nat) : (s.dousedAt o).links = s.links := by
  unfold State.dousedAt
  exact foldl_links (fun s n => links_ite _ (s.updLaser_links o n _) rfl) _ _

@[simp] theorem State.postMsg_links (s : State) (x y : Nat) (m : XMsg) : (s.postMsg x y m).links = s.links := links_ite _ rfl rfl

@[simp] theorem State.tellAll_links (s : State) (x : Nat) : (s.tellAll x).links = s.links :=
  foldl_links (fun _ _ => links_ite _ rfl (by simp)) _ _

/-! ### Ports going down, and launches missed (R124, R311) -/

/-- The link of a port that has gone down. -/
def PortLink.gone (x : PortLink) : PortLink := { x with up := false }
theorem linkGone_link (x : PortSt) : (linkGone x).link = x.link.gone := rfl

/-- A port that goes down loses its link and nothing beside it, and no launch goes with it. -/
theorem State.goDown_links (s : State) (p : Nat) (flush : Bool) : (s.goDown p flush).links = (s.updPort p linkGone).links := by
  unfold State.goDown
  extract_lets w copied gone quiet
  have hq : quiet.links = (s.updPort p linkGone).links := calc
    quiet.links
    _ = (gone.updPort p fun x => { x with width := 0 }).links := (State.tellAll_links ..).trans (State.dousedAt_links ..)
    _ = gone.links := gone.updPort_links p fun _ => rfl
    _ = (copied.updPort p linkGone).links := State.portEvent_links ..
    _ = (s.updPort p linkGone).links := by
      rw [State.updPort_links_eq _ p linkGone_link, State.updPort_links_eq _ p linkGone_link,
        show copied.links = s.links from links_ite _ (s.flushCopies_links p) rfl]
  exact links_ite _ ((quiet.flushPort_links p).trans hq) hq

theorem State.launchMissed_launches (s : State) (l : Launch) (cause : Nat) :
    (s.launchMissed l cause).launches = s.launches.filter (· ≠ l) :=
  State.launches_eq_of_links (State.links_of_inner (State.complete_inner _ _ _ _))

theorem State.launchMissed_port (s : State) (l : Launch) (cause p : Nat) :
    ((s.launchMissed l cause).port p).link = (s.port p).link :=
  State.link_eq_of_links (s := { s with launches := s.launches.filter (· ≠ l) })
    (State.links_of_inner (State.complete_inner _ _ _ _)) p

/-- Missing launches takes just these off the list, and leaves the links of the ports. -/
theorem State.foldl_launchMissed (ls : List Launch) (cause p : Nat) (s : State) :
    (ls.foldl (fun (s : State) l => s.launchMissed l cause) s).launches = s.launches.filter (· ∉ ls) ∧
      ((ls.foldl (fun (s : State) l => s.launchMissed l cause) s).port p).link = (s.port p).link := by
  induction ls generalizing s with
  | nil => exact ⟨(List.filter_eq_self.2 fun _ _ => decide_eq_true List.not_mem_nil).symm, rfl⟩
  | cons l ls ih =>
    obtain ⟨hl, hp⟩ := ih (s.launchMissed l cause)
    refine ⟨?_, hp.trans (s.launchMissed_port l cause p)⟩
    rw [List.foldl_cons, hl, s.launchMissed_launches, List.filter_filter]
    exact List.filter_congr fun x _ => by simp [Bool.and_comm]

/-- Missing the launches of a port leaves those of the others. -/
theorem State.missLaunches_launches (s : State) (p cause : Nat) :
    (s.missLaunches p cause).launches = s.launches.filter fun l => decide (l.port ≠ p) := by
  rw [State.missLaunches, (State.foldl_launchMissed _ cause p s).1]
  exact List.filter_congr fun l hl => by simp [hl]

theorem State.missLaunches_link (s : State) (p cause k : Nat) : ((s.missLaunches p cause).port k).link = (s.port k).link :=
  (State.foldl_launchMissed _ cause k s).2

/-! ### Disarming a port (R124, R311, R394) -/

/-- A port as disarming leaves it beside its link. -/
def unarmed (x : PortSt) : PortSt :=
  { x with armed := false, hd := 0, hstate := .healthy, readmitAt := none, retryPoints := 0, silentMs := false }

/-- What PORT_DISARM makes of an armed port before it answers. -/
def State.disarm (s : State) (p : Nat) : State :=
  let unarmed := (s.flushCopies p).updPort p unarmed
  (if (s.port p).up then unarmed.goDown p true else (unarmed.updPort p linkGone).flushPort p).missLaunches p 4

theorem exec_portDisarm_of_offers {c : CmdRing} {g : Fetched} {s : State} (h : s.offers c g 0x02) :
    exec (.portDisarm c) s = .next (
      if 1024 ≤ leAt g.bytes 8 2 then (s.started c g).refuse (cmdName c g) .range (leAt g.bytes 8 2)
      else if s.portDown (leAt g.bytes 8 2) then (s.started c g).refuse (cmdName c g) .state (leAt g.bytes 8 2)
      else if !(s.port (leAt g.bytes 8 2)).armed then (s.started c g).succeed (cmdName c g)
      else ((s.started c g).disarm (leAt g.bytes 8 2)).succeed (cmdName c g)) :=
  congrArg done (State.withCmd_offers _ h rfl)

/-- The link of a port that is disarmed. -/
def PortLink.unarmed (x : PortLink) : PortLink := { x with armed := false, hd := 0, hstate := .healthy }
theorem unarmed_link (x : PortSt) : (unarmed x).link = x.link.unarmed := rfl

/-- A disarmed port is down and healthy, whether it was up or not, and its launches are missed. -/
theorem State.disarm_effect (s : State) (p : Nat) :
    ((s.disarm p).port p).link = ⟨false, false, 0, .healthy⟩ ∧
      (s.disarm p).launches = s.launches.filter fun l => decide (l.port ≠ p) := by
  unfold State.disarm
  extract_lets off
  have hoff : off.links = (s.updPort p unarmed).links := by
    unfold off
    rw [State.updPort_links_eq _ p unarmed_link, State.updPort_links_eq _ p unarmed_link, s.flushCopies_links]
  have hdown : (if (s.port p).up then off.goDown p true else (off.updPort p linkGone).flushPort p).links =
      ((s.updPort p unarmed).updPort p linkGone).links := by
    rw [apply_ite State.links, State.goDown_links, State.flushPort_links, ite_self, State.updPort_links_eq _ p linkGone_link,
      State.updPort_links_eq _ p linkGone_link, hoff]
  rw [State.missLaunches_link, State.missLaunches_launches, State.link_eq_of_links hdown, State.launches_eq_of_links hdown]
  exact ⟨by simp [State.port_updPort, linkGone_link, unarmed_link, PortLink.gone, PortLink.unarmed], rfl⟩

/-! ### Arming a port (R3, R242, R427) -/

/-- A port as arming leaves it before it trains, in CLK_CORE cycle `now`. -/
def newlyArmed (now : Nat) (x : PortSt) : PortSt :=
  { x with armed := true, firstWidth := 0, aliveAt := now, silentMs := false, retryPoints := 0 }

/-- What PORT_ARM makes of a port that it accepts before it answers. -/
def State.arm (s : State) (p : Nat) : State := (s.updPort p (newlyArmed s.time.core)).trainEval p

theorem exec_portArm_of_offers {c : CmdRing} {g : Fetched} {s : State} (h : s.offers c g 0x01) :
    exec (.portArm c) s = .next (
      if 1024 ≤ leAt g.bytes 8 2 then (s.started c g).refuse (cmdName c g) .range (leAt g.bytes 8 2)
      else if s.portDown (leAt g.bytes 8 2) || s.pwr.state ≠ 0 || s.pwr.transition.isSome then
        (s.started c g).refuse (cmdName c g) .state (leAt g.bytes 8 2)
      else if (s.port (leAt g.bytes 8 2)).armed then (s.started c g).succeed (cmdName c g)
      else if s.sec.lcState = 3 && !s.fibreLooped (leAt g.bytes 8 2 / 4) then
        (s.started c g).refuse (cmdName c g) .state (leAt g.bytes 8 2)
      else match s.armBad (leAt g.bytes 8 2) with
        | some cause => (s.started c g).refuse (cmdName c g) cause (leAt g.bytes 8 2)
        | none => ((s.started c g).arm (leAt g.bytes 8 2)).succeed (cmdName c g)) :=
  congrArg done (State.withCmd_offers _ h rfl)

theorem State.trainEval_frame (s : State) (p : Nat) : s.trainEval p = { s with ports := (s.trainEval p).ports } := by
  unfold State.trainEval
  dsimp only
  split <;> rfl

theorem State.trainEval_port_ne (s : State) {p k : Nat} (h : k ≠ p) : (s.trainEval p).port k = s.port k := by
  unfold State.trainEval
  dsimp only
  split
  · rfl
  · rw [State.port_updPort, if_neg h]

theorem State.trainEval_armed (s : State) (p : Nat) : ((s.trainEval p).port p).armed = (s.port p).armed := by
  unfold State.trainEval
  dsimp only
  split
  · rfl
  · simp [State.port_updPort]

/-- Where a port's light is allowed, it is up or trains. -/
theorem State.trainEval_trains (s : State) (p : Nat) (h : (s.trainEval p).txAllowed p = true) :
    ((s.trainEval p).port p).up = true ∨ ((s.trainEval p).port p).trainStep ≠ 0 := by
  by_cases hc : (s.port p).up || (s.port p).trainStep ≠ 0 || !s.txAllowed p
  · have he : s.trainEval p = s := if_pos hc
    rw [he] at h ⊢
    simpa [h] using hc
  · right
    rw [State.trainEval, if_neg hc, State.port_updPort, if_pos rfl]
    exact Nat.one_ne_zero

/-- The state after arming: the port armed, and in training where its light is allowed; nothing else has changed. -/
theorem State.arm_effect (s : State) (p : Nat) :
    ((s.arm p).port p).armed = true ∧
      ((s.arm p).txAllowed p = true → ((s.arm p).port p).up = true ∨ ((s.arm p).port p).trainStep ≠ 0) ∧
      (∀ k, k ≠ p → (s.arm p).port k = s.port k) ∧ s.arm p = { s with ports := (s.arm p).ports } := by
  refine ⟨?_, State.trainEval_trains _ p, fun k hk => ?_, State.trainEval_frame _ p⟩
  · rw [State.arm, State.trainEval_armed, State.port_updPort, if_pos rfl]
    rfl
  · rw [State.arm, State.trainEval_port_ne _ hk, State.port_updPort, if_neg hk]

/-- Settles O25: each clause is one branch of the command; arming and disarming themselves are `State.arm_effect` and
`State.disarm_effect`. -/
theorem portsAreArmedAndDisarmed : Obligations.PortsAreArmedAndDisarmed := by
  intro c g s p t ref
  refine ⟨fun h => ?_, fun h => ?_⟩
  · rw [exec_portArm_of_offers h]
    refine ⟨fun hp => by rw [if_pos hp], fun hp hd => ?_, fun hp hd hs ht => ?_⟩
    · rw [if_neg (by omega), if_pos (by simpa [or_assoc] using hd.elim .inl (.inr ∘ .inl))]
    · rw [if_neg (by omega), if_neg (by simp [p, hd, hs, ht])]
      refine ⟨fun ha => by rw [if_pos ha], fun ha hl hf => ?_, fun ha hl => ?_⟩
      · rw [if_neg (by simp [p, ha]), if_pos (by simp [p, hl, hf])]
      · rw [if_neg (by simp [p, ha]), if_neg (by simpa [p, Classical.or_iff_not_imp_left] using hl)]
        exact ⟨fun k hk => by simp only [p] at hk; rw [hk],
          fun hn => ⟨t.arm p, by simp only [p] at hn; rw [hn], t.arm_effect p⟩⟩
  · rw [exec_portDisarm_of_offers h]
    refine ⟨fun hp => by rw [if_pos hp], fun hp hd => by rw [if_neg (by omega), if_pos hd], fun hp hd ha => ?_,
      fun hp hd ha => ?_⟩
    · rw [if_neg (by omega), if_neg (by simp [p, hd]), if_pos (by simp [p, ha])]
    · rw [if_neg (by omega), if_neg (by simp [p, hd]), if_neg (by simp [p, ha])]
      obtain ⟨hlink, hlaunch⟩ := t.disarm_effect p
      exact ⟨_, rfl, congrArg PortLink.armed hlink, congrArg PortLink.up hlink, congrArg PortLink.hd hlink,
        congrArg PortLink.hstate hlink, hlaunch⟩

end Sys2Proof.Machine
end

section
/-! SUPPORT. Plans: what loading and unloading them leaves in the table of plans and the queue of loads, and the statement of this
family that follows (R158 to R161, R183). -/
namespace Sys2Proof.Machine
open Sys2Proof

/-! ### What leaves the plans and the queued loads alone -/

/-- The plans loaded and the loads queued. -/
def State.planTable (s : State) : SMap Plan × List QueuedLoad := (s.plans, s.loadQ)

theorem State.plans_of_planTable {s t : State} (h : t.planTable = s.planTable) : t.plans = s.plans := congrArg Prod.fst h
theorem State.loadQ_of_planTable {s t : State} (h : t.planTable = s.planTable) : t.loadQ = s.loadQ := congrArg Prod.snd h

theorem State.planTable_of_inner {s t : State} (h : t.inner = s.inner) : t.planTable = s.planTable := by
  have k := congrArg State.planTable h
  exact k

theorem foldl_planTable {β : Type} {g : State → β → State} (h : ∀ (s : State) x, (g s x).planTable = s.planTable)
    (l : List β) (s : State) : (l.foldl g s).planTable = s.planTable := by
  induction l generalizing s with
  | nil => rfl
  | cons x r ih => rw [List.foldl_cons, ih, h]

@[simp] theorem State.succeed_planTable (s : State) (ref : CmdRef) : (s.succeed ref).planTable = s.planTable :=
  State.planTable_of_inner (s.succeed_inner ref)
@[simp] theorem State.countQuad_planTable (s : State) (q i : Nat) : (s.countQuad q i).planTable = s.planTable := rfl
@[simp] theorem State.updArray_planTable (s : State) (k : Nat) (f : ArraySt → ArraySt) :
    (s.updArray k f).planTable = s.planTable := rfl

@[simp] theorem State.stopEnds_planTable (s : State) : s.stopEnds.planTable = s.planTable := by
  unfold State.stopEnds
  split
  · exact foldl_planTable State.succeed_planTable _ _
  · rfl

@[simp] theorem State.toNormal_planTable (s : State) : s.toNormal.planTable = s.planTable := by
  unfold State.toNormal
  rw [State.stopEnds_planTable]
  exact foldl_planTable (fun s _ => s.countQuad_planTable _ _) _ _

@[simp] theorem State.serviceStarts_planTable (s : State) : s.serviceStarts.planTable = s.planTable := by
  unfold State.serviceStarts
  split <;> simp

@[simp] theorem State.loadBanks_planTable (s : State) (key slot : Nat) : (s.loadBanks key slot).planTable = s.planTable := by
  unfold State.loadBanks
  split <;> rfl

@[simp] theorem State.takeArrays_planTable (slot q k n : Nat) (s : State) (l : List Nat) :
    (State.takeArrays slot q k n s l).1.planTable = s.planTable := by
  induction n generalizing s l with
  | zero => rfl
  | succ n ih =>
    unfold State.takeArrays
    split
    · rfl
    · simp [ih]

@[simp] theorem State.openStream_planTable (s : State) (slot q n : Nat) (recv : Bool) :
    (s.openStream slot q n recv).planTable = s.planTable := by
  unfold State.openStream
  split
  · rfl
  · exact State.takeArrays_planTable ..

/-- A plan's two Kiln streams in a quadrant open without touching the plans. -/
theorem State.openStreams_planTable (s : State) (slot : Nat) (img : Image) (q : Nat) :
    (if kilnIn img q then (s.openStream slot q (kilnArrays img q) false).openStream slot q (kilnArrays img q) true
      else s).planTable = s.planTable := by
  split <;> simp

/-! ### Installing and releasing a plan -/

/-- A plan as its image gives it, with nothing counted or opened (R160, R170). -/
def newPlan (slot : Nat) (img : Image) (outBuf outLen : Nat) : Plan :=
  { slot, img, qtab := rotation 0 img.qw, outBuf, outLen }

/-- Installing puts the new plan in its slot; the streams that open leave every plan and the queue alone. -/
theorem State.installPlan_planTable (s : State) (slot : Nat) (img : Image) (outBuf outLen : Nat) :
    (s.installPlan slot img outBuf outLen).planTable = (SMap.put s.plans slot (newPlan slot img outBuf outLen), s.loadQ) := by
  rw [← State.plans_of_planTable s.serviceStarts_planTable, ← State.loadQ_of_planTable s.serviceStarts_planTable]
  exact foldl_planTable (fun s q => s.openStreams_planTable slot img q) _ _

theorem State.installPlan_plans (s : State) (slot : Nat) (img : Image) (outBuf outLen : Nat) :
    (s.installPlan slot img outBuf outLen).plans = SMap.put s.plans slot (newPlan slot img outBuf outLen) :=
  congrArg Prod.fst (s.installPlan_planTable slot img outBuf outLen)

theorem State.installPlan_loadQ (s : State) (slot : Nat) (img : Image) (outBuf outLen : Nat) :
    (s.installPlan slot img outBuf outLen).loadQ = s.loadQ :=
  congrArg Prod.snd (s.installPlan_planTable slot img outBuf outLen)

theorem State.installPlan_plan (s : State) (slot : Nat) (img : Image) (outBuf outLen : Nat) :
    (s.installPlan slot img outBuf outLen).plan slot = some (newPlan slot img outBuf outLen) := by
  rw [State.plan, State.installPlan_plans, SMap.find_put_self]

theorem State.installPlan_plan_ne (s : State) {slot j : Nat} (img : Image) (outBuf outLen : Nat) (h : j ≠ slot) :
    (s.installPlan slot img outBuf outLen).plan j = s.plan j := by
  rw [State.plan, State.installPlan_plans, SMap.find_put_ne _ _ h, State.plan]

/-- Releasing a plan takes just it off the table. -/
theorem State.releasePlan_plans (s : State) (slot : Nat) : (s.releasePlan slot).plans = SMap.erase s.plans slot :=
  congrArg (SMap.erase · slot) (State.plans_of_planTable
    (foldl_planTable (fun s _ => foldl_planTable (fun s _ => s.updArray_planTable _ _) _ s) _ s))

theorem State.releasePlan_plan (s : State) (slot : Nat) : (s.releasePlan slot).plan slot = none := by
  rw [State.plan, State.releasePlan_plans, SMap.find_erase_self]

theorem State.releasePlan_plan_ne (s : State) {slot j : Nat} (h : j ≠ slot) : (s.releasePlan slot).plan j = s.plan j := by
  rw [State.plan, State.releasePlan_plans, SMap.find_erase_ne _ h, State.plan]

/-- No stream of a plan is left once it is released. -/
theorem State.releasePlan_kstreams (s : State) (slot : Nat) : ∀ k ∈ (s.releasePlan slot).kstreams, k.2.slot ≠ slot :=
  fun _ hk => of_decide_eq_true (List.mem_filter.1 hk).2

/-! ### The commands of plans, case by case -/

/-- What becomes of a load that does not fit but will once the present unloads have gone (R160). -/
def State.queueLoad (s : State) (x : QueuedLoad) : State :=
  if 64 ≤ s.loadQ.length then s.refuse x.cmd .full 0
  else ({ s with loadQ := s.loadQ ++ [x] }).completeAs x.cmd .resourcesPending true (leBytes 2 s.loadQ.length)

/-- What becomes of a load whose image is sound: refused, installed, ended or queued (R158 to R160). -/
def State.loadSound (s : State) (x : QueuedLoad) : State :=
  if s.namesOwn x.img then s.refuse x.cmd .ownEid 0
  else if x.outLen < x.img.ctxDepth * slotBytes x.img then s.refuse x.cmd .buffer 0
  else if (planQuads x.img).any s.quadStill then s.refuse x.cmd .state 0
  else if s.planFits x.img then (s.installPlan x.slot x.img x.outBuf x.outLen).succeed x.cmd
  else if !s.planWillFit x.img then s.complete x.cmd .insufficient []
  else s.queueLoad x

section
variable {s : State} {x : QueuedLoad}

theorem State.loadSound_of_own (h : s.namesOwn x.img = true) : s.loadSound x = s.refuse x.cmd .ownEid 0 := if_pos h

theorem State.loadSound_of_short (h : s.namesOwn x.img = false) (hb : x.outLen < x.img.ctxDepth * slotBytes x.img) :
    s.loadSound x = s.refuse x.cmd .buffer 0 := by
  rw [State.loadSound, if_neg (by simp [h]), if_pos hb]

section
variable (h : s.namesOwn x.img = false) (hb : x.img.ctxDepth * slotBytes x.img ≤ x.outLen)
  (hq : ∀ q ∈ planQuads x.img, s.quadStill q = false)
include h hb hq

/-- Past its refusals, a load is installed where it fits. -/
theorem State.loadSound_of_fits (hy : s.planFits x.img = true) :
    s.loadSound x = (s.installPlan x.slot x.img x.outBuf x.outLen).succeed x.cmd := by
  rw [State.loadSound, if_neg (by simp [h]), if_neg (by omega), if_neg (by simpa using hq), if_pos hy]

/-- Past its refusals, a load that will not fit either once the present unloads have gone ends INSUFFICIENT. -/
theorem State.loadSound_of_never_fits (hn : s.planFits x.img = false) (hw : s.planWillFit x.img = false) :
    s.loadSound x = s.complete x.cmd .insufficient [] := by
  rw [State.loadSound, if_neg (by simp [h]), if_neg (by omega), if_neg (by simpa using hq), if_neg (by simp [hn]),
    if_pos (by simp [hw])]

end

end

theorem exec_planLoad_of_failed_read {c : CmdRing} {g : Fetched} {s : State} (h : s.offers c g 0x10) :
    exec (.planLoad c none) s = .next ((s.started c g).dmaError (cmdName c g) (leAt g.bytes 16 8)) :=
  congrArg done (State.withRead_fails _ _ h rfl)

/-- PLAN_LOAD of an image that is read as `b` and has `fault` found in it. -/
theorem exec_planLoad_of_offers {c : CmdRing} {g : Fetched} {s : State} (h : s.offers c g 0x10) {bytes b : List Byte}
    {fault : Option Nat} (hb : padTo (max 128 (min (leAt bytes 8 4) (2 ^ 20))) bytes = b)
    (hf : imageFault b (s.rf .portTcmap [leAt b 30 1 % 4] 0 16) = fault) :
    exec (.planLoad c (some bytes)) s = .next (
      if 4096 ≤ leAt g.bytes 8 2 then (s.started c g).refuse (cmdName c g) .range 0
      else if (s.plan (leAt g.bytes 8 2)).isSome || s.loadQ.any (·.slot = leAt g.bytes 8 2) || s.pwr.state ≠ 0 ||
          s.sec.lcState = 3 then
        (s.started c g).refuse (cmdName c g) .state 0
      else if leAt b 22 1 = 2 && s.smallClass then (s.started c g).refuse (cmdName c g) .cls 0
      else fault.elim
        ((s.started c g).loadSound
          ⟨leAt g.bytes 8 2, readImage b, leAt g.bytes 24 8, leAt g.bytes 32 4, cmdName c g⟩)
        ((s.started c g).refuse (cmdName c g) .image)) := by
  have ht : imageFault b ((s.started c g).rf .portTcmap [leAt b 30 1 % 4] 0 16) = fault := hf
  show done (s.withRead ..) = _
  rw [State.withRead_offers _ bytes _ h rfl]
  dsimp only
  rw [hb, ht]
  cases fault <;> rfl

/-- PLAN_UNLOAD of a slot that has the load `queued` waiting for it and the plan `loaded` in it. -/
theorem exec_planUnload_of_offers {c : CmdRing} {g : Fetched} {s : State} (h : s.offers c g 0x11)
    (hs : leAt g.bytes 8 2 < 4096) (hm : leAt g.bytes 10 1 ≤ 1) {queued : Option QueuedLoad} {loaded : Option Plan}
    (hq : s.loadQ.find? (·.slot = leAt g.bytes 8 2) = queued) (hp : s.plan (leAt g.bytes 8 2) = loaded) :
    exec (.planUnload c) s = .next (
      queued.elim
        (loaded.elim ((s.started c g).refuse (cmdName c g) .state 0) fun p =>
          if p.unload.isSome then (s.started c g).refuse (cmdName c g) .state 0
          else
            let marked := (s.started c g).updPlan (leAt g.bytes 8 2) fun p =>
              { p with unload := some (leAt g.bytes 10 1 = 1, cmdName c g), aborted := 0, cut := [] }
            if leAt g.bytes 10 1 = 1 then marked.abortAll (leAt g.bytes 8 2) else marked)
        fun x =>
          let withdrawn := { s.started c g with loadQ := s.loadQ.filter (·.slot ≠ leAt g.bytes 8 2) }
          (State.refuse withdrawn x.cmd .state 0).complete (cmdName c g) .success (leBytes 4 0)) := by
  have hq' : (s.started c g).loadQ.find? (·.slot = leAt g.bytes 8 2) = queued := hq
  have hp' : (s.started c g).plan (leAt g.bytes 8 2) = loaded := hp
  show done (s.withCmd ..) = _
  rw [State.withCmd_offers _ h rfl]
  dsimp only
  rw [if_neg (by simp; omega), hq', hp']
  cases queued <;> cases loaded <;> rfl

section
variable {s : State}

theorem exec_queuedPlanLoad_of_none (h : s.loadQ = []) : exec .queuedPlanLoad s = .next s := by
  show execQueuedPlanLoad s = _
  simp [execQueuedPlanLoad, done, h]

theorem exec_queuedPlanLoad_of_no_firmware (h : s.hif.fwReady = false) : exec .queuedPlanLoad s = .next s := by
  show execQueuedPlanLoad s = _
  simp [execQueuedPlanLoad, done, h]

theorem exec_queuedPlanLoad_of_cons (hl : s.live = true) (hf : s.hif.fwReady = true) {x : QueuedLoad} {r : List QueuedLoad}
    (h : s.loadQ = x :: r) :
    exec .queuedPlanLoad s = .next (
      if s.planFits x.img && !(planQuads x.img).any s.quadDown then
        (({ s with loadQ := r }).installPlan x.slot x.img x.outBuf x.outLen).succeed x.cmd
      else s) := by
  show execQueuedPlanLoad s = _
  simp [execQueuedPlanLoad, done, h, hl, hf]

variable {sl : PlanSlot} {p : Plan}

theorem exec_planUnloadComplete_of_no_firmware (h : s.hif.fwReady = false) : exec (.planUnloadComplete sl) s = .next s := by
  show execPlanUnloadComplete sl s = _
  simp [execPlanUnloadComplete, done, h]

theorem exec_planUnloadComplete_of_unmarked (hp : s.plan sl.toNat = some p) (hu : p.unload = none) :
    exec (.planUnloadComplete sl) s = .next s := by
  show execPlanUnloadComplete sl s = _
  simp [execPlanUnloadComplete, done, hp, hu]

theorem exec_planUnloadComplete_of_open (hp : s.plan sl.toNat = some p) (ho : p.insts.any isOpen = true) :
    exec (.planUnloadComplete sl) s = .next s := by
  show execPlanUnloadComplete sl s = _
  simp only [execPlanUnloadComplete, done, hp, ho, if_true]
  cases p.unload <;> simp

theorem exec_planUnloadComplete_of_closed (hl : s.live = true) (hf : s.hif.fwReady = true) (hp : s.plan sl.toNat = some p)
    {m : Bool} {ref : CmdRef} (hu : p.unload = some (m, ref)) (ho : p.insts.any isOpen = false) :
    exec (.planUnloadComplete sl) s = .next ((s.releasePlan sl.toNat).complete ref .success (leBytes 4 p.aborted)) := by
  show execPlanUnloadComplete sl s = _
  simp [execPlanUnloadComplete, done, hl, hf, hp, hu, ho]

end

/-- Settles O49: each clause is one branch of its command; what installing and releasing leave in the table of plans is
`State.installPlan_planTable` and `State.releasePlan_plans`. -/
theorem plansAreLoadedAndUnloaded : Obligations.PlansAreLoadedAndUnloaded := by
  refine ⟨fun c g s => ?_, fun s hl => ⟨?_, fun x r hx => ⟨fun hn => ?_, fun hy hfw hq => ?_⟩,
    fun sl p hp => ⟨exec_planUnloadComplete_of_unmarked hp, fun m ref hu => ⟨exec_planUnloadComplete_of_open hp,
      exec_planUnloadComplete_of_no_firmware, fun ho hfw => ?_⟩⟩⟩⟩
  · dsimp only
    refine ⟨fun h => ⟨exec_planLoad_of_failed_read h, fun bytes => ?_⟩,
      fun h hs hm => ⟨fun x hx => ?_, fun hn hp => ?_, fun p hn hp hu hd => ?_⟩⟩
    · -- nothing below looks into the bytes of the image or into how its fault is found
      generalize hb : padTo _ bytes = b
      generalize hf : imageFault b _ = fault
      rw [exec_planLoad_of_offers h hb hf]
      refine ⟨fun hr => by rw [if_pos hr], fun hr hc => ?_, fun hr hp hq hw hi => ?_⟩
      · rw [if_neg (by omega), if_pos (by simpa [or_assoc] using hc)]
      rw [if_neg (by omega), if_neg (by simpa [or_assoc] using ⟨hp, hq, hw, hi⟩)]
      refine ⟨fun hv hc => by rw [if_pos (by simp [hc, hv])], fun hc => ?_⟩
      rw [if_neg (by simp [hc])]
      refine ⟨fun o ho => by rw [ho]; rfl, fun hn ho => ?_, fun hn ho hlen => ?_, fun hn ho hlen hst => ?_⟩ <;>
        rw [hn, Option.elim_none]
      · exact congrArg _ (State.loadSound_of_own ho)
      · exact congrArg _ (State.loadSound_of_short ho hlen)
      · refine ⟨fun hy => ?_, fun hn hw => congrArg _ (State.loadSound_of_never_fits ho hlen hst hn hw)⟩
        exact ⟨_, congrArg _ (State.loadSound_of_fits ho hlen hst hy), _, State.installPlan_plan .., rfl, rfl, rfl, rfl,
          fun j hj => State.installPlan_plan_ne _ _ _ _ hj⟩
    · rw [exec_planUnload_of_offers h hs hm hx rfl]
      rfl
    · rw [exec_planUnload_of_offers h hs hm (List.find?_eq_none.2 (by simpa using hn)) hp]
      rfl
    · rw [exec_planUnload_of_offers h hs hm (List.find?_eq_none.2 (by simpa using hn)) hp]
      simp [hu, hd]
  · rintro (h | h)
    · exact exec_queuedPlanLoad_of_none h
    · exact exec_queuedPlanLoad_of_no_firmware h
  · by_cases hfw : s.hif.fwReady = true
    · rw [exec_queuedPlanLoad_of_cons hl hfw hx, if_neg (by simp [hn])]
    · exact exec_queuedPlanLoad_of_no_firmware (by simpa using hfw)
  · rw [exec_queuedPlanLoad_of_cons hl hfw hx, if_pos (by simpa [hy] using hq)]
    exact ⟨_, rfl, State.installPlan_loadQ .., _, State.installPlan_plan .., rfl, rfl⟩
  · exact ⟨_, exec_planUnloadComplete_of_closed hl hfw hp hu ho, State.releasePlan_plan _ _, State.releasePlan_kstreams _ _,
      fun j hj => State.releasePlan_plan_ne _ hj⟩

end Sys2Proof.Machine
end
